-- ==== Sys2Proof/Word.lean ====
section
/-!
DEFINITION. The plain words of the GX9: bytes, byte strings and 48-bit counter values (R3, R4, R352).
-/

namespace Sys2Proof

/-- One byte. -/
abbrev Byte := BitVec 8

/-- A run of bytes, lowest address first (R4). -/
abbrev Bytes := List Byte

/-- A 48-bit domain-counter value (R352, R353). -/
abbrev Time := BitVec 48

/-- The bit pattern of an FP32 value (R25). -/
abbrev F32 := BitVec 32

/-- A 16-bit status value (R818). -/
abbrev Status := BitVec 16

end Sys2Proof
end

