-- ==== Sys2Proof/Syntax.lean ====
section
/-!
DEFINITION. The commands the block takes: one constructor of `Instr` per row of spec/opcode_table.json.

Every command names `now`, the hub-counter value at which it takes place (R352): the table's rows carry no
fields, so what an event brings with it is this model's choice of operands (DESIGN CHOICE, log entry 1).
What only the world outside the modelled logic can decide (a sensor reading, the bytes of a packet, whether a
physical fault struck) is an operand. What the part itself decides is computed from the state.
-/

namespace Sys2Proof

/-- Outcome of the packet-header ECC check of a received packet (R259). -/
inductive Ecc where
  | ok | corrected | bad
  deriving DecidableEq, Repr

/-- A long CSI-2 packet as it arrives at an input port (R259, R772). -/
structure Pkt where
  port     : Fin 12
  vc       : BitVec 5
  dt       : BitVec 6
  ecc      : Ecc
  crcOk    : Bool
  payload  : Bytes
  portTime : Time
  deriving DecidableEq, Repr

/-- A short CSI-2 packet as it arrives at an input port (R773, R788). -/
structure ShortPkt where
  port     : Fin 12
  vc       : BitVec 5
  dt       : BitVec 6
  ecc      : Ecc
  data     : BitVec 16
  portTime : Time
  deriving DecidableEq, Repr

/-- The dies of the module (R591, R597). -/
inductive Die where
  | die0 | die1 | hub
  deriving DecidableEq, Repr

/-- The halves of the Control Engine (R501). -/
inductive Half where
  | a | b
  deriving DecidableEq, Repr

/-- Engine instances that carry engine test slices (R654). -/
inductive EngineUnit where
  | solver (n : Fin 4) | planner (n : Fin 2) | ingestCore | decoder (n : Fin 2) | fusion
  deriving DecidableEq, Repr

/-- A unit under periodic self-test (R674 to R676). -/
inductive TestUnit where
  | tile (t : Fin 4160) | engine (e : EngineUnit)
  deriving DecidableEq, Repr

/-- What the physical tests and calibrations of a start-up find (R653, R726, R641, R642, R124, R751). -/
structure BootFindings where
  lecternOk  : Bool
  bankFails  : BitVec 2
  calFitOk   : Bool
  /-- The raw readings of the junction sensors in 1/64 °C, sensor 0 first, and the hub's reference sensor (R726). -/
  readings   : List (BitVec 16)
  reference  : BitVec 16
  setFail    : BitVec 4
  checkerOk  : Bool
  lbistFail  : List (Fin 4160)
  engineFail : List EngineUnit
  deriving DecidableEq, Repr

/-- What a fault of the array's adders makes of an exact sum (R660, R663): off by n × 2^e, or not finite. -/
inductive SumFault where
  | off (n e : Int)
  | nonfinite
  deriving DecidableEq, Repr

/-- The causes of the safe-cause word (R687), in its bit order. -/
inductive SafeCause where
  | notReady | hostRequest | loopMismatch | resultMissing | watchdog | lecternFault | clockFault
  | supplyFault | thermal | safePinFault | policyEvent | fwHookUe | selftestFail
  deriving DecidableEq, Repr

/-- The end of a transfer on a controller port (R794). -/
inductive BridgeResult where
  | done (data : Bytes) | nacked | busError
  deriving DecidableEq, Repr

/-- A place in the Shelf's store (R401, R404): a node's entry by level and indices, or eight cells of a patch by
shelf × 1,024 + patch and place. -/
inductive ShelfPlace where
  | entry (l i j k : Nat)
  | cells (patch word : Nat)
  deriving DecidableEq, Repr

/-- What the Planner's search of one span has come to (R435 to R437). -/
structure SearchWork where
  /-- BIRRT: the joined path before it is shortened. TRAJ_OPT: the iterate. -/
  path : List (List F32)
  /-- TRAJ_OPT: the iterate before it. -/
  before : List (List F32)
  /-- ROADMAP: the vertices sampled, and the edges added. -/
  vertices : List (List F32)
  edges : List (Nat × Nat)
  /-- Nodes of the two trees, or iterations. -/
  steps : Nat
  deriving DecidableEq, Repr

/-- A search of the Planner comes to a candidate (R435 to R439): the work of each span, the checks that it ran, and what they met in
the Shelf's store: corrected words and uncorrectable ones (R427, R627). -/
structure Candidate where
  spans     : List SearchWork
  checks    : Nat
  corrected : Nat
  bad       : List ShelfPlace
  deriving DecidableEq, Repr

/-- A user of a PERIOD_IN pin that counts missed edges (R519, R543). -/
inductive LockUser where
  | slot (s : Fin 256) | job (j : BitVec 16)
  deriving DecidableEq, Repr

/-- The vectors that one half of the Control Engine computes in a period (R509, R524). -/
inductive UpsetVec where
  | outputs | nextState | nextModel
  deriving DecidableEq, Repr

/-- A physical upset of one bit of one half's computation (R527 detects it). -/
structure Upset where
  half  : Half
  vec   : UpsetVec
  index : Nat
  bit   : Fin 32
  deriving DecidableEq, Repr

/-- Errors met in a tile store while a command reads it (R109 to R111): how many single-bit errors were
corrected, and which byte addresses turned out uncorrectable. -/
structure StoreErrors where
  corrected : Nat
  bad       : List Nat
  deriving DecidableEq, Repr

/-- What a check finds in a word of a tile store (R113) or in a Hook (R627). -/
inductive ScrubFinding where
  | clean | corrected | uncorrectable
  deriving DecidableEq, Repr

/-- What the Lectern finds when it reads its two mirrored dies (R643). -/
inductive MirrorFinding where
  | clean | oneCopy | bothCopies
  deriving DecidableEq, Repr

/-- One erroneous symbol of one beat of a memory line, with its error value (R610, R611). -/
structure BeatError where
  beat : Fin 16
  sym  : Fin 20
  val  : Byte
  deriving DecidableEq, Repr

/-- Errors met in one memory line (R614) by a read. -/
structure LineError where
  set  : Fin 4
  line : BitVec 27
  errs : List BeatError
  deriving DecidableEq, Repr

/-- Errors that a read meets in the stores of the hub: corrected and uncorrectable KV page-table entries (R627), corrected
errors of the system cache, and its lines with an uncorrectable data byte or tag, with the beats affected (R626). -/
structure ChipErrors where
  kvCorrected    : Nat
  kvBad          : Bool
  cacheCorrected : Nat
  cacheBad       : List (Fin 4 × BitVec 27 × List (Fin 16))
  deriving DecidableEq, Repr

/-- The private read of a transfer on the host window (R692, R693): none, a read begun anew, or the next part of the one in
progress. -/
inductive HostRead where
  | none | fresh (n : Nat) | more (n : Nat)
  deriving DecidableEq, Repr

/-- One transfer of the I3C controller with the host window (R691 to R694): the bytes of its private write, if it has one, and
its private read. -/
structure HostTransfer where
  bytes : Bytes
  read  : HostRead
  deriving DecidableEq, Repr

/-- What the read of one tile's store finds (R109). -/
structure TileRead where
  tile   : Fin 4160
  errors : StoreErrors
  deriving DecidableEq, Repr

/-- What the reads of a state slot's slices find (R246). -/
structure SlotRead where
  slot  : Fin 4096
  tiles : List TileRead
  deriving DecidableEq, Repr

/-- What a DMA_IN reads: its descriptor in the tile's store, and lines of main memory (R109, R152). -/
structure DmaReads where
  desc  : StoreErrors
  lines : List LineError
  deriving DecidableEq, Repr

/-- What the refill of a tile's command buffer reads (R162). -/
structure RefillRead where
  tile  : Fin 4160
  lines : List LineError
  chip  : ChipErrors
  deriving DecidableEq, Repr

/-- A SEND of a tile on its way, by its place among them in program order. -/
structure SendRef where
  tile  : Fin 4160
  index : Nat
  deriving DecidableEq, Repr

/-- What an activity counter of a unit has counted in an interval for one job, or for none (R585, R604): the unit by its
domain number, the counter in the order of its row. -/
structure Activity where
  unit    : Byte
  counter : BitVec 4
  job     : Option (BitVec 16)
  count   : Nat
  deriving DecidableEq, Repr

/-- The activity and the measurements of one 2 µs interval of the power governor (R585, R590, R604). -/
structure GovernorReading where
  counts : List Activity
  battMv : BitVec 16
  battMa : Nat
  pinNj  : Nat
  deriving DecidableEq, Repr

/-- An entry of the Lectern's monitor table (R681): a job or a Control Engine slot. -/
inductive MonKey where
  | job (j : BitVec 16) | slot (s : Fin 256)
  deriving DecidableEq, Repr

/-- The commands of the block, one per row of the opcode table. -/
inductive Instr where
  /-- BATTERY_TURN_ON (R724). -/
  | batteryTurnOn (now : Time) (f : BootFindings)
  /-- RESET_N_ASSERT (R728). -/
  | resetNAssert (now : Time)
  /-- RESET_N_RELEASE (R728). -/
  | resetNRelease (now : Time) (f : BootFindings)
  /-- BROWN_OUT (R801). -/
  | brownOut (now : Time)
  /-- OVER_VOLTAGE_TRIP (R802). -/
  | overVoltageTrip (now : Time)
  /-- WAKE_EDGE (R753). -/
  | wakeEdge (now : Time) (f : BootFindings)
  /-- RECOVERY_PACKET (R764). -/
  | recoveryPacket (now : Time) (p : Pkt) (f : BootFindings)
  /-- HOST_WINDOW_WRITE (R694). -/
  | hostWindowWrite (now : Time) (transfer : HostTransfer)
  /-- EVENT_POP (R710). -/
  | eventPop (now : Time) (value : BitVec 32)
  /-- OVERFLOW_CLEAR (R709). -/
  | overflowClear (now : Time)
  /-- IBI_ACK (R712). -/
  | ibiAck (now : Time)
  /-- IBI_RETRY (R712). -/
  | ibiRetry (now : Time)
  /-- COMMAND_HOLD_RELEASE (R577). -/
  | commandHoldRelease (now : Time) (drawer : Fin 64)
  /-- HELLO (R713). -/
  | hello (now : Time) (drawer : Fin 64)
  /-- READ_MORE (R706). -/
  | readMore (now : Time) (drawer : Fin 64)
  /-- PLAN_LOAD (R736). -/
  | planLoad (now : Time) (drawer : Fin 64)
  /-- PLAN_ACTIVATE (R574). -/
  | planActivate (now : Time) (drawer : Fin 64)
  /-- PARTITION_QUIESCED (R574). -/
  | partitionQuiesced (now : Time) (part : Fin 8)
  /-- PLAN_UNLOAD (R737). -/
  | planUnload (now : Time) (drawer : Fin 64)
  /-- PLAN_LIST (R713). -/
  | planList (now : Time) (drawer : Fin 64)
  /-- PARTITION_SET (R573). -/
  | partitionSet (now : Time) (drawer : Fin 64)
  /-- OUTPUTS_ENABLE (R730). -/
  | outputsEnable (now : Time) (drawer : Fin 64)
  /-- OUTPUTS_DISABLE (R731). -/
  | outputsDisable (now : Time) (drawer : Fin 64)
  /-- JOB_START (R577). -/
  | jobStart (now : Time) (drawer : Fin 64)
  /-- JOB_STOP (R531). -/
  | jobStop (now : Time) (drawer : Fin 64)
  /-- MODE_CHANGE (R569). -/
  | modeChange (now : Time) (drawer : Fin 64)
  /-- STREAM_BIND (R263). -/
  | streamBind (now : Time) (drawer : Fin 64)
  /-- STREAM_UNBIND (R264). -/
  | streamUnbind (now : Time) (drawer : Fin 64)
  /-- OUT_BIND (R778). -/
  | outBind (now : Time) (drawer : Fin 64)
  /-- GROUP_SET (R308). -/
  | groupSet (now : Time) (drawer : Fin 64)
  /-- KV_OPEN (R212). -/
  | kvOpen (now : Time) (drawer : Fin 64)
  /-- KV_CLOSE (R713). -/
  | kvClose (now : Time) (drawer : Fin 64)
  /-- KV_READ (R713). -/
  | kvRead (now : Time) (drawer : Fin 64)
  /-- KV_PAGE_READ (R210). -/
  | kvPageRead (now : Time) (drawer : Fin 64)
  /-- SLOT_SWAP_OUT (R244). -/
  | slotSwapOut (now : Time) (drawer : Fin 64)
  /-- SLOT_SWAP_IN (R249). -/
  | slotSwapIn (now : Time) (drawer : Fin 64)
  /-- SLOT_WITHDRAW (R248). -/
  | slotWithdraw (now : Time) (drawer : Fin 64)
  /-- SWAP_OUT_DONE (R246). -/
  | swapOutDone (now : Time) (found : SlotRead)
  /-- SWAP_IN_DONE (R247). -/
  | swapInDone (now : Time) (slot : Fin 4096) (uncorrectable : Bool)
  /-- MAP_UPDATE (R407). -/
  | mapUpdate (now : Time) (drawer : Fin 64)
  /-- SOLVER_UPDATE (R470). -/
  | solverUpdate (now : Time) (drawer : Fin 64)
  /-- SOLVER_INFO (R713). -/
  | solverInfo (now : Time) (drawer : Fin 64)
  /-- MEM_WRITE (R722). -/
  | memWrite (now : Time) (drawer : Fin 64)
  /-- TIME_SAMPLES (R713). -/
  | timeSamples (now : Time) (drawer : Fin 64)
  /-- TIME_CONVERT (R357). -/
  | timeConvert (now : Time) (drawer : Fin 64)
  /-- CAL_READ (R713). -/
  | calRead (now : Time) (drawer : Fin 64)
  /-- CAL_WRITE (R744). -/
  | calWrite (now : Time) (drawer : Fin 64)
  /-- SELFTEST_POLICY (R658). -/
  | selftestPolicy (now : Time) (drawer : Fin 64)
  /-- SAFE_REQUEST (R685). -/
  | safeRequest (now : Time) (drawer : Fin 64)
  /-- SAFE_RELEASE (R689). -/
  | safeRelease (now : Time) (drawer : Fin 64) (causeInCycle : Option SafeCause)
  /-- LECTERN_LOG (R717). -/
  | lecternLog (now : Time) (drawer : Fin 64)
  /-- POWER_LIMIT (R589). -/
  | powerLimit (now : Time) (drawer : Fin 64)
  /-- TELEMETRY (R607). -/
  | telemetry (now : Time) (drawer : Fin 64)
  /-- COUNTERS (R713). -/
  | counters (now : Time) (drawer : Fin 64)
  /-- MEM_REPORT (R718). -/
  | memReport (now : Time) (drawer : Fin 64)
  /-- TILE_CENSUS (R129). -/
  | tileCensus (now : Time) (drawer : Fin 64)
  /-- STANDBY_ENTER (R609). -/
  | standbyEnter (now : Time) (drawer : Fin 64)
  /-- STANDBY_LEAVE (R753). -/
  | standbyLeave (now : Time) (drawer : Fin 64) (f : BootFindings)
  /-- SERVICE_CLEAR (R752). -/
  | serviceClear (now : Time) (drawer : Fin 64)
  /-- FW_UPDATE (R750). -/
  | fwUpdate (now : Time) (drawer : Fin 64)
  /-- ATTEST (R769). -/
  | attest (now : Time) (drawer : Fin 64)
  /-- IDENTITY_READ (R768). -/
  | identityRead (now : Time) (drawer : Fin 64)
  /-- KEY_REVOKE (R765). -/
  | keyRevoke (now : Time) (drawer : Fin 64)
  /-- BULK_PACKET (R720). -/
  | bulkPacket (now : Time) (p : Pkt)
  /-- BULK_TIMEOUT (R721). -/
  | bulkTimeout (now : Time) (drawer : Fin 64)
  /-- ENEC (R791). -/
  | enec (now : Time) (target : Option (Fin 5)) (events : BitVec 8)
  /-- DISEC (R791). -/
  | disec (now : Time) (target : Option (Fin 5)) (events : BitVec 8)
  /-- RSTDAA (R791). -/
  | rstdaa (now : Time)
  /-- ENTDAA (R791). -/
  | entdaa (now : Time) (assigned : List (Fin 5 × BitVec 7))
  /-- SETMWL (R791). -/
  | setmwl (now : Time) (target : Option (Fin 5)) (len : BitVec 16)
  /-- SETMRL (R791). -/
  | setmrl (now : Time) (target : Option (Fin 5)) (len : BitVec 16)
  /-- ENTHDR0 (R792). -/
  | enthdr0 (now : Time)
  /-- SETDASA (R791). -/
  | setdasa (now : Time) (addr : BitVec 7)
  /-- SETNEWDA (R791). -/
  | setnewda (now : Time) (target : Fin 5) (addr : BitVec 7)
  /-- GETMWL (R791). -/
  | getmwl (now : Time) (target : Fin 5)
  /-- GETMRL (R791). -/
  | getmrl (now : Time) (target : Fin 5)
  /-- GETPID (R790). -/
  | getpid (now : Time) (target : Fin 5)
  /-- GETBCR (R790). -/
  | getbcr (now : Time) (target : Fin 5)
  /-- GETDCR (R790). -/
  | getdcr (now : Time) (target : Fin 5)
  /-- GETSTATUS (R791). -/
  | getstatus (now : Time) (target : Fin 5)
  /-- GETMXDS (R791). -/
  | getmxds (now : Time) (target : Fin 5)
  /-- BRIDGE_PRIVATE_WRITE (R793). -/
  | bridgePrivateWrite (now : Time) (bridge : Fin 4) (addr : BitVec 7) (data : Bytes)
  /-- BRIDGE_BROADCAST_CCC (R793). -/
  | bridgeBroadcastCcc (now : Time) (bridge : Fin 4) (data : Bytes)
  /-- BRIDGE_SET_MODE (R793). -/
  | bridgeSetMode (now : Time) (bridge : Fin 4) (mode : Byte)
  /-- BRIDGE_ENTDAA (R793). -/
  | bridgeEntdaa (now : Time) (bridge : Fin 4) (first : Byte)
  /-- BRIDGE_RSTDAA (R793). -/
  | bridgeRstdaa (now : Time) (bridge : Fin 4)
  /-- BRIDGE_PRIVATE_READ (R793). -/
  | bridgePrivateRead (now : Time) (bridge : Fin 4) (addr : BitVec 7) (len : Byte)
  /-- BRIDGE_TRANSFER_DONE (R794). -/
  | bridgeTransferDone (now : Time) (bridge : Fin 4) (result : BridgeResult)
  /-- FRAME_START (R266). -/
  | frameStart (now : Time) (p : ShortPkt)
  /-- FRAME_END (R668). -/
  | frameEnd (now : Time) (p : ShortPkt)
  /-- LINE_SHORT_PACKET (R773). -/
  | lineShortPacket (now : Time) (p : ShortPkt)
  /-- GENERIC_SHORT_PACKET (R788). -/
  | genericShortPacket (now : Time) (p : ShortPkt)
  /-- IMAGE_LINE_PACKET (R283). -/
  | imageLinePacket (now : Time) (p : Pkt)
  /-- EMBEDDED_DATA_PACKET (R673). -/
  | embeddedDataPacket (now : Time) (p : Pkt)
  /-- JPEG_PACKET (R275). -/
  | jpegPacket (now : Time) (p : Pkt)
  /-- POINT_PACKET (R280). -/
  | pointPacket (now : Time) (p : Pkt)
  /-- FEEDBACK_PACKET (R512). -/
  | feedbackPacket (now : Time) (p : Pkt)
  /-- INERTIAL_PACKET (R364). -/
  | inertialPacket (now : Time) (p : Pkt)
  /-- BODY_LINK_PACKET (R782). -/
  | bodyLinkPacket (now : Time) (p : Pkt)
  /-- INPUT_SKEW_CALIBRATION (R774). -/
  | inputSkewCalibration (now : Time) (port : Fin 12) (lanes : BitVec 3) (deskewed : Bool)
  /-- OUTPUT_SKEW_CALIBRATION (R772). -/
  | outputSkewCalibration (now : Time) (port : Fin 4)
  /-- DECODER_TAKE (R277). -/
  | decoderTake (now : Time) (dec : Fin 2)
  /-- DECODE_DONE (R285). -/
  | decodeDone (now : Time) (tag : BitVec 12) (seq : BitVec 32) (work : Nat)
  /-- WORK_CAP_REACHED (R287). -/
  | workCapReached (now : Time) (tag : BitVec 12) (seq : BitVec 32)
  /-- RECORD_POST (R306). -/
  | recordPost (now : Time) (tag : BitVec 12)
  /-- BATCH_WINDOW_EXPIRY (R304). -/
  | batchWindowExpiry (now : Time) (tag : BitVec 12)
  /-- GROUP_WINDOW_EXPIRY (R311). -/
  | groupWindowExpiry (now : Time) (group : Fin 8)
  /-- GROUP_RECORD_POST (R314). -/
  | groupRecordPost (now : Time) (group : Fin 8)
  /-- TEST_FRAME_COMPARE (R669). -/
  | testFrameCompare (now : Time) (tag : BitVec 12) (crc : BitVec 32)
  /-- FINISHER_FRAME (R351). -/
  | finisherFrame (now : Time) (job : BitVec 16)
  /-- CORRESPONDENCE_SAMPLE (R355). -/
  | correspondenceSample (now : Time) (captured : List (Byte × Time))
  /-- MEASUREMENT_TAKE (R367). -/
  | measurementTake (now : Time)
  /-- FUSION_TICK (R370). -/
  | fusionTick (now : Time)
  /-- FUSION_CLOSE (R370). -/
  | fusionClose (now : Time)
  /-- FUSION_EMISSION (R391). -/
  | fusionEmission (now : Time) (finished : Bool)
  /-- SHELF_UPDATE_SIGNAL (R407). -/
  | shelfUpdateSignal (now : Time)
  /-- SHELF_BATCH (R412). -/
  | shelfBatch (now : Time)
  /-- CANDIDATE_COMPLETE (R440). -/
  | candidateComplete (now : Time) (job : BitVec 16) (cand : Candidate)
  /-- PLANNER_BUDGET_END (R445). -/
  | plannerBudgetEnd (now : Time) (job : BitVec 16)
  /-- SOLVER_UPDATE_SIGNAL (R470). -/
  | solverUpdateSignal (now : Time) (job : BitVec 16)
  /-- SOLVER_BATCH_APPLY (R475). -/
  | solverBatchApply (now : Time) (job : BitVec 16)
  /-- APPLICATION_POINT (R477). -/
  | applicationPoint (now : Time) (job : BitVec 16)
  /-- ITERATION_COMPLETE (R490). -/
  | iterationComplete (now : Time) (job : BitVec 16) (finding : ScrubFinding)
  /-- SOLVE_BUDGET_EXPIRY (R490). -/
  | solveBudgetExpiry (now : Time) (job : BitVec 16)
  /-- SLOT_PERIOD_START (R518). -/
  | slotPeriodStart (now : Time) (slot : Fin 256)
  /-- PERIOD_IN_EDGE (R519). -/
  | periodInEdge (now : Time) (pin : Fin 8)
  /-- EDGE_WINDOW_EXPIRY (R519). -/
  | edgeWindowExpiry (now : Time) (user : LockUser)
  /-- INPUT_LATCH (R513). -/
  | inputLatch (now : Time) (slot : Fin 256) (upset : Option Upset)
  /-- LOOP_COMPARE (R527). -/
  | loopCompare (now : Time) (slot : Fin 256)
  /-- OUTPUT_WRITE (R522). -/
  | outputWrite (now : Time) (slot : Fin 256) (finding : ScrubFinding)
  /-- TEST_ROW (R654). -/
  | testRow (now : Time) (half : Half) (pass : Bool)
  /-- PERIODIC_PERIOD_START (R542). -/
  | periodicPeriodStart (now : Time) (job : BitVec 16)
  /-- HOOK_TRIGGERED_START (R544). -/
  | hookTriggeredStart (now : Time) (job : BitVec 16)
  /-- BACKGROUND_GRANT (R602). -/
  | backgroundGrant (now : Time)
  /-- DEADLINE_EXPIRY (R550). -/
  | deadlineExpiry (now : Time) (job : BitVec 16)
  /-- PERIOD_COMPLETE (R549). -/
  | periodComplete (now : Time) (job : BitVec 16)
  /-- PREEMPT_SAVE_DONE (R555). -/
  | preemptSaveDone (now : Time) (found : TileRead)
  /-- RESUME (R556). -/
  | resume (now : Time) (job : BitVec 16)
  /-- START (R159). -/
  | tileStart (now : Time) (tile : Fin 4160)
  /-- LOAD_W (R92). -/
  | loadW (now : Time) (tile : Fin 4160) (se : StoreErrors)
  /-- PASS (R95). -/
  | arrayPass (now : Time) (tile : Fin 4160) (se : StoreErrors)
  /-- DRAIN (R85). -/
  | drain (now : Time) (tile : Fin 4160)
  /-- CHECKSUM_COMPARE (R660). -/
  | checksumCompare (now : Time) (tile : Fin 4160) (faults : List (Nat × SumFault))
  /-- GATE (R146). -/
  | gateChain (now : Time) (tile : Fin 4160) (fromDrain : Bool) (se : StoreErrors)
  /-- SEND (R151). -/
  | meshSend (now : Time) (tile : Fin 4160) (se : StoreErrors)
  /-- SEND_ACKNOWLEDGED (R150). -/
  | sendAcknowledged (now : Time) (send : SendRef)
  /-- DMA_IN (R822). -/
  | dmaIn (now : Time) (tile : Fin 4160) (found : DmaReads) (ce : ChipErrors)
  /-- DMA_IN_LANDED (R170). -/
  | dmaInLanded (now : Time) (tile : Fin 4160)
  /-- DMA_OUT (R822). -/
  | dmaOut (now : Time) (tile : Fin 4160) (se : StoreErrors)
  /-- DMA_OUT_VISIBLE (R169). -/
  | dmaOutVisible (now : Time) (tile : Fin 4160)
  /-- HOOK_WAIT (R186). -/
  | hookWait (now : Time) (tile : Fin 4160)
  /-- HOOK_WAIT_TRY (R186). -/
  | hookWaitTry (now : Time) (tile : Fin 4160)
  /-- HOOK_SIGNAL (R187). -/
  | hookSignal (now : Time) (tile : Fin 4160)
  /-- HOOK_WAIT_DONE (R188). -/
  | hookWaitDone (now : Time) (tile : Fin 4160)
  /-- LOOP (R160). -/
  | loopBody (now : Time) (tile : Fin 4160)
  /-- BRANCH_EPOCH (R156). -/
  | branchEpoch (now : Time) (tile : Fin 4160)
  /-- END (R164). -/
  | endProgram (now : Time) (tile : Fin 4160)
  /-- REFILL_DONE (R162). -/
  | refillDone (now : Time) (found : RefillRead)
  /-- TILE_STOPPED (R165). -/
  | tileStopped (now : Time) (tile : Fin 4160)
  /-- TILE_SCRUB (R113). -/
  | tileScrub (now : Time) (tile : Fin 4160) (word : Fin 4096) (finding : ScrubFinding)
  /-- SIGNAL (R182). -/
  | hookArraySignal (now : Time) (index : Nat) (err : ScrubFinding)
  /-- WAIT (R181). -/
  | hookArrayWait (now : Time) (index : Nat)
  /-- TRY (R181). -/
  | hookTry (now : Time) (index : Nat)
  /-- RESET (R181). -/
  | hookArrayReset (now : Time) (hook : Fin 16384)
  /-- WAIT_RETRY (R184). -/
  | waitRetry (now : Time) (hook : Fin 16384) (index : Nat)
  /-- GOVERNOR_INTERVAL (R592). -/
  | governorInterval (now : Time) (r : GovernorReading)
  /-- TRIM_UPDATE (R587). -/
  | trimUpdate (now : Time) (measured : Int)
  /-- JUNCTION_SENSOR_READ (R595). -/
  | junctionSensorRead (now : Time) (readings : List (BitVec 16))
  /-- THERMAL_HOLD_EXPIRY (R596). -/
  | thermalHoldExpiry (now : Time)
  /-- THERMAL_RECOVERY (R595). -/
  | thermalRecovery (now : Time) (die : Die)
  /-- POWER_OVERRUN_PREEMPT (R593). -/
  | powerOverrunPreempt (now : Time)
  /-- POWER_LIMIT_EVENT (R594). -/
  | powerLimitEvent (now : Time)
  /-- DROOP_DETECT (R597). -/
  | droopDetect (now : Time) (die : Die)
  /-- DOMAIN_IDLE_TIMEOUT (R579). -/
  | domainIdleTimeout (now : Time) (dom : Fin 68)
  /-- DOMAIN_OFF_DONE (R584). -/
  | domainOffDone (now : Time) (dom : Fin 68)
  /-- DOMAIN_ON_DONE (R114). -/
  | domainOnDone (now : Time) (dom : Fin 68)
  /-- PATROL_SCRUB (R639). -/
  | patrolScrub (now : Time) (set : Fin 4) (found : List BeatError) (reread : List BeatError)
  /-- DEMAND_SCRUB (R631). -/
  | demandScrub (now : Time) (set : Fin 4) (found : List BeatError) (reread : List BeatError)
  /-- PERSIST_RECORD (R127). -/
  | persistRecord (now : Time)
  /-- LOCKSTEP_MISMATCH (R649). -/
  | lockstepMismatch (now : Time) (bootOk : Bool)
  /-- LECTERN_LINK_FAULT (R650). -/
  | lecternLinkFault (now : Time)
  /-- CLOCK_CHECK (R651). -/
  | clockCheck (now : Time) (ppm : Int)
  /-- RAIL_OUT_OF_RANGE (R652). -/
  | railOutOfRange (now : Time)
  /-- SAFE_PIN_READBACK (R686). -/
  | safePinReadback (now : Time) (levelA : Bool) (levelB : Bool)
  /-- LECTERN_STORE_SCRUB (R643). -/
  | lecternStoreScrub (now : Time) (finding : MirrorFinding)
  /-- WATCHDOG_KICK (R680). -/
  | watchdogKick (now : Time) (seq : BitVec 16)
  /-- WATCHDOG_EXPIRY (R680). -/
  | watchdogExpiry (now : Time)
  /-- START_TOKEN (R682). -/
  | startToken (now : Time)
  /-- RESULT_TOKEN (R683). -/
  | resultToken (now : Time)
  /-- CHECK_POINT_EXPIRY (R684). -/
  | checkPointExpiry (now : Time) (entry : MonKey)
  /-- NOTIFICATION (R655). -/
  | notification (now : Time)
  /-- BUCKET_LEAK (R664). -/
  | bucketLeak (now : Time)
  /-- SELFTEST_SCHEDULE (R676). -/
  | selftestSchedule (now : Time) (unit : TestUnit)
  /-- SLICE_COMPLETE (R679). -/
  | sliceComplete (now : Time) (unit : TestUnit) (pass : Bool)
  /-- TEST_OVERDUE (R678). -/
  | testOverdue (now : Time) (unit : TestUnit)
  /-- SEARCH_FAILS (R445). -/
  | searchFails (now : Time) (job : BitVec 16)
  /-- SAVE_BEGIN (R557). -/
  | saveBegin (now : Time) (job : BitVec 16)
  /-- OUTPUT_PORT_FREE (R523). -/
  | outputPortFree (now : Time) (port : Fin 4) (portTime : Time)
  deriving DecidableEq, Repr

end Sys2Proof
end

