-- ==== Sys2Proof/Config.lean ====
section
/-!
DEFINITION. What the manual leaves open: one constant without a body for each open value. Nothing in Lean can
evaluate one or prove a value of it, so a claim holds whatever the part does there. Each is named in the
assumption log.
-/

namespace Sys2Proof.Config

/-! ### Undefined and unspecified stored values (log entries 3, 4) -/

/-- A byte of a memory range whose contents the manual calls undefined (R575, R722); first argument: the
number of the undefinition, second: the physical byte address. -/
opaque freeByte : Nat → Nat → Byte
/-- A register word that the manual calls undefined (R159, R677). -/
opaque freeWord : Nat → Nat → BitVec 32
/-- Random numbers from the Bureau's entropy source (R54, R429). -/
opaque entropy : Nat → Nat → Nat
/-- How far a domain counter advances while the hub counter advances (R352, R354), in units of 1/(1,200 × 10⁹) of its cycle;
the model keeps it within the tolerances of R352: domain, running number, hub cycles. -/
opaque elapsed : Byte → Nat → Nat → Nat

/-! ### Arithmetic whose exact results are bounded but not given (R57, R58; log entry 5) -/

opaque exp2 : F32 → F32
opaque log2 : F32 → F32
opaque rcp : F32 → F32
opaque rsqrt : F32 → F32
opaque sigmoid : F32 → F32
opaque tanh : F32 → F32
opaque silu : F32 → F32
opaque gelu : F32 → F32
/-- The compensated recurrence update of R62: value and compensation of a·h + b. -/
opaque recur : F32 → BitVec 16 → F32 → F32 → F32 × BitVec 16

/-- The int32 signal that a NaN SOLVER value converts to (R514; log entry 31), by the value and the scale. -/
opaque nanSignal : F32 → Nat → BitVec 32

/-! ### Results of engines whose arithmetic the manual does not fix (log entries 6 to 9) -/

/-- Sample of the inverse transform of a JPEG block (R273), of which ISO/IEC 10918-1 gives bounds only: the dequantised
coefficients row by row, and the sample's place. -/
opaque idct : List Int → Nat → Nat
/-- A chroma sample between those that a JPEG stream holds (R273): the ratios of sampling, the place within them, and the 3 × 3
samples around it. -/
opaque chroma : Nat → Nat → List Nat → Nat
/-- The form of the LFSR of R668, which its polynomial leaves open: bit 0 Galois form, bit 1 shifting right, bit 2 the
seed is the first output (log entry 47). -/
opaque lfsrForm : BitVec 3
/-- Fusion's FP32 results for which no formula is given (R375 to R385): a tag, the arguments and the place in the result. Tags: 0 the
orientation where the acceleration leaves the roll open, 1 what the rotated accelerations add and the new orientation, 2 WHEEL
update, 3 measurement matrix of a WHEEL record, 4 covariance of the error state, 5 a track's process noise, 6 track update,
7 velocity and covariance of a track opened, 8 velocity of a track back in the body frame. -/
opaque fusionNum : Nat → List F32 → Nat → F32
/-- ρ of R423 where joints lie between a revolute joint and a body's link: robot model, joint, body. -/
opaque jointReach : Nat → Nat → Nat → F32
/-- What a Planner's search with a fixed SEED comes to (R438): model, descriptor, query, Shelf descriptor, map, roots, what the job keeps,
and the checks completed. For each span: a path, the iterate before it, the vertices sampled, the edges, the steps. -/
opaque search : List Nat → Nat → List (List (List F32) × List (List F32) × List (List F32) × List (Nat × Nat) × Nat)
/-- Checks that a search had run when it ended without a plan (R452). -/
opaque plannerChecks : Nat → Nat
/-- Parts of a Solver's step for which no formula is given (R480): a tag, the structure's pattern and order, the values and the iterate,
and the place. Tags: 0 and 2 right-hand sides of predictor and corrector, 1 and 3 the slacks' and multipliers' part of a direction. -/
opaque solverNum : Nat → List Nat → List F32 → Nat → F32
/-- Elimination order by approximate minimum degree (R462) from the two patterns. -/
opaque amdOrder : List Nat → List Nat

/-! ### What the manual says a Plan gives without naming a record for it (log entry 44) -/

/-- What a Plan says of one adapter of a job (R251 to R256): its number, its rank, the format code of its layer's base weights,
and whether the job trains it or serves with it. -/
structure AdapterUse where
  number : Nat
  rank : Nat
  baseFormat : Nat
  trains : Bool
  deriving DecidableEq, Repr, Inhabited

/-- What a Plan says of a job's sequence models: the declared bucket bounds (R227), the row capacity and the variant of each bucket
(R230, R232), L and the page format of each layer (R206, R207), the adapters (R251), and for each variant the fan-ins of its
reduction tree's nodes with the tree's depth (R203). -/
structure SeqPlan where
  bounds : List Nat
  capacities : List Nat
  variants : List Nat
  layers : List (Nat × Nat)
  adapters : List AdapterUse
  trees : List (List Nat × Nat)
  deriving DecidableEq, Repr, Inhabited

/-- By the Plan's bytes and the job. -/
opaque planSeq : Bytes → Nat → SeqPlan
/-- The slices of a state slot (R242): exposed tile, store address, bytes. -/
opaque slotSlices : Bytes → Nat → List (Nat × Nat × Nat)
/-- Stream and input address of the chunk that a period brings to a slot (R244, R713): slot, SEQ. -/
opaque chunkInput : Bytes → Nat → Nat → Nat × Nat

/-- Estimator weights that a successful fit gives (R586): running number, unit × 16 + counter. -/
opaque fitWeight : Nat → Nat → F32

/-! ### Implementation-chosen placements and the device's identity (log entries 10 to 12) -/

/-- The fixed hash of the system cache (R622): set and line to slice and index set. -/
opaque cacheIndex : Nat → Nat → Nat × Nat
/-- The victim of the pseudo-LRU tree (R622) among the ways offered. -/
opaque plruVictim : Nat → List Nat → Nat
/-- The static power of R585, in µW, from the weights, what is powered, the temperatures and the clocks. -/
opaque basePower : List (Nat × Nat) → List Nat → List Int → List (Nat × Nat) → Int
/-- A field of a reply header that is not valid, since its Drawer is not DONE (R701): when the Drawer's command was accepted, the
field's first bit. -/
opaque replyOpen : BitVec 48 → Nat → Nat
/-- The share of static power, in µW, that the running tile clocks of a job draw in an interval (R604): running number, job. -/
opaque staticShare : Nat → BitVec 16 → Nat
/-- The firmware's version registers (R695, R697). -/
opaque fwMinorMin : BitVec 8
opaque fwMinorTop : BitVec 8
/-- The highest minor version is never below the lowest. -/
def fwMinorMax : BitVec 8 := if fwMinorMin.toNat ≤ fwMinorTop.toNat then fwMinorTop else fwMinorMin
/-- The identity certificate (R768) and a signature by the identity key (R767, R769). -/
opaque certificate : Bytes
opaque identityModulus : Bytes
opaque identitySign : Bytes → Bytes
/-- Factory contents of the calibration set's sections (R744 to R748). -/
opaque factoryCal : Nat → Nat → Bytes
/-- The fused maximum-frequency code of each physical tile (R117). -/
opaque fmaxFuse : Nat → BitVec 4
def fmaxCode (t : Nat) : BitVec 4 := if (fmaxFuse t).toNat ≤ 8 then fmaxFuse t else 8
/-- The module's serial number (R695). -/
opaque serial : BitVec 64


/-! ### Factory contents of the module (log entry 12) -/

/-- Contents of FW_A and FW_B as manufactured (R644, R757). -/
opaque factoryFw : Bool → Bytes
/-- KEY_HASH fuses as manufactured (R755). -/
opaque keyHash : Nat → Bytes
/-- Whether the module is of the extended grade, CMG-GX9-128X (R1). -/
opaque extendedGrade : Bool
/-- The 32-bit identity code of the ordering number (R1, R695). -/
def identityCode : BitVec 32 := if extendedGrade then 0x00091128 else 0x00090128
/-- Levels of the strap pins PHY_SELn (R774) and ORATEn (R775). -/
opaque strapPhy : Nat → Bool
opaque strapRate : Nat → BitVec 2

end Sys2Proof.Config
end

