-- ==== Sys2Proof/Machine/Bits.lean ====
section
/-!
DEFINITION. Little-endian images, field maps and small tables (R3, R4, R9). A record of the manual is kept as the
number that its bytes spell, lowest byte first; a field [hi:lo] of a field map is `fld image hi lo`.
-/

namespace Sys2Proof.Machine

/-- A record's bytes read as one little-endian number (R4). -/
abbrev Image := Nat

/-- The little-endian number that bytes spell (R4). -/
def leNat : Bytes → Nat
  | [] => 0
  | b :: r => b.toNat + 256 * leNat r

/-- The `k` low bytes of a number, lowest first (R4). -/
def natLE (n : Nat) : Nat → Bytes
  | 0 => []
  | k + 1 => BitVec.ofNat 8 n :: natLE (n / 256) k

/-- The field [hi:lo] of an image, both end bits included (R3). -/
def fld (x hi lo : Nat) : Nat := x / 2 ^ lo % 2 ^ (hi - lo + 1)

/-- The bit `i` of an image. -/
def bitAt (x i : Nat) : Bool := x / 2 ^ i % 2 == 1

/-- The field [hi:lo] read as two's complement. -/
def sfld (x hi lo : Nat) : Int :=
  let v := fld x hi lo
  if v < 2 ^ (hi - lo) then (v : Int) else (v : Int) - 2 ^ (hi - lo + 1)

/-- Builds an image from (lo, width, value) fields. -/
def mkImage : List (Nat × Nat × Nat) → Image
  | [] => 0
  | (lo, w, v) :: r => v % 2 ^ w * 2 ^ lo + mkImage r

/-- All the given fields [hi:lo] are zero: the reserved-field test of R9. -/
def rsvdZero (x : Image) (fs : List (Nat × Nat)) : Bool := fs.all fun f => fld x f.1 f.2 == 0

/-- A slice of `n` bytes from offset `o`. -/
def slice (b : Bytes) (o n : Nat) : Bytes := (b.drop o).take n

/-- The image of the `n` bytes at offset `o`. -/
def imageAt (b : Bytes) (o n : Nat) : Image := leNat (slice b o n)

/-- Rounds up to a multiple. -/
def roundUp (x m : Nat) : Nat := if m = 0 then x else (x + m - 1) / m * m

/-- Division rounding up. -/
def ceilDiv (x m : Nat) : Nat := if m = 0 then 0 else (x + m - 1) / m

/-- Values from 0 to n - 1. -/
def upTo (n : Nat) : List Nat := List.range n

/-- Division of an integer by a positive number, to nearest, ties to even (R48). -/
def roundDiv (n : Int) (d : Nat) : Int :=
  if d = 0 then 0 else
  let q := n / (d : Int)
  let r := n % (d : Int)
  if 2 * r < d then q else if 2 * r > d then q + 1 else if q % 2 = 0 then q else q + 1

/-- Reduction modulo 2^32 to a signed value (R507). -/
def wrap32 (n : Int) : Int :=
  let m := n % 4294967296
  if m < 2147483648 then m else m - 4294967296

/-- Saturating 32-bit count. -/
def sat32 (n : Nat) : Nat := min n 4294967295

/-- Signed difference of two 48-bit counter values (R353). -/
def timeDiff (a b : Time) : Int := (a - b).toInt

/-- A sparse table: keys strictly rising. -/
abbrev Tbl (α : Type) := List (Nat × α)

namespace Tbl

variable {α : Type}

/-- The entry under a key. -/
def find : Tbl α → Nat → Option α
  | [], _ => none
  | (k, v) :: r, i => if i = k then some v else find r i

/-- Puts an entry, keeping the keys rising. -/
def put : Tbl α → Nat → α → Tbl α
  | [], i, v => [(i, v)]
  | (k, w) :: r, i, v =>
    if i < k then (i, v) :: (k, w) :: r else if i = k then (i, v) :: r else (k, w) :: put r i v

/-- Removes an entry. -/
def del : Tbl α → Nat → Tbl α
  | [], _ => []
  | (k, w) :: r, i => if i = k then r else (k, w) :: del r i

/-- The entry under a key, or a default. -/
def getD (t : Tbl α) (i : Nat) (d : α) : α := (t.find i).getD d

/-- Changes every entry. -/
def mapVals (t : Tbl α) (f : Nat → α → α) : Tbl α := t.map fun (k, v) => (k, f k v)

end Tbl

/-- Replaces element `i` of a list, where there is one. -/
def setAt {α : Type} (l : List α) (i : Nat) (v : α) : List α := l.set i v

/-- Element `i` of a list, or a default. -/
def nth {α : Type} (l : List α) (i : Nat) (d : α) : α := (l[i]?).getD d

/-- Inserts before the first element that `le` does not let stand before it; equal elements keep their order. -/
def insertBy {α : Type} (le : α → α → Bool) (x : α) : List α → List α
  | [] => [x]
  | y :: r => if le x y then x :: y :: r else y :: insertBy le x r

/-- Sorts a list, keeping the order of equal elements. -/
def sortBy {α : Type} (le : α → α → Bool) (l : List α) : List α := l.foldr (insertBy le) []

end Sys2Proof.Machine
end

