-- ==== Sys2Proof/Machine/Codes.lean ====
section
/-!
DEFINITION. The codes of the manual: CRC-32 of IEEE 802.3, SHA-256, RSASSA-PSS (R754), the Reed-Solomon code of
a memory beat (R611 to R613) and the LFSR of the blanking test frames (R668).
-/

namespace Sys2Proof.Machine

/-! ### CRC-32, IEEE 802.3 -/

/-- One bit of the reflected CRC-32. -/
def crcBit (c : BitVec 32) : BitVec 32 :=
  if c.getLsbD 0 then (c >>> 1) ^^^ 0xEDB88320 else c >>> 1

def crcByte (c : BitVec 32) (b : Byte) : BitVec 32 :=
  (List.range 8).foldl (fun x _ => crcBit x) (c ^^^ b.setWidth 32)

/-- CRC-32 of IEEE 802.3 over bytes, first byte first (R669, R672, R715). -/
def crc32 (bs : Bytes) : BitVec 32 := ~~~(bs.foldl crcByte 0xFFFFFFFF)

/-! ### SHA-256 -/

abbrev W32 := BitVec 32

/-- The first `n` primes, rising, up to 311: a number below 19² without a smaller prime among its divisors is prime. -/
def primes (n : Nat) : List Nat :=
  ((List.range 312).filter fun p => 2 ≤ p && [2, 3, 5, 7, 11, 13, 17].all fun q => p == q || p % q != 0).take n

/-- The largest r below 2^bits with r³ ≤ x. -/
def cubeRoot (x : Nat) : Nat → Nat → Nat
  | 0, r => r
  | k + 1, r =>
    let q := r + 2 ^ k
    cubeRoot x k (if q * q * q ≤ x then q else r)

/-- The round constants: 32 bits of the fraction of the cube root of each of the first 64 primes. -/
def roundConst (p : Nat) : W32 := BitVec.ofNat 32 (cubeRoot (p * 2 ^ 96) 36 0)

/-- The initial hash value: 32 bits of the fraction of the square root of each of the first 8 primes. -/
def hashStart : List W32 := (primes 8).map fun p => BitVec.ofNat 32 (Nat.sqrt (p * 2 ^ 64))

/-- Big-endian 32-bit words of a block. -/
def beWords : Nat → Bytes → List W32
  | 0, _ => []
  | n + 1, b0 :: b1 :: b2 :: b3 :: r => (b0 ++ b1 ++ b2 ++ b3) :: beWords n r
  | _, _ => []

/-- Two rotations and a third move of a word, added bit by bit. -/
def mix (w : W32) (i j : Nat) (last : W32) : W32 := w.rotateRight i ^^^ w.rotateRight j ^^^ last

/-- The words of a block with `n` more of the schedule, newest first. -/
def schedule : Nat → List W32 → List W32
  | 0, w => w
  | n + 1, w =>
    let back (k : Nat) : W32 := nth w (k - 1) 0
    let low := mix (back 15) 7 18 (back 15 >>> 3)
    let high := mix (back 2) 17 19 (back 2 >>> 10)
    schedule n ((back 16 + low + back 7 + high) :: w)

/-- One round on the eight working words; `kw` is the round constant plus the schedule's word. -/
def hashRound : List W32 → W32 → List W32
  | [a, b, c, d, e, f, g, h], kw =>
    let choose := (e &&& f) ^^^ (~~~e &&& g)
    let most := (a &&& b) ^^^ (a &&& c) ^^^ (b &&& c)
    let new := h + mix e 6 11 (e.rotateRight 25) + choose + kw
    [new + mix a 2 13 (a.rotateRight 22) + most, a, b, c, d + new, e, f, g]
  | s, _ => s

/-- One block of 64 bytes. -/
def hashBlock (k h : List W32) (block : Bytes) : List W32 :=
  List.zipWith (· + ·) h ((List.zipWith (· + ·) k (schedule 48 (beWords 16 block).reverse).reverse).foldl hashRound h)

/-- `n` blocks, with the round constants `k`. -/
def hashBlocks (k : List W32) : Nat → List W32 → Bytes → List W32
  | 0, h, _ => h
  | n + 1, h, bs => hashBlocks k n (hashBlock k h (bs.take 64)) (bs.drop 64)

/-- The `n` low bytes of a number, highest first. -/
def natBE (n k : Nat) : Bytes := (natLE n k).reverse

/-- The big-endian number that bytes spell. -/
def beNat (bs : Bytes) : Nat := bs.foldl (fun a b => a * 256 + b.toNat) 0

/-- SHA-256 of bytes, as 32 bytes. -/
def sha256 (bs : Bytes) : Bytes :=
  let n := bs.length
  let pad := (55 + 64 - n % 64) % 64
  let m := bs ++ [0x80] ++ List.replicate pad (0 : Byte) ++ natBE (n * 8) 8
  (hashBlocks ((primes 64).map roundConst) (m.length / 64) hashStart m).flatMap fun w => natBE w.toNat 4

/-! ### RSASSA-PSS with SHA-256, MGF1 and a 32-byte salt (R754) -/

/-- b ^ e mod m by repeated squaring over `n` bits. -/
def powMod : Nat → Nat → Nat → Nat → Nat
  | 0, _, _, _ => 1
  | n + 1, b, e, m =>
    let h := powMod n (b * b % m) (e / 2) m
    if e % 2 = 1 then h * b % m else h

/-- MGF1 with SHA-256. -/
def mgf1 (seed : Bytes) (len : Nat) : Bytes :=
  ((List.range (ceilDiv len 32)).flatMap fun i => sha256 (seed ++ natBE i 4)).take len

def xorBytes (a b : Bytes) : Bytes := List.zipWith (· ^^^ ·) a b

/-- EMSA-PSS verification of PKCS #1 v2.2 for a 3,072-bit modulus (R754). -/
def pssVerify (modulus msg sig : Bytes) : Bool :=
  let n := beNat modulus
  let s := beNat sig
  if sig.length ≠ 384 ∨ modulus.length ≠ 384 ∨ n = 0 ∨ s ≥ n then false else
  let em := natBE (powMod 17 s 65537 n) 384
  let masked := em.take 351
  let h := slice em 351 32
  let db0 := xorBytes masked (mgf1 h 351)
  let db := match db0 with
    | [] => []
    | b :: r => (b &&& 0x7F) :: r
  (em.getLast?.getD 0 == 0xBC) && ((masked.head?.getD 0).getLsbD 7 == false)
    && (db.take 318).all (· == 0) && ((db.drop 318).head?.getD 0 == 1)
    && (sha256 (List.replicate 8 (0 : Byte) ++ sha256 msg ++ db.drop 319) == h)

/-! ### The beat code RS(20,16) over GF(2⁸) (R611 to R613) -/

/-- Multiplication by α = 2 in the field of 0x11D. -/
def gfX (a : Nat) : Nat := if a ≥ 128 then (a * 2) ^^^ 0x11D else a * 2

/-- Multiplication in the field. -/
def gfMul (a b : Nat) : Nat :=
  ((List.range 8).foldl (fun (p : Nat × Nat) i =>
    (if b / 2 ^ i % 2 = 1 then p.1 ^^^ p.2 else p.1, gfX p.2)) (0, a)).1

/-- α^n. -/
def gfPow : Nat → Nat
  | 0 => 1
  | n + 1 => gfX (gfPow n)

/-- The four syndromes that errors (symbol, value) of one beat give (R611). -/
def syndromes (es : List (Nat × Nat)) : List Nat :=
  (List.range 4).map fun i => es.foldl (fun a e => a ^^^ gfMul e.2 (gfPow (i * e.1))) 0

/-- Outcome of one beat's decoding (R612). -/
inductive BeatOutcome where
  | clean
  | corrected (es : List (Nat × Nat))
  | uncorrectable
  | poison
  deriving DecidableEq, Repr

/-- All position pairs of a beat's 20 symbols. -/
def symPairs : List (Nat × Nat) :=
  (List.range 20).flatMap fun a => ((List.range 20).filter (a < ·)).map fun b => (a, b)

/-- The values at two given positions that give the first two syndromes. -/
def solvePair (a b s0 s1 : Nat) : Nat × Nat :=
  -- e1 + e2 = s0 and e1 α^a + e2 α^b = s1
  let den := gfPow a ^^^ gfPow b
  let num := s1 ^^^ gfMul s0 (gfPow b)
  let e1 := ((List.range 256).find? fun v => gfMul v den == num).getD 0
  (e1, s0 ^^^ e1)

/-- Decodes a beat from its syndromes; `erased` is the erased die of the set. -/
def decodeBeat (erased : Option Nat) (syn : List Nat) : BeatOutcome :=
  if syn.all (· == 0) then .clean
  else if syn == syndromes [(16, 255), (17, 255), (18, 255), (19, 255)] then .poison
  else
    let s0 := nth syn 0 0
    let s1 := nth syn 1 0
    match (List.range 20).find? fun a => syndromes [(a, s0)] == syn with
    | some a => .corrected [(a, s0)]
    | none =>
      match symPairs.find? fun p => let e := solvePair p.1 p.2 s0 s1
                                    syndromes [(p.1, e.1), (p.2, e.2)] == syn with
      | some p => let e := solvePair p.1 p.2 s0 s1
                  .corrected [(p.1, e.1), (p.2, e.2)]
      | none =>
        match erased with
        | none => .uncorrectable
        | some d =>
          -- two erasures and at most one further symbol: try each further symbol and value
          let cand := ((List.range 20).filter fun a => a / 2 ≠ d).findSome? fun a =>
            ((List.range 256).filter (0 < ·)).findSome? fun v =>
              let rest := List.zipWith (· ^^^ ·) syn (syndromes [(a, v)])
              let e := solvePair (2 * d) (2 * d + 1) (nth rest 0 0) (nth rest 1 0)
              let es := [(2 * d, e.1), (2 * d + 1, e.2), (a, v)]
              if syndromes es == syn then some es else none
          match cand with
          | some es => .corrected (es.filter fun e => e.2 ≠ 0)
          | none => .uncorrectable

/-! ### The LFSR of R668 -/

/-- One step of an LFSR with polynomial x³² + x²² + x² + x + 1, in the Fibonacci or the Galois form, shifting left or
right (R668). -/
def lfsrStep (galois right : Bool) (s : BitVec 32) : BitVec 32 :=
  match galois, right with
  | false, false => (s <<< 1) ||| ((s >>> 31 ^^^ s >>> 21 ^^^ s >>> 1 ^^^ s) &&& 1)
  | false, true => (s >>> 1) ||| ((s ^^^ s >>> 10 ^^^ s >>> 30 ^^^ s >>> 31) <<< 31)
  | true, false => (s <<< 1) ^^^ (if s.getLsbD 31 then 0x00400007 else 0)
  | true, true => (s >>> 1) ^^^ (if s.getLsbD 0 then 0xE0000200 else 0)

/-- `n` successive states from a state on. -/
def lfsrRun : Nat → BitVec 32 → List (BitVec 32)
  | 0, _ => []
  | n + 1, s => s :: lfsrRun n (lfsrStep (Config.lfsrForm.getLsbD 0) (Config.lfsrForm.getLsbD 1) s)

/-- The first `n` outputs for pattern `p`, seeded with (p + 1) × 0x0101_0101 (R668). -/
def lfsrOutputs (p n : Nat) : List (BitVec 32) :=
  (lfsrRun (n + 1) (BitVec.ofNat 32 ((p + 1) * 0x01010101))).drop (if Config.lfsrForm.getLsbD 2 then 0 else 1)

end Sys2Proof.Machine
end

