-- ==== Sys2Proof/Machine/Real.lean ====
section
/-!
DEFINITION. Fixed-point values of exp, log2 and sqrt(2/π), against which the bounds of R57 are held: integers in units of
2^-96, each within 2^-85 of the exact value (log 5).
-/

namespace Sys2Proof.Machine

/-- 1 in fixed point. -/
def fixOne : Int := 2 ^ 96

def fixMul (a b : Int) : Int := a * b / fixOne
def fixDiv (a b : Int) : Int := a * fixOne / b

/-- z + z³/3 + z⁵/5 + …, with alternating signs for the arc tangent: 44 terms. -/
def fixArc (alternate : Bool) (z : Int) : Int :=
  let sq := fixMul z z * if alternate then -1 else 1
  ((List.range 44).foldl (fun (s : Int × Int) k => (s.1 + s.2 / (2 * k + 1 : Nat), fixMul s.2 sq)) (0, z)).1

/-- ln 2 = 2 artanh(1/3). -/
def fixLn2 : Int := 2 * fixArc false (fixOne / 3)

/-- π = 16 arctan(1/5) - 4 arctan(1/239). -/
def fixPi : Int := 16 * fixArc true (fixOne / 5) - 4 * fixArc true (fixOne / 239)

/-- sqrt(2/π), the constant of the tanh form of GELU. -/
def fixGelu : Int := Nat.sqrt (fixDiv (2 * fixOne) fixPi * fixOne).toNat

/-- exp of a number from 0 to 1, by 34 terms of its series. -/
def fixExp (x : Int) : Int :=
  ((List.range 34).foldl (fun (s : Int × Int) k => (s.1 + s.2, fixMul s.2 x / (k + 1 : Nat))) (0, fixOne)).1

/-- 2^f for f from 0 to 1. -/
def fixExp2 (f : Int) : Int := fixExp (fixMul f fixLn2)

/-- log2 of a number from 1 to 2. -/
def fixLog2 (m : Int) : Int := fixDiv (2 * fixArc false (fixDiv (m - fixOne) (m + fixOne))) fixLn2

/-- Sine and cosine of an angle in radians, reduced to a turn around 0, by 40 terms of each series. -/
def fixTurn (x : Int) : Int × Int :=
  let r := (x + fixPi) % (2 * fixPi) - fixPi
  let sq := fixMul r r
  let series (first : Int) (odd : Nat) : Int :=
    ((List.range 40).foldl (fun (s : Int × Int) k =>
      (s.1 + s.2, -(fixMul s.2 sq / ((2 * k + 1 + odd) * (2 * k + 2 + odd) : Nat)))) (0, first)).1
  (series r 1, series fixOne 0)

end Sys2Proof.Machine
end

