-- ==== Sys2Proof/Machine/Float.lean ====
section
/-!
DEFINITION. The number formats and their exact arithmetic (R24 to R64): values are decoded to exact dyadic
numbers, combined exactly, and rounded once.
-/

namespace Sys2Proof.Machine

/-- A decoded value: NaN, a signed infinity, or a sign with an exact dyadic magnitude m × 2^e. -/
inductive FVal where
  | nan
  | inf (s : Bool)
  | fin (s : Bool) (m : Nat) (e : Int)
  deriving DecidableEq, Repr

/-- How a format spells infinity and NaN (R25). -/
inductive NanKind where
  | ieee | e4m3 | none
  deriving DecidableEq, Repr

/-- A floating-point element format (R25). -/
structure Fmt where
  ebits : Nat
  mbits : Nat
  bias  : Nat
  kind  : NanKind
  /-- Subnormal inputs and results are flushed (R55). -/
  flush : Bool
  deriving DecidableEq, Repr

def Fmt.e2m1 : Fmt := ⟨2, 1, 1, .none, false⟩
def Fmt.e2m3 : Fmt := ⟨2, 3, 1, .none, false⟩
def Fmt.e3m2 : Fmt := ⟨3, 2, 3, .none, false⟩
def Fmt.e4m3 : Fmt := ⟨4, 3, 7, .e4m3, false⟩
def Fmt.e5m2 : Fmt := ⟨5, 2, 15, .ieee, false⟩
def Fmt.fp16 : Fmt := ⟨5, 10, 15, .ieee, false⟩
def Fmt.bf16 : Fmt := ⟨8, 7, 127, .ieee, true⟩
def Fmt.fp32 : Fmt := ⟨8, 23, 127, .ieee, true⟩

/-- Reads a code of a format (R25; subnormals under R55 and R56). -/
def Fmt.decode (f : Fmt) (c : Nat) : FVal :=
  let m := c % 2 ^ f.mbits
  let ex := c / 2 ^ f.mbits % 2 ^ f.ebits
  let s := c / 2 ^ (f.mbits + f.ebits) % 2 == 1
  let top := 2 ^ f.ebits - 1
  if f.kind = .ieee ∧ ex = top then (if m = 0 then .inf s else .nan)
  else if f.kind = .e4m3 ∧ ex = top ∧ m = 2 ^ f.mbits - 1 then .nan
  else if ex = 0 then
    if f.flush then .fin s 0 0 else .fin s m (1 - (f.bias : Int) - f.mbits)
  else .fin s (2 ^ f.mbits + m) ((ex : Int) - f.bias - f.mbits)

/-- The canonical NaN of a format (R50). -/
def Fmt.nanCode (f : Fmt) : Nat :=
  match f.kind with
  | .e4m3 => 2 ^ (f.ebits + f.mbits) - 1
  | _ => (2 ^ f.ebits - 1) * 2 ^ f.mbits + 2 ^ (f.mbits - 1)

def Fmt.signBit (f : Fmt) (s : Bool) : Nat := if s then 2 ^ (f.ebits + f.mbits) else 0

/-- The largest finite code of a sign (R25). -/
def Fmt.maxFinite (f : Fmt) (s : Bool) : Nat :=
  f.signBit s + match f.kind with
    | .ieee => (2 ^ f.ebits - 1) * 2 ^ f.mbits - 1
    | .e4m3 => 2 ^ (f.ebits + f.mbits) - 2
    | .none => 2 ^ (f.ebits + f.mbits) - 1

/-- The infinity of a sign. -/
def Fmt.infCode (f : Fmt) (s : Bool) : Nat := f.signBit s + (2 ^ f.ebits - 1) * 2 ^ f.mbits

/-- m × 2^(-k) rounded to an integer, ties to even (R48). -/
def shiftRne (m k : Nat) : Nat :=
  let q := m / 2 ^ k
  let r := m % 2 ^ k
  if k = 0 then m
  else if 2 * r < 2 ^ k then q else if 2 * r > 2 ^ k then q + 1 else if q % 2 = 0 then q else q + 1

/-- m × 2^(-k) with stochastic rounding (R53): the 16 leading discarded bits plus `rnd`, the carry kept. -/
def shiftSr (rnd m k : Nat) : Nat :=
  let q := m / 2 ^ k
  let r := m % 2 ^ k
  let top := if k ≤ 16 then r * 2 ^ (16 - k) else r / 2 ^ (k - 16)
  if k = 0 then m else if top + rnd % 65536 ≥ 65536 then q + 1 else q

/-- Rounds an exact magnitude into a format; `sat` saturates a finite overflow, otherwise it becomes the
infinity of the sign (R42, R49); `shift` is the rounding of the discarded bits. -/
def Fmt.roundWith (f : Fmt) (shift : Nat → Nat → Nat) (sat : Bool) (s : Bool) (m : Nat) (e : Int) : Nat :=
  if m = 0 then f.signBit s else
  let lead : Int := e + Nat.log2 m
  let emin : Int := 1 - (f.bias : Int)
  let lsb : Int := if f.flush then lead - f.mbits else max lead emin - f.mbits
  let m1 := if lsb ≤ e then m * 2 ^ (e - lsb).toNat else shift m (lsb - e).toNat
  let m2 := if m1 = 2 ^ (f.mbits + 1) then 2 ^ f.mbits else m1
  let lsb2 := if m1 = 2 ^ (f.mbits + 1) then lsb + 1 else lsb
  if m2 < 2 ^ f.mbits then f.signBit s + (if f.flush then 0 else m2)
  else
    let ex : Int := lsb2 + f.mbits + f.bias
    if ex < 1 then f.signBit s
    else
      let code := f.signBit s + ex.toNat * 2 ^ f.mbits + (m2 - 2 ^ f.mbits)
      if code > f.maxFinite s then (if sat ∨ f.kind ≠ .ieee then f.maxFinite s else f.infCode s) else code

/-- Rounds a value into a format, to nearest even (R48). -/
def Fmt.encode (f : Fmt) (sat : Bool) : FVal → Nat
  | .nan => f.nanCode
  | .inf s => if f.kind = .ieee then f.infCode s else f.nanCode
  | .fin s m e => f.roundWith shiftRne sat s m e

/-! ### FP32 arithmetic (R42, R48, R50, R55) -/

def f32v (x : F32) : FVal := Fmt.fp32.decode x.toNat
def f32r (v : FVal) : F32 := BitVec.ofNat 32 (Fmt.fp32.encode false v)

def f32NaN : F32 := 0x7FC00000
def f32Inf : F32 := 0x7F800000
def f32NegInf : F32 := 0xFF800000
def f32One : F32 := 0x3F800000

def F32.isNaN (x : F32) : Bool := match f32v x with | .nan => true | _ => false
def F32.isFinite (x : F32) : Bool := match f32v x with | .fin .. => true | _ => false
def F32.isZero (x : F32) : Bool := match f32v x with | .fin _ m _ => m == 0 | _ => false
def F32.neg (x : F32) : F32 := if F32.isNaN x then f32NaN else x ^^^ 0x80000000

/-- The signed integer of a dyadic over a common exponent. -/
def dyInt (s : Bool) (m : Nat) (e base : Int) : Int :=
  let a : Int := (m : Int) * 2 ^ (e - base).toNat
  if s then -a else a

/-- Exact sum (R42: infinity minus infinity is NaN, R59). -/
def FVal.add : FVal → FVal → FVal
  | .nan, _ => .nan
  | _, .nan => .nan
  | .inf a, .inf b => if a = b then .inf a else .nan
  | .inf a, _ => .inf a
  | _, .inf b => .inf b
  | .fin s m e, .fin t n g =>
    let base := min e g
    let v := dyInt s m e base + dyInt t n g base
    if v = 0 then .fin (s && t) 0 0 else .fin (v < 0) v.natAbs base

/-- Exact product (infinity times zero is NaN). -/
def FVal.mul : FVal → FVal → FVal
  | .nan, _ => .nan
  | _, .nan => .nan
  | .inf a, .inf b => .inf (a != b)
  | .inf a, .fin t n _ => if n = 0 then .nan else .inf (a != t)
  | .fin s m _, .inf b => if m = 0 then .nan else .inf (s != b)
  | .fin s m e, .fin t n g => .fin (s != t) (m * n) (e + g)

/-- Exact quotient with a sticky bit far below any rounding position. -/
def FVal.div : FVal → FVal → FVal
  | .nan, _ => .nan
  | _, .nan => .nan
  | .inf _, .inf _ => .nan
  | .inf a, .fin t _ _ => .inf (a != t)
  | .fin s _ _, .inf b => .fin (s != b) 0 0
  | .fin s m e, .fin t n g =>
    if n = 0 then (if m = 0 then .nan else .inf (s != t))
    else
      let k := 64 + Nat.log2 n
      let q := m * 2 ^ k / n
      let r := m * 2 ^ k % n
      .fin (s != t) (2 * q + (if r = 0 then 0 else 1)) (e - g - k - 1)

/-- Exact square root with a sticky bit. -/
def FVal.sqrt : FVal → FVal
  | .nan => .nan
  | .inf s => if s then .nan else .inf false
  | .fin s m e =>
    if m = 0 then .fin s 0 0 else if s then .nan
    else
      let (m1, e1) := if e % 2 = 0 then (m, e) else (2 * m, e - 1)
      let a := m1 * 2 ^ 128
      let q := Nat.sqrt a
      .fin false (2 * q + (if q * q = a then 0 else 1)) (e1 / 2 - 64 - 1)

/-- The order of two values, none when either is NaN; zeros compare equal. -/
def FVal.cmp : FVal → FVal → Option Ordering
  | .nan, _ => none
  | _, .nan => none
  | .inf a, .inf b => some (if a = b then .eq else if a then .lt else .gt)
  | .inf a, _ => some (if a then .lt else .gt)
  | _, .inf b => some (if b then .gt else .lt)
  | .fin s m e, .fin t n g =>
    let base := min e g
    some (compare (dyInt s m e base) (dyInt t n g base))

def F32.add (x y : F32) : F32 := f32r (FVal.add (f32v x) (f32v y))
def F32.sub (x y : F32) : F32 := F32.add x (F32.neg y)
def F32.mul (x y : F32) : F32 := f32r (FVal.mul (f32v x) (f32v y))
/-- x × y + z with one rounding (R57). -/
def F32.fma (x y z : F32) : F32 := f32r (FVal.add (FVal.mul (f32v x) (f32v y)) (f32v z))
def F32.div (x y : F32) : F32 := f32r (FVal.div (f32v x) (f32v y))
def F32.sqrt (x : F32) : F32 := f32r (FVal.sqrt (f32v x))
/-- Comparison, false when either operand is NaN (R58). -/
def F32.lt (x y : F32) : Bool := FVal.cmp (f32v x) (f32v y) == some .lt
def F32.le (x y : F32) : Bool :=
  let c := FVal.cmp (f32v x) (f32v y)
  c == some .lt || c == some .eq
def F32.gt (x y : F32) : Bool := F32.lt y x
/-- Select the larger; NaN when either operand is NaN (R58). -/
def F32.max (x y : F32) : F32 := if F32.isNaN x || F32.isNaN y then f32NaN else if F32.lt x y then y else x
def F32.min (x y : F32) : F32 := if F32.isNaN x || F32.isNaN y then f32NaN else if F32.lt y x then y else x

/-- An integer as an exact value. -/
def FVal.ofInt (n : Int) : FVal := .fin (n < 0) n.natAbs 0
def F32.ofInt (n : Int) : F32 := f32r (.ofInt n)
/-- An integer over a power of two. -/
def F32.ofDyadic (n : Int) (e : Int) : F32 := f32r (.fin (n < 0) n.natAbs e)

/-- A finite value rounded to an integer, ties to even; none for NaN and infinities. -/
def FVal.toInt : FVal → Option Int
  | .fin s m e =>
    let a : Nat := if e ≥ 0 then m * 2 ^ e.toNat else shiftRne m (-e).toNat
    some (if s then -(a : Int) else a)
  | _ => none

/-- Floor and ceiling of a finite value. -/
def FVal.floor : FVal → Option Int
  | .fin s m e => some (let n : Int := if s then -(m : Int) else m
                        if e ≥ 0 then n * 2 ^ e.toNat else n / 2 ^ (-e).toNat)
  | _ => none
def FVal.ceil (v : FVal) : Option Int :=
  match v with
  | .fin s m e => (FVal.floor (.fin (!s) m e)).map fun n => -n
  | _ => none

/-! ### Bounded operations (R57, R58) -/

/-- |a - b| ≤ 2^k for finite values. -/
def closeTo (a b : FVal) (k : Int) : Bool :=
  match FVal.add a (match b with | .fin s m e => .fin (!s) m e | v => v) with
  | .fin _ m e => FVal.cmp (.fin false m e) (.fin false 1 k) != some .gt
  | _ => false

/-- The exponent of one unit in the last place of a normal FP32 value. -/
def ulpExp (x : F32) : Int := (fld x.toNat 30 23 : Int) - 150

/-- A value as the engines hold it: NaN canonical (R50), subnormals flushed (R55). -/
def F32.canon (x : F32) : F32 := f32r (f32v x)

/-- The part's value where it is finite and lies within 2^(ulps) ulp of the exact value, or within 2^floor where that is more
(R57); else the exact value rounded. -/
def bounded (c : F32) (v : FVal) (ulps : Int) (floor : Option Int) : F32 :=
  let q := f32r v
  let c := F32.canon c
  let k := ulpExp q + ulps
  if F32.isFinite c && closeTo (f32v c) v (max k (floor.getD k)) then c else q

/-- An integer in units of 2^-96. -/
def FVal.ofFix (n : Int) : FVal := .fin (n < 0) n.natAbs (-96)

/-- A finite value in units of 2^-96, rounded down. -/
def FVal.toFix (v : FVal) : Int := ((v.mul (.fin false 1 96)).floor).getD 0

/-- 2^v for a finite v of moderate size. -/
def FVal.exp2 (v : FVal) : FVal :=
  let n := v.toFix
  (FVal.ofFix (fixExp2 (n % fixOne))).mul (.fin false 1 (n / fixOne))

/-- log2 of a positive value m × 2^e. -/
def FVal.log2 (m : Nat) (e : Int) : FVal :=
  let lead := Nat.log2 m
  .ofFix ((e + lead) * fixOne + fixLog2 (m * fixOne / 2 ^ lead))

/-- 1 ÷ (1 + e^(-v)) of a finite value; e^(-|v|) is 0 from 256 on. -/
def FVal.sigmoid (v : FVal) : FVal :=
  match v with
  | .fin s m e =>
    let small := FVal.cmp (.fin false m e) (.fin false 256 0) == some .lt
    let x := if small then (FVal.ofFix (fixDiv (-(FVal.toFix (.fin false m e))) fixLn2)).exp2 else .fin false 0 0
    FVal.div (if s then x else .fin false 1 0) (FVal.add (.fin false 1 0) x)
  | w => w

/-- tanh(v) = 2 ÷ (1 + e^(-2v)) - 1. -/
def FVal.tanh (v : FVal) : FVal :=
  FVal.add ((v.mul (.fin false 2 0)).sigmoid.mul (.fin false 2 0)) (.fin true 1 0)

/-- The tanh form of GELU: v × (1 + tanh y) ÷ 2 with y = sqrt(2/π) × (v + 0.044715 v³), by (1 + tanh y) ÷ 2 = sigmoid(2y). -/
def FVal.gelu (v : FVal) : FVal :=
  let cube := FVal.div ((v.mul v).mul (v.mul (.fin false 44715 0))) (.fin false 1000000 0)
  v.mul ((FVal.ofFix (2 * fixGelu)).mul (FVal.add v cube)).sigmoid

/-- Reciprocal (R58), within one ulp. -/
def F32.rcp (x : F32) : F32 :=
  match f32v x with
  | .nan => f32NaN
  | .inf s => if s then 0x80000000 else 0
  | .fin s m _ =>
    if m = 0 then (if s then f32NegInf else f32Inf)
    else bounded (Config.rcp x) (FVal.div (f32v f32One) (f32v x)) 0 none

/-- Reciprocal square root (R58), within one ulp. -/
def F32.rsqrt (x : F32) : F32 :=
  match f32v x with
  | .nan => f32NaN
  | .inf s => if s then f32NaN else 0
  | .fin s m _ =>
    if m = 0 then (if s then f32NegInf else f32Inf) else if s then f32NaN
    else bounded (Config.rsqrt x) (FVal.div (f32v f32One) (FVal.sqrt (f32v x))) 0 none

/-- exp2 (R58), within one ulp. -/
def F32.exp2 (x : F32) : F32 :=
  if F32.isNaN x then f32NaN
  else if F32.gt x 0x43000000 then f32Inf
  else if F32.lt x 0xC2FC0000 then 0
  else bounded (Config.exp2 x) (f32v x).exp2 0 none

/-- log2 (R58), within one ulp. -/
def F32.log2 (x : F32) : F32 :=
  match f32v x with
  | .nan => f32NaN
  | .inf s => if s then f32NaN else f32Inf
  | .fin s m e => if m = 0 then f32NegInf else if s then f32NaN else bounded (Config.log2 x) (FVal.log2 m e) 0 none

/-- Sigmoid, tanh, SiLU and GELU (R58), within 2 ulp or 2^-24. -/
def F32.sigmoid (x : F32) : F32 :=
  if F32.isNaN x then f32NaN else if x = f32Inf then f32One else if x = f32NegInf then 0
  else bounded (Config.sigmoid x) (f32v x).sigmoid 1 (some (-24))
def F32.tanh (x : F32) : F32 :=
  if F32.isNaN x then f32NaN else if x = f32Inf then f32One else if x = f32NegInf then 0xBF800000
  else bounded (Config.tanh x) (f32v x).tanh 1 (some (-24))
def F32.silu (x : F32) : F32 :=
  if F32.isNaN x then f32NaN else if x = f32Inf then f32Inf else if x = f32NegInf then 0x80000000
  else bounded (Config.silu x) ((f32v x).mul (f32v x).sigmoid) 1 (some (-24))
def F32.gelu (x : F32) : F32 :=
  if F32.isNaN x then f32NaN else if x = f32Inf then f32Inf else if x = f32NegInf then 0x80000000
  else bounded (Config.gelu x) (f32v x).gelu 1 (some (-24))

/-! ### Tensor formats (R24, R26 to R35, R49, R134) -/

/-- The tensor-format codes of R134. -/
inductive TFmt where
  | mxfp4 | mxfp6e2m3 | mxfp6e3m2 | mxfp8e4m3 | mxfp8e5m2 | mxint8 | int4 | int8 | bf16 | fp16 | fp32 | fp8e4m3
  deriving DecidableEq, Repr

def TFmt.ofCode : Nat → Option TFmt
  | 0 => some .mxfp4 | 1 => some .mxfp6e2m3 | 2 => some .mxfp6e3m2 | 3 => some .mxfp8e4m3
  | 4 => some .mxfp8e5m2 | 5 => some .mxint8 | 6 => some .int4 | 7 => some .int8
  | 8 => some .bf16 | 9 => some .fp16 | 10 => some .fp32 | 11 => some .fp8e4m3 | _ => none

/-- Element width in bits (R24). -/
def TFmt.width : TFmt → Nat
  | .mxfp4 | .int4 => 4
  | .mxfp6e2m3 | .mxfp6e3m2 => 6
  | .mxfp8e4m3 | .mxfp8e5m2 | .mxint8 | .int8 | .fp8e4m3 => 8
  | .bf16 | .fp16 => 16
  | .fp32 => 32

def TFmt.isMX : TFmt → Bool
  | .mxfp4 | .mxfp6e2m3 | .mxfp6e3m2 | .mxfp8e4m3 | .mxfp8e5m2 | .mxint8 => true
  | _ => false
def TFmt.isInt : TFmt → Bool | .int4 | .int8 => true | _ => false
def TFmt.isFloat : TFmt → Bool | .bf16 | .fp16 | .fp32 => true | _ => false

/-- The floating element format of a tensor format, where it has one. -/
def TFmt.elem : TFmt → Option Fmt
  | .mxfp4 => some .e2m1 | .mxfp6e2m3 => some .e2m3 | .mxfp6e3m2 => some .e3m2
  | .mxfp8e4m3 | .fp8e4m3 => some .e4m3 | .mxfp8e5m2 => some .e5m2
  | .bf16 => some .bf16 | .fp16 => some .fp16 | .fp32 => some .fp32
  | .mxint8 | .int4 | .int8 => none

/-- Two's complement reading of `w` bits. -/
def signedOf (w c : Nat) : Int := if c % 2 ^ w < 2 ^ (w - 1) then (c % 2 ^ w : Int) else (c % 2 ^ w : Int) - 2 ^ w

/-- The exact value of one stored element, its scale left aside (R25, R27, R28). -/
def TFmt.value (t : TFmt) (c : Nat) : FVal :=
  match t.elem with
  | some f => f.decode c
  | none =>
    let n := signedOf t.width c
    .fin (n < 0) n.natAbs (if t = .mxint8 then -6 else 0)

/-- Element `i` of a packed plane (R31): bits [w·i + w - 1 : w·i]. -/
def elemAt (w : Nat) (plane : Image) (i : Nat) : Nat := plane / 2 ^ (w * i) % 2 ^ w

/-- emax of R33. -/
def TFmt.emax : TFmt → Int
  | .mxfp4 | .mxfp6e2m3 => 2 | .mxfp6e3m2 => 4 | .mxfp8e4m3 => 8 | .mxfp8e5m2 => 15 | _ => 0

/-- Saturation to a signed range. -/
def satInt (w : Nat) (n : Int) : Int := max (-(2 ^ (w - 1) : Int)) (min n (2 ^ (w - 1) - 1))

/-- The code of a signed integer in `w` bits. -/
def intCode (w : Nat) (n : Int) : Nat := (n % (2 ^ w : Int)).toNat

/-- One conversion of an exact value to a scalar format (R49, R61); second component: the conversion met a NaN
going to an integer format. `rnd`: the random number when rounding stochastically (R53). -/
def convertVal (t : TFmt) (rnd : Option Nat) (x : FVal) : Nat × Bool :=
  let shift := match rnd with | some r => shiftSr r | none => shiftRne
  match t, x with
  | .int8, .nan | .int4, .nan => (0, true)
  | .int8, .inf s => (intCode 8 (if s then -128 else 127), false)
  | .int4, .inf s => (intCode 4 (if s then -8 else 7), false)
  | .int8, v => (intCode 8 (satInt 8 ((FVal.toInt v).getD 0)), false)
  | .int4, v => (intCode 4 (satInt 4 ((FVal.toInt v).getD 0)), false)
  | .fp32, v => (Fmt.fp32.encode false v, false)
  | t, .fin s m e => match t.elem with
    | some f => (f.roundWith shift (t = .fp8e4m3) s m e, false)
    | none => (0, false)
  | t, v => match t.elem with
    | some f => (f.encode (t = .fp8e4m3) v, false)
    | none => (0, false)

def convert (t : TFmt) (rnd : Option Nat) (x : F32) : Nat × Bool := convertVal t rnd (f32v x)

/-- Conversion of a block of FP32 values to an MX format (R33 to R35): scale code and element codes. -/
def mxBlock (t : TFmt) (rnd : Option (Nat → Nat)) (xs : List F32) : Nat × List Nat :=
  let vs := xs.map f32v
  if vs.any (fun v => match v with | .fin .. => false | _ => true) then (0xFF, xs.map fun _ => 0)
  else
    let lead : List Int := vs.filterMap fun v => match v with
      | .fin _ m e => if m = 0 then none else some (e + Nat.log2 m)
      | _ => none
    match lead with
    | [] => (0, xs.map fun _ => 0)
    | l :: ls =>
      let x := ls.foldl max l - t.emax
      let c : Nat := (max 0 (min (x + 127) 254)).toNat
      let el (i : Nat) (v : FVal) : Nat := match v with
        | .fin s m e =>
          let e' := e - (c : Int) + 127
          match t.elem with
          | some f => f.roundWith (match rnd with | some r => shiftSr (r i) | none => shiftRne) true s m e'
          | none =>
            let q : Nat := if e' + 6 ≥ 0 then m * 2 ^ (e' + 6).toNat
              else (match rnd with | some r => shiftSr (r i) | none => shiftRne) m (-(e' + 6)).toNat
            intCode 8 (satInt 8 (if s then -(q : Int) else q))
        | _ => 0
      (c, vs.zipIdx.map fun (v, i) => el i v)

end Sys2Proof.Machine
end

