-- ==== Sys2Proof/Machine/Types/Memory.lean ====
section
/-!
DEFINITION. State of the clocks, the main memory, the system cache, the on-chip stores' counts and the Hook array
(R181 to R185, R352 to R356, R610 to R645).
-/

namespace Sys2Proof.Machine

/-- The domain counters and their correspondence samples (R352 to R356). -/
structure Clocks where
  /-- The hub counter. -/
  hub : Time
  /-- Counters of the powered domains other than HUB, by domain id. -/
  counters : Tbl Time
  /-- The part of a cycle that each of them has run beyond its count, in units of `cycleUnits`. -/
  phases : Tbl Nat
  /-- The last 1,024 samples (hub, domain) of each crossing, newest first. -/
  samples : Tbl (List (Time × Time))
  /-- The host uses time conversion (R579). -/
  hostUse : Bool
  /-- The model's own running number, the argument of the free values (not the manual's). -/
  nonce : Nat
  deriving DecidableEq, Repr

/-- An entry of a memory set's error log (R629); kind 3 is EMPTY. -/
structure ErrEntry where
  line : BitVec 27
  beat : BitVec 4
  symA : BitVec 5
  symB : BitVec 5
  kind : BitVec 2
  source : BitVec 2
  patA : Byte
  patB : Byte
  syndrome : BitVec 32
  time : Time
  count : BitVec 16
  deriving DecidableEq, Repr

/-- One memory set (R610, R628 to R640). -/
structure MemSet where
  ceCount : Nat
  ueCount : Nat
  ceDie : List Nat
  log : List ErrEntry
  remap : List (Option (BitVec 27))
  erased : Option (Fin 10)
  /-- The next line of the patrol scrubber (R639). -/
  patrol : BitVec 27
  /-- Lines waiting for the scrub after a demand correction (R631). -/
  demand : List (BitVec 27)
  /-- Lines and dies corrected in the last second (R638), with the times. -/
  recent : List (Fin 10 × BitVec 27 × Time)
  /-- ST_REMAP_FULL has been raised in this power cycle (R637). -/
  remapFull : Bool
  /-- Lines whose uncorrectable error has raised its event (R632). -/
  raised : List (BitVec 27)
  /-- The set failed its self-test (R642). -/
  excluded : Bool
  deriving DecidableEq, Repr

/-- A line held in the system cache (R622 to R625). -/
structure CacheLine where
  slice : Nat
  index : Nat
  way : Fin 16
  dirty : Bool
  retained : Bool
  part : Fin 8
  deriving DecidableEq, Repr

/-- Main memory (R610 to R640): bytes by physical address set × 2³⁵ + LINE × 256 + byte, strictly rising, no
entry equal to what an unlisted address reads as. -/
structure Memory where
  cells : List Host.Cell
  /-- Ranges whose contents the manual calls undefined (R575, R722): base, length, number. -/
  undef : List (Nat × Nat × Nat)
  /-- Poisoned beats (R613), by physical address ÷ 16, rising. -/
  poison : List Nat
  deriving DecidableEq, Repr

/-- Memory sets, cache and the counts of the on-chip stores (R627). -/
structure MemState where
  main : Memory
  sets : List MemSet
  cache : Tbl CacheLine
  /-- Correction and uncorrectable counts in the order of R718. -/
  onChip : List (Nat × Nat)
  /-- BASE_s of each partition in each set (R615): (partition, set, base line, lines). -/
  regions : List (Fin 8 × Fin 4 × Nat × Nat)
  deriving DecidableEq, Repr

/-- Who waits on or signals a Hook (R181), in the order of its requester ports. -/
inductive Requester where
  | tile (t : Fin 4160)
  | job (j : BitVec 16)
  | ingest (tag : BitVec 12)
  | slotChunk (s : Fin 4096)
  | shelf
  | bureau
  deriving DecidableEq, Repr

/-- A waiter of a Hook (R181). -/
structure Waiter where
  who : Requester
  n : Nat
  deriving DecidableEq, Repr

/-- A Hook (R181 to R185). `retry` holds the WAITs refused under R184 with the time of their next try; `granted` the
released WAITs of engines that have not yet gone on (R188). -/
structure Hook where
  count : Nat
  waiters : List Waiter
  retry : List (Waiter × Time)
  granted : List Waiter
  deriving DecidableEq, Repr

/-- Who may use an allocated Hook (R185, R740): the plan, the job (none: shared) and the initial count. -/
structure HookAlloc where
  plan : BitVec 16
  job : Option (BitVec 16)
  init : Nat
  deriving DecidableEq, Repr

/-- A Hook operation on its way from a tile or an engine to the Hook array (R181, R188). -/
inductive HookOp where
  | signal (who : Requester) (job : BitVec 16) (hook n : Nat)
  | wait (who : Requester) (hook n : Nat)
  | try (who : Requester) (hook n : Nat)
  deriving DecidableEq, Repr

/-- The Hook array and the operations in flight, in order of sending (R178, R181). -/
structure HookArray where
  hooks : Tbl Hook
  alloc : Tbl HookAlloc
  flight : List HookOp
  deriving DecidableEq, Repr

end Sys2Proof.Machine
end

