-- ==== Sys2Proof/Machine/Types/Bureau.lean ====
section
/-!
DEFINITION. State of the Bureau's host window, the Drawers, the events, the I3C ports, the bulk path, the
non-volatile store and the keys (R644, R645, R691 to R723, R743 to R771, R789 to R797).
-/

namespace Sys2Proof.Machine

/-- STATE of a Drawer (R701). -/
inductive DrawerState where
  | idle | busy | done | held
  deriving DecidableEq, Repr

/-- One Drawer (R699 to R706). -/
structure Drawer where
  /-- The command area, 256 bytes. -/
  area : Bytes
  state : DrawerState
  /-- The command area as the Bureau copied it at step 3 of R702. -/
  copy : Bytes
  status : Status
  reply : Bytes
  long : Bytes
  heldUs : Nat
  /-- When the command was held (R577), and when it was accepted. -/
  heldAt : Option Time
  accepted : Time
  /-- Step 3 has passed and its further course waits on units or bulk data. -/
  going : Bool
  deriving DecidableEq, Repr

/-- An event record (R708). -/
structure Event where
  seq : BitVec 32
  status : Status
  kind : BitVec 4
  severity : BitVec 2
  source : BitVec 16
  time : Time
  detail : BitVec 112
  deriving DecidableEq, Repr

/-- HOST_ERR's LAST (R703). -/
inductive HostErr where
  | none | writeTooLong | cmdAreaBusy | doorbellBusy | popMismatch
  deriving DecidableEq, Repr

/-- Host window registers outside the Drawers (R695 to R698, R708 to R712). -/
structure Window where
  readAddr : BitVec 16
  /-- The bytes that the private read in progress captured last, with their first address (R693). -/
  capture : Option (Nat × Bytes)
  /-- No private read is in progress, or it has ended after the byte at 0xFFFF (R692). -/
  readOver : Bool
  /-- The bytes that the last private read has returned. -/
  sent : Bytes
  ready : Bool
  outputsEnabled : Bool
  standby : Bool
  negotiated : Bool
  minorNeg : BitVec 8
  step : BitVec 4
  calFault : Bool
  memFault : Bool
  checkerFault : Bool
  lecternFault : Bool
  planFault : Bool
  sigFault : Bool
  lastStatus : Status
  hostErrCount : Nat
  hostErrLast : HostErr
  /-- The event queue, head first, at most 256. -/
  events : List Event
  nextSeq : BitVec 32
  overflow : Bool
  lost : Nat
  /-- Pending IBI flags in the order in which they were set (R712). -/
  ibi : List (BitVec 8)
  /-- The IBI that was raised and not acknowledged waits until this time. -/
  ibiRetryAt : Option Time
  ibiEnabled : Bool
  deriving DecidableEq, Repr

/-- An armed bulk transfer (R715, R719 to R722). -/
structure Bulk where
  drawer : Fin 64
  port : Nat
  vc : Nat
  tag : Nat
  seq : Nat
  length : Nat
  timeoutMs : Nat
  crc : BitVec 32
  /-- Bytes received so far. -/
  got : Bytes
  /-- Time of arming or of the last packet. -/
  last : Time
  /-- MEM_WRITE: partition, view address and bytes already written. -/
  dest : Option (Fin 8 × Nat × Nat)
  deriving DecidableEq, Repr

/-- STATE of a bridge (R794). -/
inductive BridgeState where
  | idle | busy | done | nacked | busError
  deriving DecidableEq, Repr

/-- The transfer that a bridge runs (R793). -/
inductive BridgeOp where
  | write (addr : BitVec 7) (data : Bytes)
  | ccc (data : Bytes)
  | entdaa (first : Byte)
  | rstdaa
  | read (addr : BitVec 7) (len : Byte)
  deriving DecidableEq, Repr

/-- A bridge target and its controller port (R793 to R795). -/
structure Bridge where
  mode : Byte
  state : BridgeState
  op : Option BridgeOp
  data : Bytes
  deriving DecidableEq, Repr

/-- The I3C target port (R789 to R792). -/
structure I3c where
  /-- Dynamic address of each of the five targets. -/
  addrs : List (Option (BitVec 7))
  hdrDdr : Bool
  protocolError : Bool
  bridges : List Bridge
  /-- The last private write to a bridge was answered with NACK (R725, R793). -/
  nack : Bool
  /-- What the port last returned to a read CCC. -/
  answer : Bytes
  deriving DecidableEq, Repr

/-- One copy of CAL or PERSIST (R645): sequence number, completeness of its header, contents. -/
structure CalCopy where
  seq : Nat
  complete : Bool
  /-- Records by section and index (R744). -/
  recs : Tbl Bytes
  deriving DecidableEq, Repr

/-- The records of PERSIST (R644). -/
structure PersistCopy where
  seq : Nat
  complete : Bool
  fences : List (Fin 4160)
  remaps : List (List (Option (BitVec 27)))
  erased : List (Option (Fin 10))
  deriving DecidableEq, Repr

/-- Records of PERSIST that name nothing. -/
def PersistCopy.empty : PersistCopy :=
  { seq := 0, complete := true, fences := [], remaps := List.replicate 4 (List.replicate 16 none)
    erased := List.replicate 4 none }

/-- A Plan in the region PLANS (R743). -/
structure StoredPlan where
  storeId : BitVec 32
  bytes : Bytes
  deriving DecidableEq, Repr

/-- The non-volatile store (R644, R645) and the fuses (R755, R761). -/
structure NonVolatile where
  fwA : Bytes
  fwB : Bytes
  /-- The bank marked to start next: false FW_A, true FW_B (R750). -/
  marked : Bool
  calA : CalCopy
  calB : CalCopy
  persistA : PersistCopy
  persistB : PersistCopy
  eventLog : List Event
  plans : List StoredPlan
  /-- KEY_HASH of the four slots (R755). -/
  keyHash : List Bytes
  revoked : List (BitVec 2)
  /-- The 64-bit thermometer fuse (R761). -/
  svnFuse : BitVec 64
  deriving DecidableEq, Repr

/-- The Bureau and the always-on interfaces. -/
structure Bureau where
  win : Window
  drawers : List Drawer
  /-- Drawers whose doorbells were accepted and whose commands have not yet been checked (R707). -/
  queue : List (Fin 64)
  /-- Commands held or waiting under R577, in the order of acceptance (R578). -/
  holds : List (Fin 64)
  bulk : List Bulk
  i3c : I3c
  nv : NonVolatile
  /-- The running bank and image (R757): none while no firmware runs. -/
  fwBank : Option Bool
  fwImage : Bytes
  /-- The recovery image received so far (R764). -/
  recovery : Bytes
  /-- PERSIST has changes to record since this time (R127, R635). -/
  persistDue : Option Time
  /-- The records that SERVICE_CLEAR has removed from PERSIST since start-up, while the running state still shows them (R752). -/
  cleared : PersistCopy
  deriving DecidableEq, Repr

end Sys2Proof.Machine
end

