-- ==== Sys2Proof/Machine/Types/Engines.lean ====
section
/-!
DEFINITION. State of the Finisher (R336 to R351), Fusion (R360 to R398), the Shelf and the Planner (R399 to R454)
and the Solvers (R455 to R500).
-/

namespace Sys2Proof.Machine

/-! ### Finisher -/

structure FinisherJob where
  /-- Lists completed: list k goes to ring place k mod 4 (R347). -/
  lists : Nat
  /-- A frame held under R572: SEQ of the period that held it. -/
  held : Option (BitVec 32)
  /-- Frames dropped under R572 (ST_EPOCH). -/
  dropped : Nat
  deriving DecidableEq, Repr

/-! ### Fusion -/

/-- A measurement as it arrived, waiting for the close of its cycle, whose sensor records decide what becomes of it (R363 to R372). -/
structure RawMeas where
  sensor : Nat
  kind : Nat
  /-- The stream that carried it; none for the measurement ring. -/
  tag : Option Nat
  /-- Domain and value of its time before LATENCY. -/
  dom : Nat
  base : Time
  /-- Its arrival in hub time (R365, R367). -/
  arrival : Time
  /-- Its record was read with an error or with a reserved bit set. -/
  corrupt : Bool
  order : Nat
  cls : Nat
  vals : List F32
  /-- The LATENCY with which its time was converted when it arrived, and the hub time found. -/
  latency : Nat
  hub : Option Time
  deriving DecidableEq, Repr

/-- A measurement of a cycle with its hub time. -/
structure Meas where
  sensor : Nat
  /-- KIND of R360: 0 IMU, 1 WHEEL, 2 OBJECT. -/
  kind : Nat
  time : Time
  order : Nat
  cls : Nat
  /-- IMU: gyro, acceleration. WHEEL: vx, vy, yaw rate. OBJECT: position, size, sigma. -/
  vals : List F32
  deriving DecidableEq, Repr

/-- A track (R383). `num` holds position and velocity, `cov` their 6 × 6 covariance row by row. -/
structure Track where
  id : BitVec 32
  cls : Nat
  confirmed : Bool
  num : List F32
  cov : List F32
  size : List F32
  hits : Nat
  lastSensor : Nat
  lastTime : Time
  deriving DecidableEq, Repr

/-- The ego state (R374): position, velocity, orientation, gyro and accelerometer biases in `num`, and the 15 × 15 covariance row by
row in `cov`. -/
structure Ego where
  num : List F32
  cov : List F32
  /-- The last accepted IMU values in the body frame, and the NOISE of their sensor (R377). -/
  imu : List F32
  noise : List F32
  /-- The time at which the state stands. -/
  time : Time
  noUpdate : Nat
  deriving DecidableEq, Repr

/-- The counts of R396. -/
structure SensorCounts where
  late : Nat
  gated : Nat
  nonfinite : Nat
  timeRange : Nat
  corrupt : Nat
  unused : Nat
  deriving DecidableEq, Repr

/-- Consecutive conflicting cycles of a pair (R382), and whether the Lectern has been told. -/
structure PairCount where
  count : Nat
  told : Bool
  deriving DecidableEq, Repr

/-- A cycle in progress (R370): its results are taken at the close. -/
structure FusionCycle where
  number : BitVec 32
  tau : Time
  closeAt : Time
  emitAt : Time
  closed : Bool
  epoch : BitVec 16
  conflict : Bool
  full : Bool
  /-- The estimates at τ (R392). -/
  ego : Option Ego
  tracks : Tbl Track
  energyNj : Nat
  deriving DecidableEq, Repr

structure FusionState where
  /-- The Fusion job and the descriptor in force (R387). -/
  job : Option (BitVec 16)
  desc : Option Nat
  running : Bool
  /-- The generator (R370), in hub cycles: the last tick, and the edges of a locked one that have not ticked yet. -/
  last : Time
  first : Bool
  due : List Time
  /-- Cycles from their tick to their emission, oldest first, and the number of the next one. -/
  cycles : List FusionCycle
  cycle : BitVec 32
  /-- τ of the last closed cycle (R388). -/
  closedTau : Option Time
  waiting : List RawMeas
  nextOrder : Nat
  /-- Sensor records in force (R363), by SENSOR_ID. -/
  sensors : Tbl Nat
  ego : Option Ego
  /-- Tracks by table index (R383). -/
  tracks : Tbl Track
  nextTrack : BitVec 32
  pairs : Tbl PairCount
  /-- Next record of the measurement ring, and records written to the two result rings. -/
  measNext : Nat
  egoRecords : Nat
  trackLists : Nat
  counts : Tbl SensorCounts
  /-- Measurements dropped against a stream (R368), by tag; 0xFFFF for the measurement ring. -/
  dropped : Tbl Nat
  trackFull : Nat
  deriving DecidableEq, Repr

/-! ### Shelf -/

/-- The tree (R400 to R403): a leaf's STATE, or a node whose child group the commit of version `born` wrote. -/
inductive Oct where
  | leaf (state : BitVec 2)
  | node (born : BitVec 32) (c0 c1 c2 c3 c4 c5 c6 c7 : Oct)
  deriving DecidableEq, Repr

/-- A patch of a shelf (R404): the version whose commit wrote it, and its 1,024 cells. -/
structure Patch where
  born : BitVec 32
  cells : Bytes
  deriving DecidableEq, Repr

/-- One live version (R416). A patch that is not listed holds cost 0 from the clearing (R406). -/
structure ShelfVersion where
  number : BitVec 32
  tree : Oct
  /-- Patches by shelf × 1,024 + patch. -/
  patches : Tbl Patch
  deriving DecidableEq, Repr

/-- An entry of the change log (R417): up to 16 boxes of six FP32 values each. -/
structure ChangeEntry where
  version : BitVec 32
  boxes : List (List F32)
  deriving DecidableEq, Repr

/-- A batch in a queue (R407, R470): from a Drawer, or from a ring slot. -/
structure Batch32 where
  drawer : Option (Fin 64)
  slot : Nat
  bytes : Bytes
  deriving DecidableEq, Repr

/-- A word of the Shelf's store (R427, R627): the table entry (i, j, k) of a level in the child group that the commit of a version wrote,
or eight cells of a patch that it wrote, by shelf × 1,024 + patch and place. -/
inductive ShelfWord where
  | node (born : BitVec 32) (l i j k : Nat)
  | cells (born : BitVec 32) (patch word : Nat)
  deriving DecidableEq, Repr

structure ShelfState where
  /-- The descriptor in force (R406) and the partition whose view holds the update ring. -/
  desc : Option Nat
  part : Nat
  current : ShelfVersion
  /-- The version that each Planner instance pins (R415, R416). -/
  pins : List (Option ShelfVersion)
  log : List ChangeEntry
  /-- Words that stay poisoned until a commit rewrites them (R627). -/
  poison : List ShelfWord
  queue : List Batch32
  nextSlot : Nat
  deriving DecidableEq, Repr

/-! ### Planner -/

/-- A waypoint (R453). -/
structure Waypoint where
  t : F32
  stop : Bool
  q : List F32
  deriving DecidableEq, Repr

/-- A plan: the hub time to which its times refer, and its waypoints (R434, R443). -/
structure Traj where
  start : Time
  points : List Waypoint
  deriving DecidableEq, Repr

/-- A roadmap kept across periods (R436): vertices, and edges with the version last checked. -/
structure Roadmap where
  vertices : List (List F32)
  edges : List (Nat × Nat × BitVec 32)
  deriving DecidableEq, Repr

/-- A Planner period in progress. -/
structure PlanRun where
  inst : Fin 2
  /-- The query served (320 bytes), and the start that R434 or the query gives. -/
  query : Nat
  start : List F32
  startTime : Time
  /-- Version of the snapshot or last re-check, and the version at START. -/
  snapshot : BitVec 32
  mapVersion : BitVec 32
  /-- The instance holds its pin. -/
  pinned : Bool
  rounds : Nat
  repaired : Bool
  /-- The runs of waypoints that a repaired candidate keeps, in order (R441). -/
  pieces : List (List (List F32))
  /-- TRAJ_OPT: the waypoints from which it starts (R437). -/
  guess : List (List F32)
  checks : Nat
  /-- The hold check's result: first colliding segment and substep of the current plan's rest (R444). -/
  holdFrom : Option (List Waypoint × Time)
  holdHit : Option (Nat × Nat)
  startBad : Bool
  goalBad : Bool
  deriving DecidableEq, Repr

structure PlannerJob where
  /-- Queries taken from the ring (R433). -/
  queryNext : Nat
  lastQuery : Option Nat
  current : Option Traj
  records : Nat
  superseded : Nat
  roadmap : Roadmap
  run : Option PlanRun
  deriving DecidableEq, Repr

/-! ### Solver -/

/-- An iterate (R478) with its residuals (R479). -/
structure Iterate where
  x : List F32
  sl : List F32
  su : List F32
  ll : List F32
  lu : List F32
  rPrim : F32
  rDual : F32
  mu : F32
  rho : F32
  deriving DecidableEq, Repr

/-- A solve in progress (R477). -/
structure Solve where
  /-- The application point has passed. -/
  applied : Bool
  /-- Iterations completed after iterate 0; the present iterate, of the scaled problem once iterate 0 is complete (R484); the best
  one and its index. -/
  iters : Nat
  cur : Option Iterate
  best : Option (Nat × Iterate)
  cold : Bool
  warmStatus : Status
  /-- Scale factors of R484; empty without EQUIL. -/
  scale : List F32
  deriving DecidableEq, Repr

structure SolverJob where
  /-- The instance whose store holds the job's structure (R464, R489). -/
  inst : Nat
  /-- P_VAL, Q, A_VAL, L_BOUND, U_BOUND as they stand (R459, R472). -/
  vals : List (List F32)
  queue : List Batch32
  nextSlot : Nat
  results : Nat
  /-- The source of WARM PREVIOUS (R489). -/
  prev : Option Bytes
  /-- The values are to be reloaded before the next solve; the next result tells it (R500). -/
  reload : Bool
  reloaded : Bool
  solve : Option Solve
  deriving DecidableEq, Repr

structure EngineState where
  fin : Tbl FinisherJob
  fus : FusionState
  shelf : ShelfState
  plan : Tbl PlannerJob
  solv : Tbl SolverJob
  /-- The job whose iteration each Solver instance runs (R497). -/
  serving : Tbl (BitVec 16)
  deriving DecidableEq, Repr

end Sys2Proof.Machine
end

