-- ==== Sys2Proof/Machine/Types/Fabric.lean ====
section
/-!
DEFINITION. State of the tiles (R67 to R180) and of the sequence-model stores (R206 to R256).
-/

namespace Sys2Proof.Machine

/-- A stationary or staged block (R69 to R71): format, element codes column by column, scale codes. -/
structure WBlock where
  wfmt : BitVec 4
  elems : List Nat
  scales : List Nat
  /-- Some of its bytes were poisoned (R111). -/
  bad : Bool
  deriving DecidableEq, Repr

/-- What the checker forms at LOAD_W from its own read of the weights (R659): those weights and the exact row sums. -/
structure CheckBlock where
  block : WBlock
  sums : List FVal
  deriving DecidableEq, Repr

/-- A command in a unit's queue (R136, R137): its place in program order, the word, the advance of R160 and the
iteration index of the innermost loop. -/
structure QEntry where
  id : Nat
  word : BitVec 128
  advance : Int
  iter : Nat
  /-- The advance of the last iteration (R161, R822). -/
  far : Int
  deriving DecidableEq, Repr

/-- A loop that the command unit runs (R160). -/
structure LoopFrame where
  first : Nat
  len : Nat
  count : Nat
  index : Nat
  stride : Int
  deriving DecidableEq, Repr

/-- A SEND that awaits its acknowledgement (R150). -/
structure SendFlight where
  cmd : QEntry
  dest : Nat
  /-- Its packets: destination address and data, at most 512 bytes each (R175). -/
  packets : List (Nat × Bytes)
  /-- Store words read: first byte and bytes. -/
  span : List (Nat × Nat)
  hook : Nat
  count : Nat
  deriving DecidableEq, Repr

/-- A DMA in progress (R166 to R170): the runs of bytes to land in the store, or the lines to become visible. -/
structure DmaFlight where
  cmd : QEntry
  inbound : Bool
  /-- (address, bytes): store addresses of a DMA_IN, view addresses of a DMA_OUT. -/
  runs : List (Nat × Bytes)
  bad : List Nat
  /-- CACHE policy of R166. -/
  pol : Nat
  /-- Store words that the transfer reads or writes: first byte and bytes. -/
  span : List (Nat × Nat)
  hook : Nat
  count : Nat
  deriving DecidableEq, Repr

/-- A HOOK_SIGNAL's mark (R137, R187): sent once every earlier command of the named units has finished. -/
structure SignalMark where
  id : Nat
  units : BitVec 4
  hook : Nat
  count : Nat
  deriving DecidableEq, Repr

/-- A HOOK_WAIT at work (R137, R186). -/
structure WaitMark where
  id : Nat
  units : BitVec 4
  hook : Nat
  count : Nat
  /-- Sent to the Hook array. -/
  sent : Bool
  /-- Satisfied; the units resume with HOOK_WAIT_DONE (R188). -/
  released : Bool
  deriving DecidableEq, Repr

/-- A TRY whose result does not yet stand in the store (R186): the command, RESULT_ADDR, and the answer of the Hook array once
it has come. -/
structure TryMark where
  id : Nat
  addr : Nat
  hook : Nat
  count : Nat
  /-- Sent to the Hook array. -/
  sent : Bool
  result : Option Bool
  deriving DecidableEq, Repr

/-- Where a tile's commands stand in main memory (R738): partition, view address, and the segments that they fill. -/
structure CodeImage where
  part : Nat
  base : Nat
  segments : Nat
  deriving DecidableEq, Repr

/-- A segment of 64 commands in the command buffer (R162), read from an image; none for a command that was read poisoned
(R632). -/
structure Segment where
  image : CodeImage
  number : Nat
  words : List (Option (BitVec 128))
  deriving DecidableEq, Repr

/-- What a tile is doing (R159, R164, R165). -/
inductive TilePhase where
  /-- At END, waiting for the next START. -/
  | idle
  /-- A START has been sent and waits for the tile to accept it (R162). -/
  | starting
  | running
  /-- Cancelled; kept transfers finish (R165). -/
  | stopping
  /-- Pre-emption: stopped and being saved (R555). -/
  | saving
  deriving DecidableEq, Repr

/-- STATE of the census (R130). -/
inductive CensusState where
  | active | spareIdle | spareMapped | fenced | lbistFailed
  deriving DecidableEq, Repr

/-- The registers of the array and the gate pipeline (R68, R80, R100, R102); unlisted entries are undefined and
read as free values of the number `undef` (R159). -/
structure TileRegs where
  stationary : Option WBlock
  staging : Option WBlock
  /-- The checker's counterparts of the two (R659). -/
  checkUsed : Option CheckBlock
  checkStaged : Option CheckBlock
  acc : Tbl F32
  half : Bool
  consts : Tbl F32
  m : Tbl F32
  s : Tbl F32
  pair : List F32
  undef : Nat
  /-- Running number of the tile's random generator and its seed (R54). -/
  rngSeed : Nat
  rngCount : Nat
  deriving DecidableEq, Repr

/-- A pass that the checker has still to compare (R660 to R662): its exact sums as the array and as the checker forms them,
one pair for each comparison. -/
structure PassCheck where
  id : Nat
  sums : List (FVal × FVal)
  deriving DecidableEq, Repr

/-- One physical tile. -/
structure Tile where
  phase : TilePhase
  /-- The logical id whose work the tile does (R129); none if none. -/
  serves : Option (Fin 4096)
  census : CensusState
  ceCount : Nat
  bucket : Nat
  /-- The tile store (R105): sparse, strictly rising, no zero byte listed, and its poisoned bytes. -/
  store : List Host.Cell
  poison : List Nat
  regs : TileRegs
  /-- Job, program set and entry of the running period. -/
  job : Option (BitVec 16)
  epoch : BitVec 16
  /-- The image START will latch: the start word of R547. -/
  startWord : Nat
  /-- The program of the period, or of the last one. -/
  program : Option CodeImage
  pc : Nat
  loops : List LoopFrame
  nextId : Nat
  queues : List (List QEntry)
  deriving DecidableEq, Repr

/-- The rest of a tile's running state. -/
structure TileRun where
  waits : List WaitMark
  marks : List SignalMark
  sends : List SendFlight
  dmas : List DmaFlight
  checks : List PassCheck
  /-- Values drained and not yet taken by their GATE (R141): closing pass by closing pass. -/
  drains : List (List F32 × Bool)
  /-- Final values of closing passes not yet drained (R85). -/
  closing : List (List F32 × Bool)
  /-- Words in the mesh router's send queue (R103). -/
  sendQ : Bytes
  nonfinite : Bool
  /-- The command buffer: at most eight segments (R162). -/
  segments : List Segment
  /-- TRYs on their way or waiting for their word (R186). -/
  tries : List TryMark
  /-- The group in progress has taken at least one pass (R81). -/
  groupOpen : Bool
  deriving DecidableEq, Repr

structure TileState where
  t : Tile
  r : TileRun
  deriving DecidableEq, Repr

/-! ### Sequence models -/

/-- States of a state slot (R243). -/
inductive SlotPhase where
  | free | resident | held | swappingOut | swapped | swappingIn
  deriving DecidableEq, Repr

/-- An entry of a slot's queue (R244). -/
inductive SlotReq where
  | chunk (seq : BitVec 32) (stream : BitVec 16) (addr : BitVec 48) (started : Bool)
  | swapOut (drawer : Fin 64)
  | swapIn (drawer : Fin 64)
  deriving DecidableEq, Repr

/-- A state slot (R242 to R250). -/
structure StateSlot where
  phase : SlotPhase
  queue : List SlotReq
  /-- The request being carried out by a swap: a Drawer's, or the chunk's at the head. -/
  busyFor : Option (Fin 64)
  /-- Units of the job's trigger that bring no chunk to this slot, since it was withdrawn or removed (R248, R250). -/
  skip : Nat
  /-- Chunks removed with a status (R250), by SEQ. -/
  removed : List (BitVec 32 × Status)
  deriving DecidableEq, Repr

/-- A KV stream (R211). -/
structure KvStream where
  record : Nat
  part : Fin 8
  deriving DecidableEq, Repr

/-- One run of a step (R227 to R232). -/
structure KvRun where
  bucket : Nat
  batch : Nat
  /-- KV_ID, NEW_TOKENS and SAMPLE_SEQ of each row. -/
  rows : List (BitVec 16 × Nat × BitVec 32)
  deriving DecidableEq, Repr

/-- The step of a job that uses the KV window (R219 to R235). -/
structure KvStep where
  runs : List KvRun
  /-- The run in progress. -/
  current : Nat
  removed : List (BitVec 16 × BitVec 32 × Status)
  deriving DecidableEq, Repr

/-- An adapter (R254, R255). -/
structure Adapter where
  generation : BitVec 32
  current : Bool
  deriving DecidableEq, Repr

structure SeqState where
  pages : Tbl Nat
  streams : Tbl KvStream
  slots : Tbl StateSlot
  steps : Tbl KvStep
  /-- The sample identifiers of each job's last completed step with their statuses (R234, R235). -/
  results : Tbl (List (BitVec 16 × BitVec 32 × Status))
  adapters : Tbl Adapter
  deriving DecidableEq, Repr

end Sys2Proof.Machine
end

