-- ==== Sys2Proof/Machine/Types/Ingest.lean ====
section
/-!
DEFINITION. State of Ingest (R257 to R314, R668 to R673).
-/

namespace Sys2Proof.Machine

/-- One region of a region table (R288). -/
structure Region where
  x0 : Nat
  y0 : Nat
  x1 : Nat
  y1 : Nat
  deriving DecidableEq, Repr

/-- A part of a sample that has taken its slot (R290, R302): its window of the frame. -/
structure Part where
  part : Nat
  slot : Nat
  region : Region
  deriving DecidableEq, Repr

/-- How far a sample has come. -/
inductive SampleStage where
  /-- Arriving, before the limit check. -/
  | gathering
  /-- Waiting for a decoder (R277). -/
  | queued
  /-- Taken by a decoder, or streaming through the core. -/
  | decoding
  /-- Completed or failed. -/
  | ended
  deriving DecidableEq, Repr

/-- A failure of a sample or of a part (R303): part, stage, status, slot kept. -/
structure SampleError where
  seq : BitVec 32
  part : Nat
  stage : Nat
  status : Status
  slot : Option Nat
  deriving DecidableEq, Repr

/-- A descriptor of a completed part (R302), as its 256-bit image. -/
abbrev SampleDesc := Nat

/-- A sample in progress (R266 to R270). -/
structure Sample where
  seq : BitVec 32
  fsTime : Time
  /-- The descriptor image the sample started under (R264). -/
  desc : Nat
  epoch : BitVec 16
  stage : SampleStage
  /-- Payload bytes of JPEG, or pixel rows received (values, row by row). -/
  bytes : Bytes
  rows : List (List Nat)
  /-- Points received, and the header of the first point packet. -/
  points : List (List F32)
  pointsSeen : Nat
  header : Nat
  packets : Nat
  /-- The last packet, or the Frame End, has come. -/
  whole : Bool
  /-- Width and height of the image: the stream's, or the JPEG frame's own (R284). -/
  dims : Nat × Nat
  parts : List Part
  regions : List Region
  augMissing : Bool
  aug : Nat
  /-- Withheld by an input test (R670). -/
  withhold : Bool
  /-- CRC-32 of the frame's first data-type 0x12 long packet (R673). -/
  testLine : Option (BitVec 32)
  grouped : Bool
  lateMember : Bool
  deriving DecidableEq, Repr

/-- An open record or batch (R301, R304). -/
structure Batch where
  opened : Time
  /-- The descriptor of its first sample. -/
  desc : Nat
  taken : Nat
  /-- Samples that belong to the batch. -/
  members : List (BitVec 32)
  descs : List SampleDesc
  errors : List SampleError
  windowExpired : Bool
  closed : Bool
  closeTime : Time
  deriving DecidableEq, Repr

/-- A region table (R288): its regions and the frames for which it stays in use. -/
structure RoiTable where
  regions : List Region
  frames : Nat
  deriving DecidableEq, Repr

/-- A bound inbound stream (R260 to R265). -/
structure Stream where
  /-- The descriptor in force (80 bytes), none while the first binding is pending. -/
  desc : Option Nat
  /-- A binding (some) or unbinding (none) that takes effect at the next frame start or sample (R264). -/
  pending : Option (Option Nat)
  samples : List Sample
  batches : List Batch
  /-- Frame-number extension (R268), and the number that the last Frame Start carried (R266). -/
  lastFrame : Option (BitVec 32)
  frameNo : BitVec 16
  /-- Frame Start seen before a sample of data type 0x35 or 0x36 (R269, R786). -/
  fsTime : Option Time
  frameCount : Nat
  /-- The rolling average A and the completed samples (R285, R286). -/
  avg : Nat
  completed : Nat
  nextSlot : Nat
  /-- Records posted into the record ring of each destination record, by its index (R301). -/
  posted : Tbl Nat
  /-- The stream's counters (R306): error entries by status. -/
  errorCounts : Tbl Nat
  roi : Option RoiTable
  /-- The last table SEQ that the Finisher used (R350). -/
  lastTableSeq : Option (BitVec 32)
  /-- A JPEG or point sample whose later packets are dropped. -/
  dropSeq : Option (BitVec 32)
  /-- Blanking tests (R668 to R671): the pattern in flight, abandoned tests in a row, overdue told, withheld. -/
  testPattern : Option (Fin 16)
  abandoned : Nat
  overdueTold : Bool
  withholdNext : Bool
  deriving DecidableEq, Repr

/-- A member of a group instance (R309, R313). -/
structure GroupMember where
  pos : Nat
  seq : BitVec 32
  tag : BitVec 12
  t : Time
  /-- The member's sample has failed: it is shown as missing (R314). -/
  failed : Bool
  deriving DecidableEq, Repr

structure GroupInstance where
  t0 : Time
  members : List GroupMember
  closed : Bool
  expired : Bool
  deriving DecidableEq, Repr

/-- An aligned group (R308 to R314). -/
structure Group where
  record : Nat
  seq : BitVec 32
  instances : List GroupInstance
  deriving DecidableEq, Repr

structure IngestState where
  streams : Tbl Stream
  /-- Feedback bindings of data types 0x33 and 0x34 (R787): descriptor images by tag. -/
  feedback : Tbl Nat
  groups : Tbl Group
  /-- The decoders' common queue (R277): stream and sample. -/
  queue : List (BitVec 12 × BitVec 32)
  decoders : List (Option (BitVec 12 × BitVec 32))
  deriving DecidableEq, Repr

end Sys2Proof.Machine
end

