-- ==== Sys2Proof/Machine/Types/Jobs.lean ====
section
/-!
DEFINITION. State of jobs, partitions and Plans (R535 to R578, R733 to R743), of the Control Engine (R501 to R533)
and of the CSI-2 ports (R772 to R788).
-/

namespace Sys2Proof.Machine

/-- Where a job's current period stands. -/
inductive RunPhase where
  /-- No period runs. -/
  | idle
  /-- A BACKGROUND period waits for its grant (R602). -/
  | waiting
  | running
  /-- Pre-empted: being saved, saved, being resumed (R555, R556). -/
  | saving
  | saved
  /-- Cancelled or ended; its tiles are stopping or its inputs being made clean (R551). -/
  | cleaning
  deriving DecidableEq, Repr

/-- A period (R545, R567). -/
structure Period where
  s : Time
  seq : BitVec 32
  variant : Nat
  epoch : BitVec 16
  /-- Physical tiles whose completion records are still awaited. -/
  left : List (Fin 4160)
  /-- The cause that ends the period without its result (R552, R820), with its hub time. -/
  cause : Option (Status × Time)
  nonfinite : Bool
  preempted : Bool
  energyNj : Nat
  adapterGen : BitVec 32
  removed : Nat
  /-- The period has reached its completion of R537, with the engine's status and the time. -/
  done : Option (Status × Time)
  deriving DecidableEq, Repr

/-- A period generator locked to a PERIOD_IN pin (R519, R543). -/
structure Generator where
  /-- Last period start, or the start of the job. -/
  last : Time
  /-- No period has started since the job's start. -/
  first : Bool
  /-- An edge has been accepted, so a period is due at this time. -/
  due : Option Time
  missed : Nat
  notified : Bool
  deriving DecidableEq, Repr

/-- A started job. -/
structure JobRun where
  plan : BitVec 16
  started : Bool
  /-- JOB_STOP accepted; the Drawer that waits for it (R531, R577). -/
  stopping : Bool
  /-- Stopped by R168, R183 or R185 until a JOB_START (R552). -/
  barred : Bool
  phase : RunPhase
  period : Option Period
  nextSeq : BitVec 32
  prevStatus : Status
  inputsRestarted : Bool
  gen : Generator
  /-- When the last period ended, or the job started (R674). -/
  lastEnd : Time
  /-- Durations of the last eight periods, and energies of the last eight of each variant (R600, R601). -/
  durations : List Nat
  energies : List (Nat × Nat)
  /-- Tiles whose stop is awaited (R551, R189). -/
  stopWait : List (Fin 4160)
  /-- The instant of a PERIODIC BACKGROUND period that waits for its grant (R602). -/
  waitS : Option Time
  deriving DecidableEq, Repr

/-- A mode change in progress (R569 to R571): Drawer, acceptance, jobs and engines still to acknowledge. -/
structure ModeChange where
  drawer : Fin 64
  accepted : Time
  waiting : List (BitVec 16)
  slots : List (Fin 256)
  streams : List (BitVec 12)
  deriving DecidableEq, Repr

/-- Why a partition's boundary runs (R574). -/
inductive BoundaryKind where
  | activate (drawer : Fin 64) (handle : BitVec 16)
  | repair
  | set (drawer : Fin 64)
  deriving DecidableEq, Repr

/-- A boundary in progress. -/
structure Boundary where
  kind : BoundaryKind
  since : Time
  deriving DecidableEq, Repr

/-- A partition (R560 to R576). -/
structure Partition where
  record : Option Nat
  /-- The active Plan (R737). -/
  active : Option (BitVec 16)
  epoch : BitVec 16
  mode : Option ModeChange
  boundary : Option Boundary
  /-- A record accepted by PARTITION_SET for the next PLAN_ACTIVATE (R573). -/
  next : Option Nat
  deriving DecidableEq, Repr

/-- A loaded Plan (R737, R763, R770). -/
structure LoadedPlan where
  handle : BitVec 16
  bytes : Bytes
  digest : Bytes
  keySlot : BitVec 2
  storeId : Option (BitVec 32)
  deriving DecidableEq, Repr

structure JobState where
  plans : List LoadedPlan
  nextHandle : BitVec 16
  parts : List Partition
  runs : Tbl JobRun
  /-- Tiles fenced in service, in the order of fencing (R667), with the id that each served. -/
  fenced : List (Fin 4160 × Nat)
  /-- STARTED, COMPLETED, LATE, DROPPED, FAILED of the 64 clients (R568). -/
  clients : List (List Nat)
  deriving DecidableEq, Repr

/-! ### Control Engine -/

/-- One input of a slot in one half (R512 to R517). -/
structure CeInput where
  /-- The buffer: newest value written, and whether it came since the last latch. -/
  buffer : Int
  fresh : Bool
  /-- The latched value and whether it was stale. -/
  value : Int
  stale : Bool
  staleCount : Nat
  ever : Bool
  /-- SOLVER: sequence of the record last seen, and a record held for its epoch (R572). -/
  lastSeq : Option (BitVec 32)
  held : Option (BitVec 32)
  deriving DecidableEq, Repr

/-- What a half computes in a period (R509, R524). -/
structure CeVectors where
  y : List Int
  x : List Int
  z : List Int
  w : List Int
  deriving DecidableEq, Repr

/-- One Control Engine slot with its twin's vectors (R501 to R533). -/
structure CeSlot where
  running : Bool
  /-- One last frame with SAFE_OUT, then stop (R531). -/
  stopping : Bool
  gen : Generator
  inputs : List CeInput
  /-- State and model state of half A (or the slot's own half) and of the twin in half B. -/
  x : List Int
  z : List Int
  x2 : List Int
  z2 : List Int
  /-- Prediction made in the last period (R524); none after a start. -/
  pred : Option (List Int)
  /-- The vectors computed in this period, by the slot's half and by the twin. -/
  out : Option CeVectors
  out2 : Option CeVectors
  compared : Bool
  /-- Output mismatch in this period; the loop has mismatched since its start (R528). -/
  badNow : Bool
  mismatchNext : Bool
  mismatched : Bool
  period : BitVec 32
  epoch : BitVec 16
  exceeds : Bool
  plausCount : Nat
  plausTold : Bool
  staleTold : Bool
  /-- The last computed output and the CE time of its write (R516). -/
  lastOut : List Int
  /-- Stages done in this period: 0 period started, 1 latched, 2 compared, 3 written. -/
  stage : Nat
  deriving DecidableEq, Repr

/-- The saturating counts of a slot: DROPPED, STALE, PLAUS_EXCEED, MISMATCH, EARLY_EDGE, MISSED_EDGE. -/
structure CeCounts where
  dropped : Nat
  stale : Nat
  plaus : Nat
  mismatch : Nat
  early : Nat
  missedEdge : Nat
  deriving DecidableEq, Repr

/-- The newest result record of a Solver job that is visible (R496, R515). -/
structure SolverView where
  seq : BitVec 32
  epoch : BitVec 16
  status : Status
  bestIter : Nat
  x : List F32
  deriving DecidableEq, Repr

structure ControlState where
  slots : Tbl CeSlot
  solver : Tbl SolverView
  counts : Tbl CeCounts
  /-- Halves out of service after a failed test (R679). -/
  failed : List Half
  deriving DecidableEq, Repr

/-! ### CSI-2 ports -/

/-- Counters of a port (R788). -/
structure PortCounts where
  packets : Nat
  hdrCorrected : Nat
  hdrDropped : Nat
  crcErrors : Nat
  unbound : Nat
  headerErrors : Nat
  shorts : Nat
  lastDt : BitVec 6
  lastVc : BitVec 5
  lastData : BitVec 16
  lastTime : Time
  discarded : Nat
  lanes : BitVec 3
  phy : Bool
  deskewed : Bool
  /-- The PHY settings record that the port took when it powered on (R745, R746). -/
  setting : BitVec 128
  deriving DecidableEq, Repr

/-- A record on its way out (R780, R783). -/
structure OutRecord where
  tag : BitVec 12
  kind : Byte
  dt : BitVec 6
  vc : BitVec 4
  seq : BitVec 32
  epoch : BitVec 16
  safe : Bool
  conflict : Bool
  body : Bytes
  /-- Body bytes already sent, and the TIME of the record's Frame Start once it has begun. -/
  sent : Nat
  time : Option Time
  deriving DecidableEq, Repr

/-- A packet on the wire of an output port (R780). -/
inductive OutPacket where
  | frameStart (vc : BitVec 4) (number : BitVec 16)
  | long (vc : BitVec 4) (dt : BitVec 6) (payload : Bytes)
  | frameEnd (vc : BitVec 4) (number : BitVec 16)
  deriving DecidableEq, Repr

structure OutPort where
  counts : PortCounts
  /-- Records waiting, and the record whose packets are being sent. -/
  queue : List OutRecord
  /-- The packets of the transmission in progress: the burst on the wire. -/
  wire : List OutPacket
  /-- The port has left LP-11 (R730, R731). -/
  active : Bool
  rate : BitVec 2
  deriving DecidableEq, Repr

structure PortState where
  ins : List PortCounts
  outs : List OutPort
  /-- OUT_BIND: tag to port, VC and data type (R778). -/
  outBinds : Tbl (Fin 4 × BitVec 4 × BitVec 6)
  deriving DecidableEq, Repr

end Sys2Proof.Machine
end

