-- ==== Sys2Proof/Machine/Types/Safety.lean ====
section
/-!
DEFINITION. State of the Lectern, of the periodic self-test and of the power governor (R579 to R609, R646 to R690).
-/

namespace Sys2Proof.Machine

/-- A notification on its way to the Lectern (R655). -/
structure Note where
  status : Status
  kind : BitVec 4
  source : BitVec 16
  time : Time
  /-- Its notify-again point has been reached since (R688). -/
  again : Bool
  deriving DecidableEq, Repr

/-- A token on its way to the Lectern (R682). -/
inductive Token where
  | start (key : MonKey) (at_ : Time)
  | result (key : MonKey) (seq : BitVec 32) (epoch : BitVec 16) (status : Status) (at_ : Time)
  deriving DecidableEq, Repr

/-- An entry of the Lectern log (R655, R717). -/
structure LogRec where
  status : Status
  kind : BitVec 4
  source : BitVec 16
  hub : Time
  lect : Time
  number : BitVec 32
  deriving DecidableEq, Repr

/-- An entry of the monitor table with its counts (R681 to R684). Times are hub-counter values. -/
structure MonEntry where
  key : MonKey
  cls : Nat
  trigger : Nat
  lock : Bool
  period : Nat
  deadline : Nat
  /-- Consecutive missing and present results. -/
  misses : Nat
  presents : Nat
  /-- Open check points, oldest first, each with whether a result that is not present has come for it (R683). -/
  checks : List (Time × Bool)
  /-- The last check point of a slot has counted a missing result, and no token has come since. -/
  late : Bool
  /-- The time by which the next START token is due (PERIODIC jobs). -/
  startBy : Option Time
  /-- The entry stands behind RESULT_MISSING. -/
  behind : Bool
  deriving DecidableEq, Repr

/-- The Lectern policy (R656). -/
structure Policy where
  scrubHours : Nat
  bucketLimit : Nat
  leakS : Nat
  hookGapUs : Nat
  tileDtiS : Nat
  engineDtiS : Nat
  wdMs : Nat
  safetyMiss : Nat
  controlMiss : Nat
  reactSafe : BitVec 16
  deriving DecidableEq, Repr

/-- The Lectern (R648 to R658, R680 to R690). -/
structure Lectern where
  /-- The safe state is held. -/
  safe : Bool
  /-- When the safe state was last entered or left (R685, R689). -/
  changed : Time
  /-- The commanded levels of SAFE_A and SAFE_B: true is high. -/
  pinA : Bool
  pinB : Bool
  /-- Bits [12:0] of the safe-cause word (R687). -/
  causes : BitVec 13
  firstStatus : Status
  firstSource : BitVec 16
  /-- The log, newest first, at most 4,096 entries. -/
  log : List LogRec
  nextNumber : BitVec 32
  inbox : List Note
  tokens : List Token
  table : List MonEntry
  digest : BitVec 64
  policy : Policy
  /-- Watchdog (R680): number and time of the last kick. -/
  wdSeq : BitVec 16
  wdLast : Option Time
  /-- Loops behind LOOP_MISMATCH (R688). -/
  mismatched : List (Fin 256)
  /-- Events behind POLICY_EVENT (R688): status, kind and id of the source. -/
  events : List (Status × BitVec 4 × BitVec 16)
  /-- The boot tests of the last boot passed (R653). -/
  bootOk : Bool
  deriving DecidableEq, Repr

/-- Self-test state of one unit (R674 to R679). -/
structure UnitTest where
  unit : TestUnit
  /-- Slices passed in the test in progress. -/
  passed : Nat
  /-- A slice is in progress since this time. -/
  slice : Option Time
  /-- The last whole pass, or READY. -/
  lastPass : Time
  /-- The last time the unit was scheduled. -/
  lastSched : Time
  overdue : Bool
  failed : Bool
  deriving DecidableEq, Repr

/-- A switchable domain (R579, R583, R584). -/
inductive DomState where
  | off
  | goingOn (since : Time)
  | on (idleSince : Option Time)
  | goingOff (since : Time) (again : Bool)
  deriving DecidableEq, Repr

/-- The limit record in force (R589); floors in the order SAFETY, CONTROL, PERCEPTION, BACKGROUND, in MHz. -/
structure Limits where
  tjTarget : Nat
  pLimitW : Nat
  iLimitMa : Nat
  margin : Nat
  floors : List Nat
  deriving DecidableEq, Repr

/-- The thermal state of one die (R595). -/
structure DieHeat where
  emergency : Bool
  /-- Every sensor has read below TJ_TARGET since this time. -/
  coolSince : Option Time
  deriving DecidableEq, Repr

/-- The power governor (R585 to R608). Powers in µW; frequencies in steps of 12.5 MHz. -/
structure Governor where
  limits : Limits
  /-- Running weights (R586, R748), by unit × 16 + counter. -/
  weights : Tbl F32
  trim : Int
  pEst : Int
  /-- The last 500 estimates, newest first (R587, R600). -/
  history : List Int
  pPeak : Int
  vBatt : BitVec 16
  iBatt : Nat
  /-- Raw junction readings in 1/64 °C, corrected (R747), by sensor. -/
  sensors : List Int
  excluded : List (Fin 144)
  /-- Frequency cap of each exposed tile that a started job occupies. -/
  caps : Tbl Nat
  heat : List DieHeat
  /-- The sensors that have read 105 °C or more without a break, and since when (R596). -/
  hotSince : Tbl Time
  /-- P_est above P_eff with every BACKGROUND tile at its floor since this time (R593). -/
  overSince : Option Time
  /-- BACKGROUND starts are barred (R593), and P_est below 0.97 P_eff since this time. -/
  barred : Bool
  belowSince : Option Time
  /-- R594: above P_eff at the floors since; below P_eff since; the event has been raised. -/
  limitSince : Option Time
  limitClear : Option Time
  limitRaised : Bool
  /-- Last times of an exceeded P_eff and of a lowering for temperature (R608). -/
  lastOver : Option Time
  lastHeat : Option Time
  droops : Nat
  limitedUs : Nat
  deriving DecidableEq, Repr

/-- Energy attribution (R604 to R607). -/
structure Energy where
  /-- nJ attributed to jobs in each of the last 500 intervals, newest first (R606). -/
  shares : List (List (BitVec 16 × Nat))
  /-- nJ attributed to Control Engine jobs, and nJ drawn at PW, since power-up (R607). -/
  ceNj : Nat
  totalNj : Nat
  deriving DecidableEq, Repr

/-- The power domains, the governor and the phase of the module. -/
inductive Phase where
  /-- Below the turn-on threshold (R800, R801). -/
  | off
  /-- RESET_N is low: the state of step 1 (R728). -/
  | held
  /-- Neither firmware image starts (R764). -/
  | recovery
  /-- The Bureau runs. -/
  | up
  /-- Standby (R609). -/
  | standby
  /-- Every switchable domain off after R596 or R802; only the always-on set runs. -/
  | shut
  deriving DecidableEq, Repr

structure Power where
  phase : Phase
  /-- A WAKE edge that came while standby was being entered (R797), with what the tests of that exit find. -/
  wake : Option BootFindings
  doms : List DomState
  gov : Governor
  energy : Energy
  deriving DecidableEq, Repr

end Sys2Proof.Machine
end

