-- ==== Sys2Proof/Machine/State.lean ====
section
/-!
DEFINITION. The state of the block: every register, buffer, queue, counter, mode and pin that the manual gives
the GX9, and the queue of waiting commands. Also the two reasons a step can stop, and the state after reset.
-/

namespace Sys2Proof.Machine

/-- The device without its queue of waiting commands. -/
structure Device where
  clk : Clocks
  pow : Power
  mem : MemState
  hooks : HookArray
  bur : Bureau
  lect : Lectern
  /-- Units under periodic self-test (R674 to R679); an unlisted unit stands as after its last pass at READY. -/
  tests : List UnitTest
  /-- When READY was last set, and when the leak timer last started (R664). -/
  readyAt : Time
  leakAt : Time
  jobs : JobState
  /-- Physical tiles (R122, R123); an unlisted tile stands as `freshTile` gives it. -/
  tiles : Tbl TileState
  /-- Saved tiles of pre-empted jobs (R555), by job × 8,192 + physical tile. -/
  saved : Tbl TileState
  seq : SeqState
  ce : ControlState
  ports : PortState
  ing : IngestState
  eng : EngineState
  deriving DecidableEq, Repr

/-- The machine: the commands that wait, first in first out, and the device. -/
structure State where
  pending : List Instr
  dev : Device
  deriving DecidableEq, Repr

/-- No step of this block stops with a fault: every condition the manual calls a fault is state (a cause, an
event, a status). The type has no constructor, so a fault cannot arise: safe. -/
inductive Fault where
  deriving DecidableEq, Repr

/-- Reasons to refuse a command. -/
inductive Refusal where
  /-- Raised by `exec` alone, for a row whose meaning has not been written; safe, since nothing is then claimed
  about the row. -/
  | notModelled (mnemonic : String)
  deriving DecidableEq, Repr

/-! ### Reset values -/

def Clocks.reset : Clocks := { hub := 0, counters := [], phases := [], samples := [], hostUse := false, nonce := 0 }

/-- R629: every entry of an error log is EMPTY at reset. -/
def ErrEntry.empty : ErrEntry :=
  { line := 0, beat := 0, symA := 0x1F, symB := 0x1F, kind := 3, source := 0, patA := 0, patB := 0,
    syndrome := 0, time := 0, count := 0 }

def MemSet.reset : MemSet :=
  { ceCount := 0, ueCount := 0, ceDie := List.replicate 10 0, log := List.replicate 16 ErrEntry.empty,
    remap := List.replicate 16 none, erased := none, patrol := 0, demand := [], recent := [], remapFull := false,
    raised := [], excluded := false }

def MemState.reset : MemState :=
  { main := { cells := [], undef := [], poison := [] }, sets := List.replicate 4 MemSet.reset, cache := [],
    onChip := List.replicate 10 (0, 0), regions := [] }

/-- R656: the policy's reset values. -/
def Policy.reset : Policy :=
  { scrubHours := 4, bucketLimit := 3, leakS := 3600, hookGapUs := 100, tileDtiS := 3600, engineDtiS := 3600,
    wdMs := 10, safetyMiss := 1, controlMiss := 2, reactSafe := 0x001D }

/-- R687: NOT_READY is the one cause set at reset; R696: the safe state is held. -/
def Lectern.reset : Lectern :=
  { safe := true, changed := 0, pinA := false, pinB := false, causes := 1, firstStatus := 0, firstSource := 0, log := [],
    nextNumber := 0, inbox := [], tokens := [], table := [], digest := 0, policy := Policy.reset, wdSeq := 0,
    wdLast := none, mismatched := [], events := [], bootOk := true }

/-- R589: the limit record's reset values. -/
def Limits.reset : Limits :=
  { tjTarget := 100, pLimitW := 150, iLimitMa := 0, margin := 5, floors := [900, 900, 600, 300] }

def Governor.reset : Governor :=
  { limits := Limits.reset, weights := [], trim := 0, pEst := 0, history := [], pPeak := 0, vBatt := 0, iBatt := 0,
    sensors := [], excluded := [], caps := [], heat := List.replicate 3 ⟨false, none⟩, hotSince := [],
    overSince := none, barred := false, belowSince := none, limitSince := none, limitClear := none,
    limitRaised := false, lastOver := none, lastHeat := none, droops := 0, limitedUs := 0 }

def Power.reset : Power :=
  { phase := .off, wake := none, doms := List.replicate 68 .off, gov := Governor.reset,
    energy := { shares := [], ceNj := 0, totalNj := 0 } }

/-- R699 to R701: a Drawer at reset. -/
def Drawer.reset : Drawer :=
  { area := List.replicate 256 0, state := .idle, copy := [], status := 0, reply := [], long := [], heldUs := 0,
    heldAt := none, accepted := 0, going := false }

/-- R695 to R698: the window's registers at reset. -/
def Window.reset : Window :=
  { readAddr := 0, capture := none, readOver := true, sent := [], ready := false, outputsEnabled := false, standby := false, negotiated := false,
    minorNeg := 0xFF, step := 1, calFault := false, memFault := false, checkerFault := false,
    lecternFault := false, planFault := false, sigFault := false, lastStatus := 0, hostErrCount := 0,
    hostErrLast := .none, events := [], nextSeq := 1, overflow := false, lost := 0, ibi := [], ibiRetryAt := none,
    ibiEnabled := true }

/-- R795: a bridge at power-up. -/
def Bridge.reset : Bridge := { mode := 0, state := .idle, op := none, data := [] }

def I3c.reset : I3c :=
  { addrs := List.replicate 5 none, hdrDdr := false, protocolError := false,
    bridges := List.replicate 4 Bridge.reset, nack := false, answer := [] }

/-- The non-volatile store as manufactured (R644, R755, R761; log entry 12). -/
def NonVolatile.factory : NonVolatile :=
  { fwA := Config.factoryFw false, fwB := Config.factoryFw true, marked := false,
    calA := { seq := 1, complete := true, recs := [] }, calB := { seq := 0, complete := false, recs := [] },
    persistA := { seq := 1, complete := true, fences := [], remaps := List.replicate 4 (List.replicate 16 none),
                  erased := List.replicate 4 none },
    persistB := { seq := 0, complete := false, fences := [], remaps := [], erased := [] },
    eventLog := [], plans := [], keyHash := (List.range 4).map Config.keyHash, revoked := List.replicate 4 0,
    svnFuse := 0 }

def Bureau.reset : Bureau :=
  { win := Window.reset, drawers := List.replicate 64 Drawer.reset, queue := [], holds := [], bulk := [],
    i3c := I3c.reset, nv := NonVolatile.factory, fwBank := none, fwImage := [], recovery := [], persistDue := none, cleared := PersistCopy.empty }

def Partition.reset : Partition :=
  { record := none, active := none, epoch := 0, mode := none, boundary := none, next := none }

def JobState.reset : JobState :=
  { plans := [], nextHandle := 1, parts := List.replicate 8 Partition.reset, runs := [], fenced := [],
    clients := List.replicate 64 [0, 0, 0, 0, 0] }

/-- R788: a port record at reset. -/
def PortCounts.reset : PortCounts :=
  { packets := 0, hdrCorrected := 0, hdrDropped := 0, crcErrors := 0, unbound := 0, headerErrors := 0, shorts := 0,
    lastDt := 0, lastVc := 0, lastData := 0, lastTime := 0, discarded := 0, lanes := 0, phy := false,
    deskewed := false, setting := 0 }

def PortState.reset : PortState :=
  { ins := List.replicate 12 PortCounts.reset,
    outs := List.replicate 4 { counts := PortCounts.reset, queue := [], wire := [], active := false, rate := 0 },
    outBinds := [] }

def IngestState.reset : IngestState :=
  { streams := [], feedback := [], groups := [], queue := [], decoders := [none, none] }

def SeqState.reset : SeqState := { pages := [], streams := [], slots := [], steps := [], results := [], adapters := [] }

/-- Fusion with no job (R383, R387). -/
def FusionState.reset : FusionState :=
  { job := none, desc := none, running := false, last := 0, first := true, due := [], cycles := [], cycle := 0, closedTau := none, waiting := [], nextOrder := 0, sensors := [],
    ego := none, tracks := [], nextTrack := 1, pairs := [], measNext := 0, egoRecords := 0, trackLists := 0,
    counts := [], dropped := [], trackFull := 0 }

/-- The Shelf with no descriptor: one UNKNOWN root, version 1 (R401, R406). -/
def ShelfState.reset : ShelfState :=
  { desc := none, part := 0, current := { number := 1, tree := .leaf 0, patches := [] }, pins := [none, none],
    log := [], poison := [], queue := [], nextSlot := 0 }

def EngineState.reset : EngineState :=
  { fin := [], fus := FusionState.reset, shelf := ShelfState.reset, plan := [], solv := [], serving := [] }

/-- The device after reset: every register at the reset value of its table, no battery yet (R724, R800). -/
def Device.reset : Device :=
  { clk := Clocks.reset, pow := Power.reset, mem := MemState.reset,
    hooks := { hooks := [], alloc := [], flight := [] }, bur := Bureau.reset, lect := Lectern.reset, tests := [],
    readyAt := 0, leakAt := 0, jobs := JobState.reset, tiles := [], saved := [], seq := SeqState.reset,
    ce := { slots := [], solver := [], counts := [], failed := [] }, ports := PortState.reset, ing := IngestState.reset,
    eng := EngineState.reset }

/-- The machine right after reset: no command waits (log entry 14). -/
def State.reset : State := { pending := [], dev := Device.reset }

end Sys2Proof.Machine
end

