-- ==== Sys2Proof/Machine/Operands.lean ====
section
/-!
DEFINITION. The field maps of the records that commands, Plans and descriptors carry: one accessor per field, from
the bits of the manual's table. A record is an `Image`: its bytes read as one little-endian number (R4).
-/

namespace Sys2Proof.Machine

/-! ### Command header (R700) -/

def CmdHdr.fmtVer (x : Image) : Nat := fld x 3 0
def CmdHdr.opcode (x : Image) : Nat := fld x 23 8
def CmdHdr.seq (x : Image) : Nat := fld x 63 32
def CmdHdr.len (x : Image) : Nat := fld x 71 64
def CmdHdr.rsvd : List (Nat × Nat) := [(7, 4), (31, 24), (127, 72)]

/-! ### BULK_REF (R715) -/

def BulkRef.port (x : Image) : Nat := fld x 3 0
def BulkRef.vc (x : Image) : Nat := fld x 8 4
def BulkRef.tag (x : Image) : Nat := fld x 31 16
def BulkRef.seq (x : Image) : Nat := fld x 63 32
def BulkRef.length (x : Image) : Nat := fld x 111 64
def BulkRef.timeoutMs (x : Image) : Nat := fld x 127 112
def BulkRef.crc (x : Image) : Nat := fld x 159 128
def BulkRef.rsvd : List (Nat × Nat) := [(15, 9), (255, 160)]

/-! ### Plan container (R733, R734) -/

def PlanHdr.magic (x : Image) : Nat := fld x 31 0
def PlanHdr.fmtVer (x : Image) : Nat := fld x 35 32
def PlanHdr.keySlot (x : Image) : Nat := fld x 37 36
def PlanHdr.autoActivate (x : Image) : Bool := bitAt x 38
def PlanHdr.partMask (x : Image) : Nat := fld x 47 40
def PlanHdr.sections (x : Image) : Nat := fld x 63 48
def PlanHdr.totalLen (x : Image) : Nat := fld x 191 128
def PlanHdr.monitorDigest (x : Image) : Nat := fld x 255 192
def PlanHdr.rsvd : List (Nat × Nat) := [(39, 39), (511, 256)]

def SecEntry.type (x : Image) : Nat := fld x 15 0
def SecEntry.fmtVer (x : Image) : Nat := fld x 19 16
def SecEntry.offset (x : Image) : Nat := fld x 63 32
def SecEntry.length (x : Image) : Nat := fld x 95 64
def SecEntry.count (x : Image) : Nat := fld x 127 96
def SecEntry.rsvd : List (Nat × Nat) := [(31, 20)]

/-! ### Partition record (R560) -/

def PartRec.fmtVer (x : Image) : Nat := fld x 3 0
def PartRec.part (x : Image) : Nat := fld x 6 4
def PartRec.noFabric (x : Image) : Bool := bitAt x 7
def PartRec.gx0 (x : Image) : Nat := fld x 9 8
def PartRec.gx1 (x : Image) : Nat := fld x 11 10
def PartRec.gy0 (x : Image) : Nat := fld x 14 12
def PartRec.gy1 (x : Image) : Nat := fld x 17 15
def PartRec.setMask (x : Image) : Nat := fld x 27 24
def PartRec.wayMask (x : Image) : Nat := fld x 47 32
def PartRec.initEpoch (x : Image) : Nat := fld x 63 48
def PartRec.memGib (x : Image) : Nat := fld x 71 64
def PartRec.rsvd : List (Nat × Nat) := [(23, 18), (31, 28), (255, 72)]

/-- The number of memory sets of a mask. -/
def popCount (m n : Nat) : Nat := ((List.range n).filter fun i => bitAt m i).length

/-- R561: fabric group `g` belongs to the partition. -/
def PartRec.hasGroup (x : Image) (g : Nat) : Bool :=
  !PartRec.noFabric x && PartRec.gx0 x ≤ g % 4 && g % 4 ≤ PartRec.gx1 x
    && PartRec.gy0 x ≤ g / 4 && g / 4 ≤ PartRec.gy1 x

/-! ### Job and variant records (R535, R539) -/

def JobRec.fmtVer (x : Image) : Nat := fld x 3 0
def JobRec.cls (x : Image) : Nat := fld x 5 4
def JobRec.engine (x : Image) : Nat := fld x 8 6
def JobRec.part (x : Image) : Nat := fld x 11 9
def JobRec.trigger (x : Image) : Nat := fld x 13 12
def JobRec.pin (x : Image) : Nat := fld x 16 14
def JobRec.lockEn (x : Image) : Bool := bitAt x 17
def JobRec.autoStart (x : Image) : Bool := bitAt x 18
def JobRec.variants (x : Image) : Nat := fld x 21 19
def JobRec.client (x : Image) : Nat := fld x 29 24
def JobRec.jobId (x : Image) : Nat := fld x 47 32
def JobRec.descRef (x : Image) : Nat := fld x 63 48
def JobRec.periodUs (x : Image) : Nat := fld x 95 64
def JobRec.deadlineUs (x : Image) : Nat := fld x 127 96
def JobRec.triggerHook (x : Image) : Nat := fld x 143 128
def JobRec.resultHook (x : Image) : Nat := fld x 159 144
def JobRec.compRing (x : Image) : Nat := fld x 207 160
def JobRec.saveBase (x : Image) : Nat := fld x 255 208
def JobRec.rsvd : List (Nat × Nat) := [(23, 22), (31, 30), (511, 256)]
/-- Variant record `v` of a job record's image, header included. -/
def JobRec.variant (x : Image) (v : Nat) : Image := fld x (511 + 256 * (v + 1)) (512 + 256 * v)

def VarRec.programRef (x : Image) : Nat := fld x 15 0
def VarRec.tiles (x : Image) : Nat := fld x 28 16
def VarRec.energyUj (x : Image) : Nat := fld x 63 32
def VarRec.cycles (x : Image) : Nat := fld x 95 64
def VarRec.rsvd : List (Nat × Nat) := [(31, 29), (255, 96)]

/-! ### Records of chapter 17 (R738 to R742) -/

def ProgSet.tiles (x : Image) : Nat := fld x 15 0
def ProgSet.imageBase (x : Image) : Nat := fld x 79 32
def ProgSet.rsvd : List (Nat × Nat) := [(31, 16), (255, 80)]
/-- A program-set entry (R738). -/
def ProgEntry.tile (x : Image) : Nat := fld x 15 0
def ProgEntry.initWords (x : Image) : Nat := fld x 31 16
def ProgEntry.commands (x : Image) : Nat := fld x 63 32
def ProgEntry.codeOff (x : Image) : Nat := fld x 95 64
def ProgEntry.initOff (x : Image) : Nat := fld x 127 96

def TensorRec.format (x : Image) : Nat := fld x 3 0
def TensorRec.home (x : Image) : Nat := fld x 4 4
def TensorRec.part (x : Image) : Nat := fld x 10 8
def TensorRec.h (x : Image) : Nat := fld x 31 16
def TensorRec.w (x : Image) : Nat := fld x 47 32
def TensorRec.c (x : Image) : Nat := fld x 63 48
def TensorRec.viewAddr (x : Image) : Nat := fld x 111 64
def TensorRec.bytes (x : Image) : Nat := fld x 143 112
def TensorRec.rsvd : List (Nat × Nat) := [(7, 5), (15, 11), (255, 144)]

def HookRec.hook (x : Image) : Nat := fld x 15 0
def HookRec.shared (x : Image) : Bool := bitAt x 16
def HookRec.init (x : Image) : Nat := fld x 55 32
def HookRec.jobId (x : Image) : Nat := fld x 79 64
def HookRec.rsvd : List (Nat × Nat) := [(31, 17), (63, 56), (127, 80)]

def HaloRec.fmtVer (x : Image) : Nat := fld x 3 0
def HaloRec.h (x : Image) : Nat := fld x 15 8
def HaloRec.jobId (x : Image) : Nat := fld x 31 16
def HaloRec.producer (x : Image) : Nat := fld x 47 32
def HaloRec.consumer (x : Image) : Nat := fld x 63 48
def HaloRec.dataHook (x : Image) : Nat := fld x 79 64
def HaloRec.creditHook (x : Image) : Nat := fld x 95 80
def HaloRec.base (x : Image) : Nat := fld x 107 96
def HaloRec.rowWords (x : Image) : Nat := fld x 127 112
def HaloRec.rsvd : List (Nat × Nat) := [(7, 4), (111, 108), (255, 128)]

def DestRec.fmtVer (x : Image) : Nat := fld x 3 0
def DestRec.kind (x : Image) : Nat := fld x 5 4
def DestRec.slots (x : Image) : Nat := fld x 15 8
def DestRec.jobId (x : Image) : Nat := fld x 31 16
def DestRec.descHook (x : Image) : Nat := fld x 47 32
def DestRec.freeHook (x : Image) : Nat := fld x 63 48
def DestRec.slotBytes (x : Image) : Nat := fld x 95 64
def DestRec.programRef (x : Image) : Nat := fld x 111 96
def DestRec.storeAddr (x : Image) : Nat := fld x 123 112
def DestRec.slotBase (x : Image) : Nat := fld x 175 128
def DestRec.slotStride (x : Image) : Nat := fld x 207 176
def DestRec.recRing (x : Image) : Nat := fld x 255 208
def DestRec.augRing (x : Image) : Nat := fld x 303 256
def DestRec.augRecords (x : Image) : Nat := fld x 319 304
def DestRec.rsvd : List (Nat × Nat) := [(7, 6), (127, 124), (511, 320)]

def SlotRec.slot (x : Image) : Nat := fld x 11 0
def SlotRec.jobId (x : Image) : Nat := fld x 31 16
def SlotRec.home (x : Image) : Nat := fld x 79 32
def SlotRec.rsvd : List (Nat × Nat) := [(15, 12), (127, 80)]

def PoolRec.part (x : Image) : Nat := fld x 2 0
def PoolRec.pages (x : Image) : Nat := fld x 63 32
def PoolRec.base (x : Image) : Nat := fld x 111 64
def PoolRec.jobId (x : Image) : Nat := fld x 143 128
def PoolRec.stepList (x : Image) : Nat := fld x 191 144
def PoolRec.rsvd : List (Nat × Nat) := [(31, 3), (127, 112), (255, 192)]
/-- Size of the largest KV page (R208, R742). -/
def pageStride : Nat := 270336

/-! ### Tile commands and DMA descriptors (R131, R142 to R157, R166) -/

def Cmd.op (x : Image) : Nat := fld x 7 0
def Cmd.fmtVer (x : Image) : Nat := fld x 11 8
def Cmd.step (x : Image) : Bool := bitAt x 12
def LoadW.wAddr (x : Image) : Nat := fld x 27 16 * 32
def LoadW.sAddr (x : Image) : Nat := fld x 39 28 * 32
def LoadW.wfmt (x : Image) : Nat := fld x 43 40
def Pass.close (x : Image) : Bool := bitAt x 16
def Pass.dir (x : Image) : Bool := bitAt x 17
def Pass.wfmt (x : Image) : Nat := fld x 21 18
def Pass.afmt (x : Image) : Nat := fld x 25 22
def Pass.n (x : Image) : Nat := fld x 31 26
def Pass.skipT (x : Image) : Nat := fld x 39 32
def Pass.aAddr (x : Image) : Nat := fld x 52 40 * 16
def Pass.aStride (x : Image) : Nat := fld x 60 53 * 16
def Pass.aScale (x : Image) : Nat := fld x 77 61
def Pass.wScale (x : Image) : Nat := fld x 88 78 * 64
def Gate.src (x : Image) : Bool := bitAt x 16
def Gate.initMs (x : Image) : Bool := bitAt x 17
def Gate.toSend (x : Image) : Bool := bitAt x 18
def Gate.sr (x : Image) : Bool := bitAt x 19
def Gate.outFmt (x : Image) : Nat := fld x 23 20
def Gate.inFmt (x : Image) : Nat := fld x 27 24
def Gate.opA (x : Image) : Nat := fld x 39 28 * 32
def Gate.opB (x : Image) : Nat := fld x 51 40 * 32
def Gate.out (x : Image) : Nat := fld x 63 52 * 32
def Gate.beats (x : Image) : Nat := fld x 75 64
/-- Operation slot `i`: (OP, P, Q). -/
def Gate.slot (x : Image) (i : Nat) : Nat × Nat × Nat :=
  let v := fld x (88 + 13 * i) (76 + 13 * i)
  (fld v 4 0, fld v 8 5, fld v 12 9)
def Send.srcAddr (x : Image) : Nat := fld x 27 16 * 32
def Send.srcQ (x : Image) : Bool := bitAt x 28
def Send.dest (x : Image) : Nat := fld x 47 32
def Send.destAddr (x : Image) : Nat := fld x 59 48 * 32
def Send.words (x : Image) : Nat := fld x 72 60
def Send.hook (x : Image) : Nat := fld x 88 73
def Send.count (x : Image) : Nat := fld x 96 89
def Dma.desc (x : Image) : Nat := fld x 27 16 * 32
def Dma.tileAddr (x : Image) : Nat := fld x 39 28 * 32
def Dma.hook (x : Image) : Nat := fld x 55 40
def Dma.count (x : Image) : Nat := fld x 63 56
def HookCmd.hook (x : Image) : Nat := fld x 31 16
def HookCmd.count (x : Image) : Nat := fld x 55 32
def HookCmd.units (x : Image) : Nat := fld x 59 56
def HookCmd.isTry (x : Image) : Bool := bitAt x 60
def HookCmd.resultAddr (x : Image) : Nat := fld x 72 61 * 32
def LoopCmd.count (x : Image) : Nat := fld x 31 16
def LoopCmd.len (x : Image) : Nat := fld x 40 32
def LoopCmd.stride (x : Image) : Int := sfld x 58 41
def Branch.cond (x : Image) : Bool := bitAt x 16
def Branch.epoch (x : Image) : Nat := fld x 47 32
def Branch.target (x : Image) : Nat := fld x 63 48
def EndCmd.hook (x : Image) : Nat := fld x 31 16
def EndCmd.count (x : Image) : Nat := fld x 39 32

/-- Reserved fields of each command (R131, R142 to R157). -/
def Cmd.rsvd (x : Image) : List (Nat × Nat) :=
  (15, 13) :: match Cmd.op x with
    | 0x01 => [(127, 44)]
    | 0x02 => [(127, 89)]
    | 0x04 => [(31, 29), (127, 97)]
    | 0x05 | 0x06 => [(127, 64)]
    | 0x07 => [(127, 73)]
    | 0x08 => [(127, 60)]
    | 0x09 => [(127, 59)]
    | 0x0A => [(31, 17), (127, 64)]
    | 0x0F => [(127, 40)]
    | _ => []

def DmaDesc.memAddr (x : Image) : Nat := fld x 47 0
def DmaDesc.format (x : Image) : Nat := fld x 51 48
def DmaDesc.plane (x : Image) : Nat := fld x 52 52
def DmaDesc.cache (x : Image) : Nat := fld x 54 53
def DmaDesc.rowBytes (x : Image) : Nat := fld x 79 64
def DmaDesc.rows (x : Image) : Nat := fld x 95 80
def DmaDesc.memStride (x : Image) : Nat := fld x 127 96
def DmaDesc.tileStride (x : Image) : Nat := fld x 143 128
def DmaDesc.loopStride (x : Image) : Int := sfld x 175 144
def DmaDesc.rsvd : List (Nat × Nat) := [(63, 55), (255, 176)]

/-! ### Ingest descriptors (R260, R278, R293, R308) -/

def StreamDesc.fmtVer (x : Image) : Nat := fld x 3 0
def StreamDesc.port (x : Image) : Nat := fld x 11 8
def StreamDesc.vc (x : Image) : Nat := fld x 20 16
def StreamDesc.dt (x : Image) : Nat := fld x 29 24
def StreamDesc.tag (x : Image) : Nat := fld x 47 32
def StreamDesc.decoder (x : Image) : Nat := fld x 51 48
def StreamDesc.cfa (x : Image) : Nat := fld x 54 52
def StreamDesc.roiSrc (x : Image) : Nat := fld x 57 56
def StreamDesc.roiHold (x : Image) : Nat := fld x 61 58
def StreamDesc.augEn (x : Image) : Bool := bitAt x 62
def StreamDesc.testLines (x : Image) : Bool := bitAt x 63
def StreamDesc.srcWidth (x : Image) : Nat := fld x 79 64
def StreamDesc.srcHeight (x : Image) : Nat := fld x 95 80
def StreamDesc.maxPoints (x : Image) : Nat := fld x 119 96
def StreamDesc.maxBytes (x : Image) : Nat := fld x 159 128
def StreamDesc.workMax (x : Image) : Nat := fld x 191 160
def StreamDesc.capMult (x : Image) : Nat := fld x 195 192
def StreamDesc.s2d (x : Image) : Nat := 2 ^ fld x 197 196
def StreamDesc.outFmt (x : Image) : Nat := fld x 203 200
def StreamDesc.grouped (x : Image) : Bool := bitAt x 204
def StreamDesc.group (x : Image) : Nat := fld x 207 205
def StreamDesc.member (x : Image) : Nat := fld x 210 208
def StreamDesc.outWidth (x : Image) : Nat := fld x 239 224
def StreamDesc.outHeight (x : Image) : Nat := fld x 255 240
def StreamDesc.roiMaxW (x : Image) : Nat := fld x 271 256
def StreamDesc.roiMaxH (x : Image) : Nat := fld x 287 272
def StreamDesc.batch (x : Image) : Nat := fld x 303 288
def StreamDesc.batchWindow (x : Image) : Nat := fld x 319 304
def StreamDesc.destRef (x : Image) : Nat := fld x 335 320
/-- MEAN and INV_STD of channel `c` as FP32 (BF16 widened exactly). -/
def StreamDesc.mean (x : Image) (c : Nat) : F32 := BitVec.ofNat 32 (fld x (367 + 16 * c) (352 + 16 * c) * 65536)
def StreamDesc.invStd (x : Image) (c : Nat) : F32 := BitVec.ofNat 32 (fld x (431 + 16 * c) (416 + 16 * c) * 65536)
def StreamDesc.int8Scale (x : Image) : F32 := BitVec.ofNat 32 (fld x 511 480)
def StreamDesc.rsvd : List (Nat × Nat) :=
  [(7, 4), (15, 12), (23, 21), (31, 30), (55, 55), (127, 120), (199, 198), (223, 211), (351, 336), (639, 512)]

def AugRec.seq (x : Image) : Nat := fld x 31 0
def AugRec.tag (x : Image) : Nat := fld x 47 32
def AugRec.rot (x : Image) : Nat := fld x 49 48
def AugRec.hflip (x : Image) : Bool := bitAt x 50
def AugRec.vflip (x : Image) : Bool := bitAt x 51
def AugRec.jitX (x : Image) : Int := sfld x 79 64
def AugRec.jitY (x : Image) : Int := sfld x 95 80
def AugRec.gain (x : Image) (c : Nat) : F32 :=
  if c < 3 then BitVec.ofNat 32 (fld x (143 + 16 * c) (128 + 16 * c) * 65536) else 0x3F800000
def AugRec.offset (x : Image) (c : Nat) : F32 :=
  if c < 3 then BitVec.ofNat 32 (fld x (191 + 16 * c) (176 + 16 * c) * 65536) else 0
def AugRec.rsvd : List (Nat × Nat) := [(63, 52), (127, 96), (255, 224)]

def GroupRec.fmtVer (x : Image) : Nat := fld x 3 0
def GroupRec.group (x : Image) : Nat := fld x 6 4
def GroupRec.members (x : Image) : Nat := fld x 15 8
def GroupRec.refPort (x : Image) : Nat := fld x 19 16
def GroupRec.window (x : Image) : Nat := fld x 47 32
def GroupRec.hook (x : Image) : Nat := fld x 63 48
def GroupRec.ring (x : Image) : Nat := fld x 111 64
def GroupRec.rsvd : List (Nat × Nat) := [(7, 7), (31, 20), (127, 112)]

/-! ### Stream header (R783) -/

def StrHdr.tag (x : Image) : Nat := fld x 11 0
def StrHdr.kind (x : Image) : Nat := fld x 23 16
def StrHdr.isPartial (x : Image) : Bool := bitAt x 26
def StrHdr.seq (x : Image) : Nat := fld x 63 32
def StrHdr.rsvd : List (Nat × Nat) := [(15, 12), (31, 27)]

/-! ### Control Engine slot descriptor (R503, R504, R510, R524) -/

def CeDesc.fmtVer (x : Image) : Nat := fld x 3 0
def CeDesc.slot (x : Image) : Nat := fld x 15 8
def CeDesc.n (x : Image) : Nat := fld x 20 16
def CeDesc.p (x : Image) : Nat := fld x 25 21
def CeDesc.m (x : Image) : Nat := fld x 30 26
def CeDesc.q (x : Image) : Nat := fld x 35 32
def CeDesc.r (x : Image) : Nat := fld x 39 36
def CeDesc.sigFrac (x : Image) : Nat := fld x 44 40
def CeDesc.coefFrac (x : Image) : Nat := fld x 49 45
def CeDesc.plausM (x : Image) : Nat := fld x 63 56
def CeDesc.pin (x : Image) : Nat := fld x 66 64
def CeDesc.lockEn (x : Image) : Bool := bitAt x 67
def CeDesc.maxMiss (x : Image) : Nat := fld x 75 68
def CeDesc.period (x : Image) : Nat := fld x 127 96
def CeDesc.latchPhase (x : Image) : Nat := fld x 159 128
def CeDesc.outPhase (x : Image) : Nat := fld x 191 160
def CeDesc.outStream (x : Image) : Nat := fld x 207 192
def CeDesc.outChannel (x : Image) : Nat := fld x 223 208
def CeDesc.jobId (x : Image) : Nat := fld x 239 224
def CeDesc.rsvd : List (Nat × Nat) := [(7, 4), (31, 31), (55, 50), (95, 76), (511, 240)]
/-- INPUT_MAP entry `i`. -/
def CeDesc.input (x : Image) (i : Nat) : Image := fld x (575 + 64 * i) (512 + 64 * i)
/-- MONITOR_MAP entry `i`. -/
def CeDesc.monitor (x : Image) (i : Nat) : Image :=
  fld x (575 + 64 * (CeDesc.p x + i)) (512 + 64 * (CeDesc.p x + i))
/-- The int32 element `i` of the arrays after the two maps (R504). -/
def CeDesc.word (x : Image) (i : Nat) : Int :=
  let b := 512 + 64 * (CeDesc.p x + CeDesc.r x) + 32 * i
  sfld x (b + 31) b
/-- Elements before each array of R504: SAFE_OUT, INIT_STATE, A, B, C, D, F, G, H, J, end. -/
def CeDesc.starts (x : Image) : List Nat :=
  let n := CeDesc.n x; let p := CeDesc.p x; let m := CeDesc.m x; let q := CeDesc.q x; let r := CeDesc.r x
  ([m, n, n * n, n * p, m * n, m * p, q * q, q * m, r * q, r * m].foldl
    (fun (a : List Nat × Nat) k => (a.1 ++ [a.2 + k], a.2 + k)) ([0], 0)).1
/-- Element (i, j) of array `k` whose rows have `w` elements. -/
def CeDesc.coef (x : Image) (k w i j : Nat) : Int := CeDesc.word x (nth (CeDesc.starts x) k 0 + i * w + j)
/-- Bytes of the descriptor before its padding. -/
def CeDesc.size (x : Image) : Nat := 64 + 8 * (CeDesc.p x + CeDesc.r x) + 4 * nth (CeDesc.starts x) 10 0

def InMap.src (x : Image) : Nat := fld x 1 0
def InMap.source (x : Image) : Nat := fld x 23 8
def InMap.index (x : Image) : Nat := fld x 47 32
def InMap.valueSel (x : Image) : Nat := fld x 49 48
def InMap.inFrac (x : Image) : Nat := fld x 54 50
def InMap.acceptBest (x : Image) : Bool := bitAt x 55
def InMap.const (x : Image) : Int := sfld x 63 32
def MonMap.input (x : Image) : Nat := fld x 3 0
def MonMap.bound (x : Image) : Int := sfld x 63 32

/-- `n` FP32 values from bit `lo` on. -/
def f32s (x : Image) (lo n : Nat) : List F32 :=
  (List.range n).map fun i => BitVec.ofNat 32 (fld x (lo + 32 * i + 31) (lo + 32 * i))

/-! ### Operator descriptor (R315) -/

def OpDesc.fmtVer (x : Image) : Nat := fld x 3 0
def OpDesc.op (x : Image) : Nat := fld x 11 8
def OpDesc.border (x : Image) : Nat := fld x 13 12
def OpDesc.packTaps (x : Image) : Bool := bitAt x 14
def OpDesc.biasEn (x : Image) : Bool := bitAt x 15
def OpDesc.kh (x : Image) : Nat := fld x 19 16
def OpDesc.kw (x : Image) : Nat := fld x 23 20
def OpDesc.sh (x : Image) : Nat := fld x 31 24
def OpDesc.sw (x : Image) : Nat := fld x 39 32
def OpDesc.dh (x : Image) : Nat := fld x 47 40
def OpDesc.dw (x : Image) : Nat := fld x 55 48
def OpDesc.skipT (x : Image) : Nat := fld x 63 56
def OpDesc.padT (x : Image) : Nat := fld x 71 64
def OpDesc.padB (x : Image) : Nat := fld x 79 72
def OpDesc.padL (x : Image) : Nat := fld x 87 80
def OpDesc.padR (x : Image) : Nat := fld x 95 88
def OpDesc.groups (x : Image) : Nat := fld x 111 96
def OpDesc.cIn (x : Image) : Nat := fld x 127 112
def OpDesc.cOut (x : Image) : Nat := fld x 143 128
def OpDesc.inH (x : Image) : Nat := fld x 159 144
def OpDesc.inW (x : Image) : Nat := fld x 175 160
def OpDesc.wfmt (x : Image) : Nat := fld x 179 176
def OpDesc.afmt (x : Image) : Nat := fld x 183 180
def OpDesc.outFmt (x : Image) : Nat := fld x 187 184
def OpDesc.act (x : Image) : Nat := fld x 190 188
def OpDesc.avgValid (x : Image) : Bool := bitAt x 191
def OpDesc.borderValue (x : Image) : F32 := BitVec.ofNat 32 (fld x 223 192)
def OpDesc.outPadH (x : Image) : Nat := fld x 231 224
def OpDesc.outPadW (x : Image) : Nat := fld x 239 232
def OpDesc.inRef (x : Image) : Nat := fld x 255 240
def OpDesc.outRef (x : Image) : Nat := fld x 271 256
def OpDesc.wRef (x : Image) : Nat := fld x 287 272
def OpDesc.biasRef (x : Image) : Nat := fld x 303 288
def OpDesc.rsvd : List (Nat × Nat) := [(7, 4), (319, 304)]

/-! ### Finisher records (R336, R337, R339) -/

def FinDesc.fmtVer (x : Image) : Nat := fld x 3 0
def FinDesc.decode (x : Image) : Nat := fld x 5 4
def FinDesc.objEn (x : Image) : Bool := bitAt x 6
def FinDesc.multiLabel (x : Image) : Bool := bitAt x 7
def FinDesc.scoreFn (x : Image) : Nat := fld x 9 8
def FinDesc.clip (x : Image) : Bool := bitAt x 10
def FinDesc.levels (x : Image) : Nat := fld x 19 16
def FinDesc.inFmt (x : Image) : Nat := fld x 23 20
def FinDesc.ncls (x : Image) : Nat := fld x 47 32
def FinDesc.maxOut (x : Image) : Nat := fld x 63 48
def FinDesc.maxCand (x : Image) : Nat := fld x 95 64
def FinDesc.scoreT (x : Image) : F32 := BitVec.ofNat 32 (fld x 127 96)
def FinDesc.iouT (x : Image) : F32 := BitVec.ofNat 32 (fld x 159 128)
def FinDesc.varXy (x : Image) : F32 := BitVec.ofNat 32 (fld x 191 160)
def FinDesc.varWh (x : Image) : F32 := BitVec.ofNat 32 (fld x 223 192)
def FinDesc.clampWh (x : Image) : F32 := BitVec.ofNat 32 (fld x 255 224)
def FinDesc.imgW (x : Image) : Nat := fld x 271 256
def FinDesc.imgH (x : Image) : Nat := fld x 287 272
def FinDesc.outRef (x : Image) : Nat := fld x 303 288
def FinDesc.doneHook (x : Image) : Nat := fld x 319 304
def FinDesc.roiStream (x : Image) : Nat := fld x 335 320
def FinDesc.roiMargin (x : Image) : Nat := fld x 351 336
def FinDesc.roiMinScore (x : Image) : F32 := BitVec.ofNat 32 (fld x 383 352)
def FinDesc.roiScaleX (x : Image) : F32 := BitVec.ofNat 32 (fld x 415 384)
def FinDesc.roiScaleY (x : Image) : F32 := BitVec.ofNat 32 (fld x 447 416)
def FinDesc.inHook (x : Image) : Nat := fld x 463 448
def FinDesc.rsvd : List (Nat × Nat) := [(15, 11), (31, 24), (511, 464)]
/-- Level record `l` of a Finisher record. -/
def FinDesc.level (x : Image) (l : Nat) : Image := fld x (639 + 128 * l) (512 + 128 * l)
/-- Anchor-table entry `i`: width and height. -/
def FinDesc.anchor (x : Image) (i : Nat) : F32 × F32 :=
  let lo := 512 + 128 * FinDesc.levels x + 64 * i
  (BitVec.ofNat 32 (fld x (lo + 31) lo), BitVec.ofNat 32 (fld x (lo + 63) (lo + 32)))
def LevelRec.gridW (x : Image) : Nat := fld x 15 0
def LevelRec.gridH (x : Image) : Nat := fld x 31 16
def LevelRec.stride (x : Image) : Nat := fld x 39 32
def LevelRec.anchors (x : Image) : Nat := fld x 44 40
def LevelRec.inRef (x : Image) : Nat := fld x 63 48
def LevelRec.anchorBase (x : Image) : Nat := fld x 79 64
def LevelRec.rsvd : List (Nat × Nat) := [(47, 45), (127, 80)]

/-! ### Fusion records (R360, R364, R366, R369) -/

def SensRec.id (x : Image) : Nat := fld x 15 0
def SensRec.tag (x : Image) : Nat := fld x 31 16
def SensRec.kind (x : Image) : Nat := fld x 35 32
def SensRec.qgroup (x : Image) : Nat := fld x 39 36
def SensRec.latency (x : Image) : Nat := fld x 95 64
def SensRec.gate (x : Image) : F32 := BitVec.ofNat 32 (fld x 127 96)
def SensRec.rot (x : Image) : List F32 := f32s x 128 4
def SensRec.trans (x : Image) : List F32 := f32s x 256 3
def SensRec.noise (x : Image) : List F32 := f32s x 352 4
def SensRec.intrinsics (x : Image) : List F32 := f32s x 480 4
def SensRec.rsvd : List (Nat × Nat) := [(63, 40), (639, 608)]
def InertRec.sensor (x : Image) : Nat := fld x 15 0
def InertRec.age (x : Image) : Nat := fld x 63 32
def InertRec.a (x : Image) : List F32 := f32s x 64 3
def InertRec.b (x : Image) : List F32 := f32s x 160 3
def MeasRec.sensor (x : Image) : Nat := fld x 15 0
def MeasRec.cls (x : Image) : Nat := fld x 31 16
def MeasRec.domain (x : Image) : Nat := fld x 39 32
def MeasRec.time (x : Image) : Nat := fld x 95 48
def MeasRec.pos (x : Image) : List F32 := f32s x 128 3
def MeasRec.size (x : Image) : List F32 := f32s x 224 3
def MeasRec.sigma (x : Image) : List F32 := f32s x 320 3
def MeasRec.rsvd : List (Nat × Nat) := [(47, 40), (127, 96), (511, 416)]
def FusDesc.fmtVer (x : Image) : Nat := fld x 3 0
def FusDesc.pin (x : Image) : Nat := fld x 10 8
def FusDesc.lockEn (x : Image) : Bool := bitAt x 11
def FusDesc.nConflict0 (x : Image) : Nat := fld x 23 16
def FusDesc.confirm0 (x : Image) : Nat := fld x 31 24
def FusDesc.period (x : Image) : Nat := fld x 63 32
def FusDesc.hold (x : Image) : Nat := fld x 79 64
def FusDesc.emitDelay (x : Image) : Nat := fld x 95 80
def FusDesc.coWin (x : Image) : Nat := fld x 111 96
def FusDesc.missTime (x : Image) : Nat := fld x 127 112
def FusDesc.accelNoise (x : Image) : F32 := BitVec.ofNat 32 (fld x 159 128)
def FusDesc.egoStream (x : Image) : Nat := fld x 175 160
def FusDesc.trackStream (x : Image) : Nat := fld x 191 176
def FusDesc.egoHook (x : Image) : Nat := fld x 207 192
def FusDesc.trackHook (x : Image) : Nat := fld x 223 208
def FusDesc.measHook (x : Image) : Nat := fld x 239 224
def FusDesc.roiMargin (x : Image) : Nat := fld x 255 240
def FusDesc.egoRing (x : Image) : Nat := fld x 303 256
def FusDesc.trackRing (x : Image) : Nat := fld x 351 304
def FusDesc.measRing (x : Image) : Nat := fld x 399 352
def FusDesc.measRecords (x : Image) : Nat := fld x 415 400
/-- 0 selects 5 conflicting cycles and 3 confirming updates. -/
def FusDesc.nConflict (x : Image) : Nat := if FusDesc.nConflict0 x = 0 then 5 else FusDesc.nConflict0 x
def FusDesc.confirm (x : Image) : Nat := if FusDesc.confirm0 x = 0 then 3 else FusDesc.confirm0 x
def FusDesc.rsvd : List (Nat × Nat) := [(7, 4), (15, 12), (511, 416)]

/-! ### Shelf records (R399, R404, R408, R409) -/

def ShelfDesc.fmtVer (x : Image) : Nat := fld x 3 0
def ShelfDesc.depth (x : Image) : Nat := fld x 8 4
def ShelfDesc.shelves (x : Image) : Nat := fld x 15 12
def ShelfDesc.leafMm (x : Image) : Nat := fld x 31 16
def ShelfDesc.origin (x : Image) : List F32 := f32s x 32 3
def ShelfDesc.updateHook (x : Image) : Nat := fld x 143 128
def ShelfDesc.doneHook (x : Image) : Nat := fld x 159 144
def ShelfDesc.slots (x : Image) : Nat := fld x 167 160
def ShelfDesc.ring (x : Image) : Nat := fld x 223 176
def ShelfDesc.slotKib (x : Image) : Nat := fld x 239 224
def ShelfDesc.rsvd : List (Nat × Nat) := [(11, 9), (175, 168), (255, 240)]
/-- Shelf record `k`. -/
def ShelfDesc.shelf (x : Image) (k : Nat) : Image := fld x (511 + 256 * k) (256 + 256 * k)
def ShelfRec.cellMm (x : Image) : Nat := fld x 15 0
def ShelfRec.originX (x : Image) : F32 := BitVec.ofNat 32 (fld x 63 32)
def ShelfRec.originY (x : Image) : F32 := BitVec.ofNat 32 (fld x 95 64)
def ShelfRec.zmin (x : Image) : F32 := BitVec.ofNat 32 (fld x 127 96)
def ShelfRec.zmax (x : Image) : F32 := BitVec.ofNat 32 (fld x 159 128)
def ShelfRec.rsvd : List (Nat × Nat) := [(31, 16), (255, 160)]
def MapHdr.fmtVer (x : Image) : Nat := fld x 3 0
def MapHdr.records (x : Image) : Nat := fld x 47 32
def MapHdr.patches (x : Image) : Nat := fld x 63 48
def MapHdr.rsvd : List (Nat × Nat) := [(15, 4), (255, 96)]
def MapRec.kind (x : Image) : Nat := fld x 3 0
def MapRec.shelf (x : Image) : Nat := fld x 6 4
def MapRec.state (x : Image) : Nat := fld x 9 8
def MapRec.level (x : Image) : Nat := fld x 20 16
def MapRec.cost (x : Image) : Nat := fld x 31 24
def MapRec.x0 (x : Image) : Nat := fld x 79 64
def MapRec.y0 (x : Image) : Nat := fld x 95 80
def MapRec.z0 (x : Image) : Nat := fld x 111 96
def MapRec.x1 (x : Image) : Nat := fld x 127 112
def MapRec.y1 (x : Image) : Nat := fld x 143 128
def MapRec.z1 (x : Image) : Nat := fld x 159 144
def MapRec.payload (x : Image) : Nat := fld x 175 160
def MapRec.rsvd : List (Nat × Nat) := [(7, 7), (15, 10), (23, 21), (63, 32), (255, 176)]

/-! ### Robot model and Planner records (R419, R420, R429, R432) -/

def RobotHdr.fmtVer (x : Image) : Nat := fld x 3 0
def RobotHdr.dof (x : Image) : Nat := fld x 15 8
def RobotHdr.bodies (x : Image) : Nat := fld x 31 16
def RobotHdr.rsvd : List (Nat × Nat) := [(7, 4), (127, 32)]
/-- Joint record `j` and body record `b` of a robot model. -/
def Robot.joint (x : Image) (j : Nat) : Image := fld x (639 + 512 * j) (128 + 512 * j)
def Robot.body (x : Image) (b : Nat) : Image :=
  let lo := 128 + 512 * RobotHdr.dof x + 256 * b
  fld x (lo + 255) lo
def JointRec.parent (x : Image) : Nat := fld x 7 0
def JointRec.type (x : Image) : Nat := fld x 9 8
def JointRec.origin (x : Image) : List F32 := f32s x 32 3
def JointRec.rot (x : Image) : List F32 := f32s x 128 4
def JointRec.axis (x : Image) : List F32 := f32s x 256 3
def JointRec.lo (x : Image) : F32 := BitVec.ofNat 32 (fld x 383 352)
def JointRec.hi (x : Image) : F32 := BitVec.ofNat 32 (fld x 415 384)
def JointRec.vmax (x : Image) : F32 := BitVec.ofNat 32 (fld x 447 416)
def JointRec.amax (x : Image) : F32 := BitVec.ofNat 32 (fld x 479 448)
def JointRec.rsvd : List (Nat × Nat) := [(31, 10), (511, 480)]
def BodyRec.link (x : Image) : Nat := fld x 7 0
def BodyRec.group (x : Image) : Nat := fld x 11 8
def BodyRec.p0 (x : Image) : List F32 := f32s x 32 3
def BodyRec.p1 (x : Image) : List F32 := f32s x 128 3
def BodyRec.radius (x : Image) : F32 := BitVec.ofNat 32 (fld x 255 224)
def BodyRec.rsvd : List (Nat × Nat) := [(31, 12)]
def PlanDesc.fmtVer (x : Image) : Nat := fld x 3 0
def PlanDesc.mode (x : Image) : Nat := fld x 5 4
def PlanDesc.unknownFree (x : Image) : Bool := bitAt x 6
def PlanDesc.rounds0 (x : Image) : Nat := fld x 11 8
def PlanDesc.kNeigh0 (x : Image) : Nat := fld x 15 12
def PlanDesc.modelRef (x : Image) : Nat := fld x 31 16
def PlanDesc.maxNodes (x : Image) : Nat := fld x 47 32
def PlanDesc.goalBias (x : Image) : Nat := fld x 55 48
def PlanDesc.waypoints (x : Image) : Nat := fld x 63 56
def PlanDesc.seed (x : Image) : Nat := fld x 95 64
def PlanDesc.step (x : Image) : F32 := BitVec.ofNat 32 (fld x 127 96)
def PlanDesc.sweepTol (x : Image) : F32 := BitVec.ofNat 32 (fld x 159 128)
def PlanDesc.wSmooth (x : Image) : F32 := BitVec.ofNat 32 (fld x 191 160)
def PlanDesc.wColl (x : Image) : F32 := BitVec.ofNat 32 (fld x 223 192)
def PlanDesc.optIters (x : Image) : Nat := fld x 367 352
def PlanDesc.queryHook (x : Image) : Nat := fld x 383 368
def PlanDesc.outHook (x : Image) : Nat := fld x 399 384
def PlanDesc.outStream (x : Image) : Nat := fld x 415 400
def PlanDesc.budget (x : Image) : Nat := fld x 447 416
def PlanDesc.queryRing (x : Image) : Nat := fld x 495 448
def PlanDesc.outRing (x : Image) : Nat := fld x 543 496
def PlanDesc.queryRecords (x : Image) : Nat := fld x 559 544
def PlanDesc.rounds (x : Image) : Nat := if PlanDesc.rounds0 x = 0 then 2 else PlanDesc.rounds0 x
def PlanDesc.kNeigh (x : Image) : Nat := if PlanDesc.kNeigh0 x = 0 then 8 else PlanDesc.kNeigh0 x
/-- W_SHELF of shelf `k`, widened to FP32. -/
def PlanDesc.wShelf (x : Image) (k : Nat) : F32 := BitVec.ofNat 32 (fld x (239 + 16 * k) (224 + 16 * k) * 65536)
def PlanDesc.rsvd : List (Nat × Nat) := [(7, 7), (767, 560)]
def Query.seq (x : Image) : Nat := fld x 31 0
def Query.usePrev (x : Image) : Bool := bitAt x 32
def Query.hasGuess (x : Image) : Bool := bitAt x 33
def Query.guessCount (x : Image) : Nat := fld x 63 48
def Query.startTime (x : Image) : Nat := fld x 111 64
def Query.guessAddr (x : Image) : Nat := fld x 175 128
def Query.basePos (x : Image) : List F32 := f32s x 192 3
def Query.baseRot (x : Image) : List F32 := f32s x 288 4
def Query.start (x : Image) : List F32 := f32s x 512 32
def Query.goal (x : Image) : List F32 := f32s x 1536 32
def Query.rsvd : List (Nat × Nat) := [(47, 34), (127, 112), (191, 176), (511, 416)]

/-! ### Solver records (R458, R467, R471, R472, R495) -/

def SStruct.fmtVer (x : Image) : Nat := fld x 3 0
def SStruct.orderGiven (x : Image) : Bool := bitAt x 4
def SStruct.n (x : Image) : Nat := fld x 31 16
def SStruct.m (x : Image) : Nat := fld x 47 32
def SStruct.nnzP (x : Image) : Nat := fld x 95 64
def SStruct.nnzA (x : Image) : Nat := fld x 127 96
def SStruct.rsvd : List (Nat × Nat) := [(15, 5), (63, 48), (511, 128)]
def SDesc.fmtVer (x : Image) : Nat := fld x 3 0
def SDesc.inst (x : Image) : Nat := fld x 5 4
def SDesc.warm (x : Image) : Nat := fld x 7 6
def SDesc.refine (x : Image) : Bool := bitAt x 8
def SDesc.equil (x : Image) : Bool := bitAt x 9
def SDesc.maxIter0 (x : Image) : Nat := fld x 23 16
def SDesc.structRef (x : Image) : Nat := fld x 47 32
def SDesc.inHook (x : Image) : Nat := fld x 63 48
def SDesc.inCount (x : Image) : Nat := fld x 71 64
def SDesc.slots (x : Image) : Nat := fld x 79 72
def SDesc.updateHook (x : Image) : Nat := fld x 95 80
def SDesc.updateDoneHook (x : Image) : Nat := fld x 111 96
def SDesc.resultHook (x : Image) : Nat := fld x 127 112
def SDesc.outStream (x : Image) : Nat := fld x 143 128
def SDesc.slotKib (x : Image) : Nat := fld x 159 144
def SDesc.budget (x : Image) : Nat := fld x 191 160
def SDesc.tolP (x : Image) : F32 := BitVec.ofNat 32 (fld x 223 192)
def SDesc.tolD (x : Image) : F32 := BitVec.ofNat 32 (fld x 255 224)
def SDesc.tolGap (x : Image) : F32 := BitVec.ofNat 32 (fld x 287 256)
def SDesc.updateRing (x : Image) : Nat := fld x 335 288
def SDesc.resultRing (x : Image) : Nat := fld x 383 336
def SDesc.warmAddr (x : Image) : Nat := fld x 431 384
def SDesc.maxIter (x : Image) : Nat := if SDesc.maxIter0 x = 0 then 50 else SDesc.maxIter0 x
def SDesc.rsvd : List (Nat × Nat) := [(15, 10), (31, 24), (767, 432)]
def DeltaHdr.fmtVer (x : Image) : Nat := fld x 3 0
def DeltaHdr.entries (x : Image) : Nat := fld x 51 32
def DeltaHdr.rsvd : List (Nat × Nat) := [(15, 4), (63, 52), (255, 96)]
def Delta.target (x : Image) : Nat := fld x 2 0
def Delta.rsvd (x : Image) : Nat := fld x 7 3
def Delta.index (x : Image) : Nat := fld x 31 8
def Delta.value (x : Image) : F32 := BitVec.ofNat 32 (fld x 63 32)
def ResRec.status (x : Image) : Nat := fld x 31 16
def ResRec.bestIter (x : Image) : Nat := fld x 63 56
def ResRec.sig (x : Image) : Nat := fld x 191 128
def ResRec.n (x : Image) : Nat := fld x 367 352
def ResRec.m (x : Image) : Nat := fld x 383 368

/-! ### KV page-table entries and stream records (R210, R211), the KV window (R213) -/

def PageEntry.frame (x : Image) : Nat := fld x 35 0
def PageEntry.part (x : Image) : Nat := fld x 38 36
def PageEntry.valid (x : Image) : Bool := bitAt x 39
def PageEntry.format (x : Image) : Nat := fld x 43 40
def PageEntry.fill (x : Image) : Nat := fld x 52 44
def KvRec.base (x : Image) : Nat := fld x 17 0
def KvRec.ppl (x : Image) : Nat := fld x 28 18
def KvRec.layers (x : Image) : Nat := fld x 36 29
def KvRec.length (x : Image) : Nat := fld x 55 37
def KvAddr.offset (a : Nat) : Nat := fld a 18 0
def KvAddr.page (a : Nat) : Nat := fld a 28 19
def KvAddr.layer (a : Nat) : Nat := fld a 35 29
def KvAddr.row (a : Nat) : Nat := fld a 43 36
/-- R213: the window is 0xF000_0000_0000 to 0xFFFF_FFFF_FFFF. -/
def inKvWindow (a : Nat) : Bool := fld a 47 44 == 0xF

/-! ### Policy and limit records (R589, R656), firmware image header (R758) -/

def PolRec.fmtVer (x : Image) : Nat := fld x 3 0
def PolRec.rsvd : List (Nat × Nat) := [(7, 4), (15, 13), (31, 24), (159, 153), (255, 160)]
/-- The policy that a record spells (R656). -/
def PolRec.policy (x : Image) : Policy :=
  { scrubHours := fld x 12 8, bucketLimit := fld x 23 16, leakS := fld x 47 32, hookGapUs := fld x 63 48,
    tileDtiS := fld x 95 64, engineDtiS := fld x 127 96, wdMs := fld x 135 128, safetyMiss := fld x 139 136,
    controlMiss := fld x 143 140, reactSafe := BitVec.ofNat 16 (fld x 159 144) }

def LimRec.fmtVer (x : Image) : Nat := fld x 3 0
def LimRec.rsvd : List (Nat × Nat) := [(7, 4), (63, 56), (255, 128)]
def LimRec.orDefault (v d : Nat) : Nat := if v = 0 then d else v
/-- The limits that a record sets, with the values that 0 selects (R589). -/
def LimRec.limits (x : Image) : Limits :=
  { tjTarget := LimRec.orDefault (fld x 15 8) 100, pLimitW := fld x 31 16, iLimitMa := fld x 47 32,
    margin := LimRec.orDefault (fld x 55 48) 5,
    floors := [LimRec.orDefault (fld x 79 64) 900, LimRec.orDefault (fld x 95 80) 900,
               LimRec.orDefault (fld x 111 96) 600, LimRec.orDefault (fld x 127 112) 300] }

def FwHdr.magic (x : Image) : Nat := fld x 31 0
def FwHdr.fmtVer (x : Image) : Nat := fld x 35 32
def FwHdr.keySlot (x : Image) : Nat := fld x 37 36
def FwHdr.commitSvn (x : Image) : Bool := bitAt x 38
def FwHdr.secVersion (x : Image) : Nat := fld x 47 40
def FwHdr.fwVersion (x : Image) : Nat := fld x 95 64
def FwHdr.totalLen (x : Image) : Nat := fld x 191 128
def FwHdr.lectOff (x : Image) : Nat := fld x 223 192
def FwHdr.lectLen (x : Image) : Nat := fld x 255 224
def FwHdr.burOff (x : Image) : Nat := fld x 287 256
def FwHdr.burLen (x : Image) : Nat := fld x 319 288
def FwHdr.lectDigest (x : Image) : Nat := fld x 575 320
def FwHdr.burDigest (x : Image) : Nat := fld x 831 576
def FwHdr.rsvd : List (Nat × Nat) := [(39, 39), (63, 48), (127, 96), (1023, 832)]

end Sys2Proof.Machine
end

