-- ==== Sys2Proof/Machine/Plan.lean ====
section
/-!
DEFINITION. Reading a Plan container (R733 to R735): its sections, the records of a section, and the lookups that
the dispatcher makes in the active Plans.
-/

namespace Sys2Proof.Machine

/-- The number of elements of an operator descriptor or another record whose size its own fields give. -/
def evenUp (n : Nat) : Nat := roundUp n 32

/-- One section of the table (R734). -/
structure Section where
  type : Nat
  fmtVer : Nat
  off : Nat
  len : Nat
  count : Nat
  image : Image
  deriving DecidableEq, Repr

def planHdr (b : Bytes) : Image := imageAt b 0 64

/-- The section table (R733, R734). -/
def planTable (b : Bytes) : List Section :=
  (List.range (PlanHdr.sections (planHdr b))).map fun i =>
    let x := imageAt b (64 + 16 * i) 16
    { type := SecEntry.type x, fmtVer := SecEntry.fmtVer x, off := SecEntry.offset x, len := SecEntry.length x,
      count := SecEntry.count x, image := x }

/-- Bytes of a program-set record: its header and entries, and the images that the entries place (R738). -/
def progSetSize (b : Bytes) : Nat :=
  let n := ProgSet.tiles (imageAt b 0 32)
  (List.range n).foldl (fun m i =>
    let e := imageAt b (32 + 16 * i) 16
    max m (max (ProgEntry.codeOff e + 16 * ProgEntry.commands e)
      (if ProgEntry.initWords e = 0 then 0 else ProgEntry.initOff e + 32 * ProgEntry.initWords e)))
    (32 + 16 * n)

/-- Anchor-table entries of a Finisher record: those that its levels name (R337; log entry 40). -/
def finAnchors (b : Bytes) : Nat :=
  (List.range (FinDesc.levels (imageAt b 0 64))).foldl (fun m l =>
    let x := imageAt b (64 + 16 * l) 16
    max m (min 128 (LevelRec.anchorBase x + LevelRec.anchors x))) 0

/-- Bytes of a structure record (R458, R459). -/
def structSize (x : Image) : Nat :=
  let n := SStruct.n x
  let m := SStruct.m x
  64 + 4 * (2 * (n + 1) + 2 * SStruct.nnzP x + 2 * SStruct.nnzA x + n + 2 * m
    + if SStruct.orderGiven x then n + m else 0)

/-- Bytes of the record that starts at the head of `b`, in a section of a type (R735 and the record rules). -/
def recSize (type : Nat) (b : Bytes) : Nat :=
  match type with
  | 0x0001 => 32
  | 0x0002 => 64 + 32 * JobRec.variants (imageAt b 0 64)
  | 0x0003 => progSetSize b
  | 0x0004 => 32
  | 0x0005 => 40
  | 0x0006 => 16
  | 0x0007 => 32
  | 0x0008 => 64
  | 0x0009 => 64 + 16 * FinDesc.levels (imageAt b 0 64) + 8 * finAnchors b
  | 0x000A => 64
  | 0x000B => 32 + 32 * ShelfDesc.shelves (imageAt b 0 32)
  | 0x000C => let h := imageAt b 0 16
              16 + 64 * RobotHdr.dof h + 32 * RobotHdr.bodies h
  | 0x000D => 96
  | 0x000E => structSize (imageAt b 0 64)
  | 0x000F => 96
  | 0x0010 => CeDesc.size (imageAt b 0 64)
  | 0x0011 => 16
  | 0x0012 => 32
  | _ => 32

/-- The records of a section: offset in the container and size, each starting on a multiple of 32 (R735). -/
def secRecords (b : Bytes) (type off count : Nat) : List (Nat × Nat) :=
  ((List.range count).foldl (fun (a : List (Nat × Nat) × Nat) _ =>
    let n := recSize type (b.drop a.2)
    (a.1 ++ [(a.2, n)], a.2 + roundUp n 32)) ([], off)).1

def planSection (b : Bytes) (type : Nat) : Option Section := (planTable b).find? (·.type == type)

/-- The records of the section of a type, as (offset, bytes); none without the section. -/
def planRecords (b : Bytes) (type : Nat) : List (Nat × Bytes) :=
  match planSection b type with
  | none => []
  | some s => (secRecords b type s.off s.count).map fun r => (r.1, slice b r.1 r.2)

/-- Record `i` of a section as an image, by a REF field (R735). -/
def planRec (b : Bytes) (type i : Nat) : Option Image := ((planRecords b type)[i]?).map fun r => leNat r.2

def planImages (b : Bytes) (type : Nat) : List Image := (planRecords b type).map fun r => leNat r.2

/-- The job records of a Plan. -/
def planJobs (b : Bytes) : List Image := planImages b 2

/-- One tile of a program set: exposed tile, program, initial store image (R738). -/
structure ProgTile where
  tile : Nat
  commands : List (BitVec 128)
  init : Bytes
  deriving DecidableEq, Repr

/-- The tiles of a program set, in entry order. -/
def progTiles (b : Bytes) (ref : Nat) : List ProgTile :=
  match (planRecords b 3)[ref]? with
  | none => []
  | some (_, r) => (List.range (ProgSet.tiles (imageAt r 0 32))).map fun i =>
      let e := imageAt r (32 + 16 * i) 16
      { tile := ProgEntry.tile e
        commands := (List.range (ProgEntry.commands e)).map fun k =>
          BitVec.ofNat 128 (imageAt r (ProgEntry.codeOff e + 16 * k) 16)
        init := slice r (ProgEntry.initOff e) (32 * ProgEntry.initWords e) }

/-- The tile ids of a program set. -/
def progTileIds (b : Bytes) (ref : Nat) : List Nat :=
  match (planRecords b 3)[ref]? with
  | none => []
  | some (_, r) => (List.range (ProgSet.tiles (imageAt r 0 32))).map fun i =>
      ProgEntry.tile (imageAt r (32 + 16 * i) 16)

/-! ### Lookups over the active Plans -/

def Device.plan (d : Device) (h : BitVec 16) : Option LoadedPlan := d.jobs.plans.find? (·.handle == h)

def Device.part (d : Device) (p : Nat) : Partition := nth d.jobs.parts p Partition.reset

/-- The Plans active in some partition, in the order of the loaded list. -/
def Device.activePlans (d : Device) : List LoadedPlan :=
  d.jobs.plans.filter fun p => d.jobs.parts.any fun q => q.active == some p.handle

/-- The active mask of a Plan (R770). -/
def Device.activeMask (d : Device) (h : BitVec 16) : Nat :=
  (List.range 8).foldl (fun m p => if (d.part p).active == some h then m + 2 ^ p else m) 0

/-- A job record with the Plan it stands in. -/
structure JobRef where
  plan : LoadedPlan
  image : Image
  deriving DecidableEq, Repr

/-- Every active job: its record's Plan is active in its partition (R535, R737). -/
def Device.activeJobs (d : Device) : List JobRef :=
  d.activePlans.flatMap fun p => ((planJobs p.bytes).filter fun r =>
    (d.part (JobRec.part r)).active == some p.handle).map fun r => ⟨p, r⟩

def Device.job (d : Device) (j : BitVec 16) : Option JobRef :=
  d.activeJobs.find? fun r => JobRec.jobId r.image == j.toNat

/-- Record `i` of a section of the job's Plan. -/
def JobRef.record (r : JobRef) (type i : Nat) : Option Image := planRec r.plan.bytes type i

/-- The tiles of variant `v` of a job (R539). -/
def JobRef.tiles (r : JobRef) (v : Nat) : List Nat :=
  progTileIds r.plan.bytes (VarRec.programRef (JobRec.variant r.image v))

/-- All the slot descriptors of active Plans, with their Plans. -/
def Device.ceDescs (d : Device) : List (LoadedPlan × Image) :=
  d.activePlans.flatMap fun p => ((planImages p.bytes 0x10).filter fun x =>
    (d.job (BitVec.ofNat 16 (CeDesc.jobId x))).isSome).map fun x => (p, x)

def Device.ceDesc (d : Device) (s : Nat) : Option Image :=
  (d.ceDescs.find? fun x => CeDesc.slot x.2 == s).map (·.2)

/-- The KV-pool record of a job (R742). -/
def JobRef.pool (r : JobRef) : Option Image :=
  (planImages r.plan.bytes 0x12).find? fun x => PoolRec.jobId x == JobRec.jobId r.image

/-- Whether a job's deadline or class makes it BACKGROUND. -/
def JobRef.background (r : JobRef) : Bool := JobRec.cls r.image == 3

end Sys2Proof.Machine
end

