-- ==== Sys2Proof/Machine/Ops.lean ====
section
/-!
DEFINITION. The operations that the meanings share: time, free values, memory and views, Hooks, events and
In-Band Interrupts, notifications to the Lectern, tokens, Drawer replies and outbound records. This block has no
exception entry; raising an event, an interrupt flag or a notification is the effect of a command on the state.
-/

namespace Sys2Proof.Machine

/-! ### Time (R352 to R358) -/

/-- Hub cycles of a number of microseconds (1.2 GHz). -/
def usHub (n : Nat) : Nat := 1200 * n

def addT (t : Time) (n : Nat) : Time := t + BitVec.ofNat 48 n

/-- The instant `t` has been reached at `now` (R353). -/
def reached (now t : Time) : Bool := 0 ≤ timeDiff now t

/-- Cycles from `t` to `now`, 0 when `t` lies ahead. -/
def elapsedT (now t : Time) : Nat := (timeDiff now t).toNat

/-- The same in µs, rounded to nearest (R48). -/
def usBetween (now t : Time) : Nat := (roundDiv (elapsedT now t) 1200).toNat

/-- Units into which a cycle of a domain counter is cut (the model's own). -/
def cycleUnits : Nat := 1200 * 10 ^ 9

/-- The nominal rate of a domain counter other than the hub's, in MHz (R352). -/
def rateMHz (dom : Nat) : Nat := if dom = 1 then 600 else if dom = 2 then 1000 else if dom = 3 then 400 else 250

/-- Its tolerance, in ppm (R352). -/
def rateTol (dom : Nat) : Nat := if dom = 3 then 100 else 50

/-- What a domain counter runs during `n` cycles of the hub counter: any amount that the two tolerances of R352 admit. -/
def elapsedUnits (dom nonce n : Nat) : Nat :=
  let f := n * rateMHz dom * 10 ^ 9
  let low := (f * (10 ^ 6 - rateTol dom) + (10 ^ 6 + 49)) / (10 ^ 6 + 50)
  let high := f * (10 ^ 6 + rateTol dom) / (10 ^ 6 - 50)
  max low (min high (Config.elapsed (BitVec.ofNat 8 dom) nonce n))

/-- Time passes to the hub-counter value `now` (R352, R353): a value that is not later leaves every counter as it
stands; the other domains' counters advance by amounts of their own, within the tolerances of R352 (R354, a free value). -/
def advance (now : Time) (d : Device) : Device :=
  if d.pow.phase = .off then d
  else if timeDiff now d.clk.hub ≤ 0 then d
  else
    let n := elapsedT now d.clk.hub
    let run (k : Nat) : Nat := d.clk.phases.getD k 0 + elapsedUnits k d.clk.nonce n
    { d with clk := { d.clk with
        hub := now
        nonce := d.clk.nonce + 1
        counters := d.clk.counters.mapVals fun k t => addT t (run k / cycleUnits)
        phases := d.clk.counters.map fun (e : Nat × Time) => (e.1, run e.1 % cycleUnits) } }

/-- The outcome of a command whose effect on the device is `f`, after time has passed to `now`. -/
def State.act (now : Time) (s : State) (f : Device → Device) : Host.Outcome State Fault Refusal :=
  .next { s with dev := f (advance now s.dev) }

/-- As `act`, for a command that acts only while the Bureau runs. -/
def State.onUp (now : Time) (s : State) (f : Device → Device) : Host.Outcome State Fault Refusal :=
  s.act now fun d => if d.pow.phase = .up then f d else d

/-- As `act`, for a command that acts while the Bureau runs, in standby or with every switchable domain off. -/
def State.onAlive (now : Time) (s : State) (f : Device → Device) : Host.Outcome State Fault Refusal :=
  s.act now fun d => if d.pow.phase = .up ∨ d.pow.phase = .standby ∨ d.pow.phase = .shut then f d else d

def Device.hub (d : Device) : Time := d.clk.hub

/-- Takes the next running number for a free value. -/
def Device.bump (d : Device) : Device := { d with clk := { d.clk with nonce := d.clk.nonce + 1 } }

/-- A domain's counter. -/
def Device.counter (d : Device) (dom : Nat) : Time :=
  if dom = 0 then d.clk.hub else d.clk.counters.getD dom 0

def Device.setCounter (d : Device) (dom : Nat) (t : Time) : Device :=
  { d with clk := { d.clk with counters := d.clk.counters.put dom t } }

/-- The port counter reads at least `t`: an event that a port stamps with its own counter (R269). -/
def Device.portAt (d : Device) (dom : Nat) (t : Time) : Device :=
  if (d.clk.counters.find dom).isSome ∧ 0 < timeDiff t (d.counter dom) then d.setCounter dom t else d

/-- Nominal cycles of 10 ms in a domain (R352, R357). -/
def tenMs (dom : Nat) : Nat :=
  if dom = 0 then 12000000 else if dom = 1 then 6000000 else if dom = 2 then 10000000
  else if dom = 3 then 4000000 else 2500000

/-- Interpolation between consecutive samples (from, to), newest first (R357). -/
def interpolate (t : Time) : List (Time × Time) → Option Time
  | (a1, b1) :: (a0, b0) :: r =>
    if 0 ≤ timeDiff t a0 ∧ timeDiff t a1 ≤ 0 then
      let da := timeDiff a1 a0
      some (b0 + BitVec.ofInt 48 (roundDiv (timeDiff t a0 * timeDiff b1 b0) da.toNat))
    else interpolate t ((a0, b0) :: r)
  | _ => none

/-- The domains of R352. -/
def isDomain (k : Nat) : Bool := k ≤ 3 || (0x10 ≤ k && k ≤ 0x1B) || (0x20 ≤ k && k ≤ 0x23)

/-- Conversion over samples (from, to), newest first (R356, R357): none is ST_TIME_RANGE. -/
def convertSamples (limit : Nat) (t : Time) (sm : List (Time × Time)) : Option Time :=
  if sm.length < 16 then none else
  match interpolate t sm with
  | some r => some r
  | none =>
    match sm, sm[16]? with
    | (an, bn) :: _, some (a16, b16) =>
      let dt := timeDiff t an
      if 0 < dt ∧ dt ≤ limit ∧ 0 < timeDiff an a16 then
        some (bn + BitVec.ofInt 48 (roundDiv (dt * timeDiff bn b16) (timeDiff an a16).toNat))
      else none
    | _, _ => none

def Device.samples (d : Device) (dom : Nat) : List (Time × Time) := d.clk.samples.getD dom []

def Device.toHub (d : Device) (dom : Nat) (t : Time) : Option Time :=
  if dom = 0 then some t else convertSamples (tenMs dom) t ((d.samples dom).map fun p => (p.2, p.1))

def Device.fromHub (d : Device) (dom : Nat) (t : Time) : Option Time :=
  if dom = 0 then some t else convertSamples (tenMs 0) t (d.samples dom)

/-- R357, R358: the time `t` of domain `a` in domain `b`. -/
def Device.convertTime (d : Device) (a b : Nat) (t : Time) : Option Time :=
  (d.toHub a t).bind (d.fromHub b)

/-! ### Status codes (R819) -/

def stOk : Status := 0x0000
def stPlanKept : Status := 0x0001
def stWarmRejected : Status := 0x0002
def stConfig : Status := 0x1001
def stReserved : Status := 0x1002
def stVersion : Status := 0x1003
def stBusy : Status := 0x1004
def stSignature : Status := 0x1005
def stSafeCause : Status := 0x1006
def stLimit : Status := 0x2001
def stCorrupt : Status := 0x2002
def stTimeout : Status := 0x2003
def stOverrun : Status := 0x2004
def stInputTest : Status := 0x2005
def stTimeRange : Status := 0x2006
def stKvFull : Status := 0x2007
def stMapFull : Status := 0x2008
def stEpoch : Status := 0x2009
def stLate : Status := 0x3001
def stCancelled : Status := 0x3002
def stCheckMismatch : Status := 0x3003
def stUncorrectable : Status := 0x3004
def stAccess : Status := 0x3005
def stHookOverflow : Status := 0x3006
def stTileFenced : Status := 0x3007
def stNonfinite : Status := 0x3008
def stIterLimit : Status := 0x3009
def stSolveBudget : Status := 0x300A
def stNoPath : Status := 0x300B
def stSensorConflict : Status := 0x4001
def stPlausibility : Status := 0x4002
def stInputStale : Status := 0x4003
def stPeriodLost : Status := 0x4004
def stTestOverdue : Status := 0x4005
def stLoopMismatch : Status := 0x4006
def stResultMissing : Status := 0x4007
def stWatchdog : Status := 0x4008
def stSelftestFail : Status := 0x4009
def stThermal : Status := 0x5001
def stPowerLimit : Status := 0x5002
def stMemDieLost : Status := 0x5003
def stRemapFull : Status := 0x5004
def stClockFault : Status := 0x5005
def stSupplyFault : Status := 0x5006
def stSafePinFault : Status := 0x5007
def stLecternFault : Status := 0x5008
def stFwFallback : Status := 0x5009

/-! ### Memory (R613 to R619) -/

namespace Cells

/-- The listed byte at an address. -/
def find : List Host.Cell → Nat → Option Byte
  | [], _ => none
  | (k, v) :: r, a => if a = k then some v else if a < k then none else find r a

/-- Puts a byte, keeping the addresses rising; `dflt` is what the address reads as when unlisted. -/
def put (dflt : Byte) : List Host.Cell → Nat → Byte → List Host.Cell
  | [], a, v => if v = dflt then [] else [(a, v)]
  | (k, w) :: r, a, v =>
    if a < k then (if v = dflt then (k, w) :: r else (a, v) :: (k, w) :: r)
    else if a = k then (if v = dflt then r else (a, v) :: r)
    else (k, w) :: put dflt r a v

end Cells

/-- What an unlisted address reads as: 0 (R641; log entry 15), or a free byte in an undefined range. -/
def undefByte (u : List (Nat × Nat × Nat)) (a : Nat) : Byte :=
  match u.find? fun r => r.1 ≤ a && a < r.1 + r.2.1 with
  | some r => Config.freeByte r.2.2 a
  | none => 0

def Memory.byte (m : Memory) (a : Nat) : Byte := (Cells.find m.cells a).getD (undefByte m.undef a)

def Memory.bytes (m : Memory) (a n : Nat) : Bytes := (List.range n).map fun i => m.byte (a + i)

def Memory.setByte (m : Memory) (a : Nat) (v : Byte) : Memory :=
  { m with cells := Cells.put (undefByte m.undef a) m.cells a v }

/-- Writes bytes at consecutive addresses. -/
def Memory.write (m : Memory) (a : Nat) : Bytes → Memory
  | [] => m
  | b :: r => (m.setByte a b).write (a + 1) r

/-- The canonical form: addresses strictly rising, and no entry equal to what the address reads as unlisted. -/
def Cells.ok (dflt : Nat → Byte) : List Host.Cell → Bool
  | [] => true
  | (a, v) :: r => v != dflt a && r.all (fun c => decide (a < c.1)) && Cells.ok dflt r

/-- The canonical form of main memory. -/
def Memory.wf (m : Memory) : Bool := Cells.ok (undefByte m.undef) m.cells

/-- Calls a range undefined (R575, R722): its listed bytes are forgotten. -/
def Memory.forget (m : Memory) (a n nonce : Nat) : Memory :=
  if n = 0 then m else
  let u := (a, n, nonce) :: m.undef
  { m with undef := u, cells := m.cells.filter fun c => (c.1 < a || a + n ≤ c.1) }

/-- Poisons the beats of a range, or heals the lines that are written whole (R613, R633). -/
def Memory.heal (m : Memory) (a n : Nat) : Memory :=
  { m with poison := m.poison.filter fun b => b * 16 < a || a + n ≤ b * 16 }
def Memory.isBad (m : Memory) (a : Nat) : Bool := m.poison.contains (a / 16)
def Memory.spoil (m : Memory) (beats : List Nat) : Memory :=
  { m with poison := (beats.foldl (fun p b => if p.contains b then p else b :: p) m.poison).mergeSort }

/-- The region of a partition in a set (R615). -/
def MemState.region (m : MemState) (p s : Nat) : Option (Nat × Nat) :=
  (m.regions.find? fun r => r.1.val == p && r.2.1.val == s).map fun r => (r.2.2.1, r.2.2.2)

/-- The sets of a mask, ascending (R615). -/
def setsOf (mask : Nat) : List Nat := (List.range 4).filter fun s => bitAt mask s

/-- R615: the physical byte address (set × 2³⁵ + LINE × 256 + byte) of a view address; none outside the view. -/
def Device.viewPhys (d : Device) (p a : Nat) : Option Nat :=
  match (d.part p).record with
  | none => none
  | some r =>
    if PartRec.memGib r * 2 ^ 30 ≤ a then none else
    let ss := setsOf (PartRec.setMask r)
    let k := ss.length
    let g := a / 256
    let s := nth ss (g % k) 0
    match d.mem.region p s with
    | none => none
    | some (base, _) => some (s * 2 ^ 35 + (base + g / k) * 256 + a % 256)

/-- Reads `n` bytes of a partition's view; bytes outside it read as 0. -/
def Device.readView (d : Device) (p a n : Nat) : Bytes :=
  (List.range n).map fun i => ((d.viewPhys p (a + i)).map d.mem.main.byte).getD 0

/-- Writes bytes into a partition's view; bytes outside it are not written. -/
def Device.writeViewBytes (d : Device) (p a : Nat) : Bytes → Device
  | [] => d
  | b :: r =>
    let d := match d.viewPhys p a with
      | some x => { d with mem := { d.mem with main := d.mem.main.setByte x b } }
      | none => d
    d.writeViewBytes p (a + 1) r

/-- Every address of a range lies in the view. -/
def Device.inView (d : Device) (p a n : Nat) : Bool :=
  n = 0 || ((d.viewPhys p (a + n - 1)).isSome && (d.viewPhys p a).isSome)

/-- A line index and set of a physical address (R614). -/
def physSet (x : Nat) : Nat := x / 2 ^ 35
def physLine (x : Nat) : Nat := x / 256 % 2 ^ 27

/-! ### The system cache (R622 to R625) -/

def waysOf (mask : Nat) : List Nat := (List.range 16).filter fun w => bitAt mask w

/-- Takes a line of physical address `x` into the partition's ways (R624, R625): `pol` 0 ALLOCATE, 1 STREAM,
2 RETAIN. -/
def MemState.touch (m : MemState) (part : Fin 8) (mask pol : Nat) (write : Bool) (x nonce : Nat) : MemState :=
  let key := x / 256
  match m.cache.find key with
  | some l => { m with cache := m.cache.put key { l with dirty := l.dirty || write, retained := l.retained || pol == 2 } }
  | none =>
    if pol = 1 ∨ mask = 0 then m else
    let (slice, index) := Config.cacheIndex (physSet x) (physLine x)
    let here := m.cache.filter fun e => e.2.slice == slice && e.2.index == index && mask / 2 ^ e.2.way.val % 2 == 1
    let used := here.map fun e => e.2.way.val
    let free := (waysOf mask).filter fun w => !used.contains w
    let cand := (here.filter fun e => !e.2.retained).map fun e => e.2.way.val
    let cand := if cand.isEmpty ∧ pol = 2 then used else cand
    let pick := match free with
      | w :: _ => some w
      | [] => if cand.isEmpty then none else
          let v := Config.plruVictim nonce cand
          some (if cand.contains v then v else cand.headD 0)
    match pick with
    | none => m
    | some w =>
      let gone := (here.filter fun e => e.2.way.val == w).map (·.1)
      let c := gone.foldl (fun c k => Tbl.del c k) m.cache
      { m with cache := c.put key { slice, index, way := ⟨w % 16, Nat.mod_lt _ (by decide)⟩, dirty := write,
                                    retained := pol == 2, part } }

/-- Counts corrections and uncorrectable errors of an on-chip store (R627, R718): 0 cache, 1 Shelf, 2 to 5 Solvers, 6 and 7
Control Engine halves, 8 KV table, 9 Hook array. -/
def Device.chipCount (d : Device) (k ce ue : Nat) : Device :=
  let c := nth d.mem.onChip k (0, 0)
  { d with mem := { d.mem with onChip := setAt d.mem.onChip k (sat32 (c.1 + ce), sat32 (c.2 + ue)) } }

/-- The cache takes part in an access of `n` bytes at view address `a` (R563: no ways means STREAM). -/
def Device.cacheTouch (d : Device) (p a n pol : Nat) (write : Bool) : Device :=
  match (d.part p).record with
  | none => d
  | some r =>
    let d := d.bump
    { d with mem := (List.range ((a + n + 255) / 256 - a / 256)).foldl (fun m i =>
        match d.viewPhys p ((a / 256 + i) * 256) with
        | some x => m.touch ⟨p % 8, Nat.mod_lt _ (by decide)⟩ (PartRec.wayMask r) pol write x (d.clk.nonce + i)
        | none => m) d.mem }

def Device.memSet (d : Device) (k : Nat) : MemSet := nth d.mem.sets k MemSet.reset

def Device.setMemSet (d : Device) (k : Nat) (m : MemSet) : Device :=
  { d with mem := { d.mem with sets := setAt d.mem.sets k m } }

/-- A whole-line write of valid data (R613, R632, R640): poison leaves the line, a later error in it raises its event
again, and a scrub that waits for the line is cancelled. -/
def Device.wroteLine (d : Device) (x : Nat) : Device :=
  let k := physSet x
  let l := BitVec.ofNat 27 (physLine x)
  let m := d.memSet k
  let d := d.setMemSet k { m with raised := m.raised.filter (· != l), demand := m.demand.filter (· != l) }
  { d with mem := { d.mem with main := d.mem.main.heal (x / 256 * 256) 256 } }

/-- A hub engine or the Bureau writes whole lines (R619, R624): the bytes, zero-padded to the line's end. -/
def Device.writeLines (d : Device) (p a : Nat) (bs : Bytes) : Device :=
  let n := roundUp bs.length 256
  let d := d.writeViewBytes p a (bs ++ List.replicate (n - bs.length) 0)
  let d := (List.range (n / 256)).foldl (fun (d : Device) i => match d.viewPhys p (a + 256 * i) with
    | some x => d.wroteLine x
    | none => d) d
  d.cacheTouch p a n 0 true

/-- Some beat of a view range is poisoned (R632). -/
def Device.viewBad (d : Device) (p a n : Nat) : Bool :=
  (List.range ((a + n + 15) / 16 - a / 16)).any fun i =>
    match d.viewPhys p ((a / 16 + i) * 16) with
    | some x => d.mem.main.isBad x
    | none => false

/-! ### Events and In-Band Interrupts (R696, R708 to R712) -/

/-- Sets the pending flag of an IBI value; a set flag adds no second IBI (R711, R712). -/
def Window.setIbi (w : Window) (v : BitVec 8) : Window := if w.ibi.contains v then w else { w with ibi := w.ibi ++ [v] }

/-- Changes the window. -/
def Device.win (d : Device) (f : Window → Window) : Device := { d with bur := { d.bur with win := f d.bur.win } }

/-- STATUS of the host window (R696). -/
def Device.statusReg (d : Device) : BitVec 32 :=
  let w := d.bur.win
  let b (x : Bool) (i : Nat) : Nat := if x then 2 ^ i else 0
  BitVec.ofNat 32 (b w.ready 0 + b w.outputsEnabled 1 + b d.lect.safe 2
    + b (w.calFault || w.memFault || w.checkerFault || w.lecternFault || w.planFault || w.sigFault) 3
    + b w.standby 4 + b w.negotiated 5)

/-- Runs a change and queues STATUS_CHANGE when one of READY, OUTPUTS_ENABLED, SAFE, FAULT or STANDBY has
changed (R711). -/
def Device.watchStatus (d : Device) (f : Device → Device) : Device :=
  let e := f d
  if fld (d.statusReg).toNat 4 0 = fld (e.statusReg).toNat 4 0 then e else e.win fun w => w.setIbi 0x41

/-- EVT_SEQ after a number (R708). -/
def nextEvt (n : BitVec 32) : BitVec 32 := if n = 0xFFFFFFFF then 1 else n + 1

/-- Events and statuses that always cause the safe state (R683 to R687, R819). -/
def alwaysSafe (st : Status) : Bool :=
  [stLoopMismatch, stResultMissing, stWatchdog, stClockFault, stSupplyFault, stSafePinFault, stLecternFault].contains st

/-- Bit of REACT_SAFE for a status (R657). -/
def reactBit (st : Status) : Option Nat :=
  if st = stInputTest then some 0 else if st = stSensorConflict then some 1 else if st = stPlausibility then some 2
  else if st = stInputStale then some 3 else if st = stPeriodLost then some 4 else if st = stTestOverdue then some 5
  else if st = stTileFenced then some 6 else if st = stMemDieLost then some 7 else if st = stThermal then some 8
  else none

/-- The status's reaction is the safe state under the policy (R657, R685). -/
def Device.reacts (d : Device) (st : Status) : Bool :=
  alwaysSafe st || ((reactBit st).map fun b => d.lect.policy.reactSafe.getLsbD b).getD false

/-- SEVERITY of an event (R821). -/
def Device.severity (d : Device) (st : Status) : BitVec 2 :=
  if d.reacts st then 3
  else
    let c := st.toNat / 4096
    if c = 4 ∨ c = 5 then 2 else if c = 2 ∨ c = 3 then 1 else 0

/-- Queues an event (R708, R709): logged in EVENT_LOG; lost when 256 are queued. -/
def Device.postEvent (d : Device) (st : Status) (sev : BitVec 2) (kind : BitVec 4) (src : BitVec 16)
    (detail : BitVec 112) : Device :=
  let w := d.bur.win
  let e : Event := { seq := w.nextSeq, status := st, kind, severity := sev, source := src, time := d.hub, detail }
  let d := { d with bur := { d.bur with nv := { d.bur.nv with eventLog := (e :: d.bur.nv.eventLog).take 2097152 } } }
  if w.events.length ≥ 256 then
    d.win fun w => { w with nextSeq := nextEvt w.nextSeq, overflow := true, lost := sat32 (w.lost + 1) }
  else
    d.win fun w =>
      let w' := { w with nextSeq := nextEvt w.nextSeq, events := w.events ++ [e] }
      if w.events.isEmpty then w'.setIbi 0x40 else w'

def Device.event (d : Device) (st : Status) (kind : BitVec 4) (src : BitVec 16) (detail : BitVec 112) : Device :=
  d.postEvent st (d.severity st) kind src detail

/-- SOURCE_KIND values of R708. -/
def srcNone : BitVec 4 := 0
def srcJob : BitVec 4 := 1
def srcSlot : BitVec 4 := 2
def srcTile : BitVec 4 := 3
def srcStream : BitVec 4 := 4
def srcSet : BitVec 4 := 5
def srcDomain : BitVec 4 := 6
def srcSensor : BitVec 4 := 7
def srcLectern : BitVec 4 := 8

/-- Sends a notification to the Lectern; the row NOTIFICATION takes it (R655, R690). -/
def Device.notify (d : Device) (st : Status) (kind : BitVec 4) (src : BitVec 16) : Device :=
  { d with lect := { d.lect with inbox := d.lect.inbox ++ [⟨st, kind, src, d.hub, false⟩] } }

/-- Enters a record in the Lectern log (R655): the last 4,096 are kept. -/
def Device.lectLog (d : Device) (st : Status) (kind : BitVec 4) (src : BitVec 16) : Device :=
  let r : LogRec := { status := st, kind, source := src, hub := d.hub, lect := d.counter 3, number := d.lect.nextNumber }
  { d with lect := { d.lect with log := (r :: d.lect.log).take 4096, nextNumber := d.lect.nextNumber + 1 } }

/-- Bit of a cause in the safe-cause word (R687). -/
def safeBit : SafeCause → Nat
  | .notReady => 0 | .hostRequest => 1 | .loopMismatch => 2 | .resultMissing => 3 | .watchdog => 4
  | .lecternFault => 5 | .clockFault => 6 | .supplyFault => 7 | .thermal => 8 | .safePinFault => 9
  | .policyEvent => 10 | .fwHookUe => 11 | .selftestFail => 12

def causeMask (c : SafeCause) : BitVec 13 := BitVec.ofNat 13 (2 ^ safeBit c)

/-- Enters the safe state (R685, R687): pins low, the cause set, FIRST_STATUS and FIRST_SOURCE kept from the first
cause since the last release, SAFE set with its IBI. -/
def Device.enterSafe (d : Device) (c : SafeCause) (st : Status) (src : BitVec 16) : Device :=
  d.watchStatus fun d =>
    let l := d.lect
    let first := !l.safe
    { d with lect := { l with
        safe := true, pinA := false, pinB := false, changed := if l.safe then l.changed else d.hub
        causes := l.causes ||| causeMask c
        firstStatus := if first then st else l.firstStatus
        firstSource := if first then src else l.firstSource } }

/-- Enters the safe state for a cause that has no status of its own (R685, R687): the event that the entry raises carries ST_OK, as
FIRST_STATUS does (DEDUCED, log entry 25). -/
def Device.enterQuiet (d : Device) (c : SafeCause) : Device :=
  let e := d.enterSafe c stOk 0
  if d.lect.safe then e else e.postEvent stOk 3 srcLectern 0 0

/-- Clears a cause (R688). -/
def Device.clearCause (d : Device) (c : SafeCause) : Device :=
  { d with lect := { d.lect with causes := d.lect.causes &&& ~~~ causeMask c } }

def Device.hasCause (d : Device) (c : SafeCause) : Bool := d.lect.causes.getLsbD (safeBit c)

/-- An event reaches its notify-again point (R688): POLICY_EVENT clears once every event behind it has. A notification that
the Lectern has not yet taken is marked. -/
def Device.notifyAgain (d : Device) (st : Status) (kind : BitVec 4) (src : BitVec 16) : Device :=
  let ev := d.lect.events.filter fun e => !(e == (st, kind, src))
  let inbox := d.lect.inbox.map fun (n : Note) =>
    if n.status = st ∧ n.kind = kind ∧ n.source = src then { n with again := true } else n
  let had := ev.length != d.lect.events.length
  let d := { d with lect := { d.lect with events := ev, inbox } }
  if had && ev.isEmpty then d.clearCause .policyEvent else d

/-- Sends a token to the Lectern (R682). -/
def Device.token (d : Device) (t : Token) : Device :=
  { d with lect := { d.lect with tokens := d.lect.tokens ++ [t] } }

/-- The Lectern monitors an entry (R681). -/
def Device.monitored (d : Device) (k : MonKey) : Bool := d.lect.table.any fun e => e.key == k

/-- A monitored job or slot has stopped: its check points go, and it no longer stands behind RESULT_MISSING (R683,
R688). -/
def Device.monitorStopped (d : Device) (k : MonKey) : Device :=
  let had := d.lect.table.any fun e => e.key == k && e.behind
  let table := d.lect.table.map fun (e : MonEntry) => if e.key == k then
      { e with misses := 0, presents := 0, checks := [], late := false, startBy := none, behind := false } else e
  let d := { d with lect := { d.lect with table } }
  if had && table.all (fun e => !e.behind) then d.clearCause .resultMissing else d

/-! ### Hooks (R181 to R187) -/

def Hook.fresh : Hook := { count := 0, waiters := [], retry := [], granted := [] }

def Device.hook (d : Device) (h : Nat) : Hook := d.hooks.hooks.getD h Hook.fresh

def Device.setHook (d : Device) (h : Nat) (x : Hook) : Device :=
  { d with hooks := { d.hooks with hooks := d.hooks.hooks.put h x } }

/-- R182: waiters released from the head while the count covers them. -/
def releaseWaiters (count : Nat) : List Waiter → Nat × List Waiter × List Waiter
  | [] => (count, [], [])
  | w :: r =>
    if w.n ≤ count then
      let (c, gone, rest) := releaseWaiters (count - w.n) r
      (c, w :: gone, rest)
    else (count, [], w :: r)

def maxCount : Nat := 16777215

/-- The effect of SIGNAL on one Hook (R181 to R183): none when the count would pass its limit; otherwise the Hook
and the waiters released. -/
def Hook.signal (h : Hook) (n : Nat) : Option (Hook × List Waiter) :=
  if maxCount < h.count + n then none
  else
    let (c, gone, rest) := releaseWaiters (h.count + n) h.waiters
    some ({ h with count := c, waiters := rest }, gone)

/-- WAIT on one Hook (R181, R184). -/
inductive WaitResult where
  | done | queued | refused
  deriving DecidableEq, Repr

def Hook.wait (h : Hook) (w : Waiter) : Hook × WaitResult :=
  if h.waiters.isEmpty ∧ w.n ≤ h.count then ({ h with count := h.count - w.n }, .done)
  else if h.waiters.length < 32 then ({ h with waiters := h.waiters ++ [w] }, .queued)
  else (h, .refused)

/-- TRY on one Hook (R181). -/
def Hook.try (h : Hook) (n : Nat) : Hook × Bool :=
  if h.waiters.isEmpty ∧ n ≤ h.count then ({ h with count := h.count - n }, true) else (h, false)

/-! ### Tiles by id -/

/-- A physical tile's id as a number: exposed 0 to 4,095, spares 4,096 to 4,159 (R16, R123). -/
def isSpare (t : Nat) : Bool := 4096 ≤ t

/-- Fabric group of a physical tile (R122, R123): id 0xYYXX's bits give y in [11:6] and x in [5:0]. -/
def groupOf (t : Nat) : Nat := if isSpare t then (t - 4096) / 2 else t / 64 / 8 * 4 + t % 64 / 16

def TileRegs.fresh : TileRegs :=
  { stationary := none, staging := none, checkUsed := none, checkStaged := none, acc := [], half := false, consts := [], m := [], s := [], pair := [],
    undef := 0, rngSeed := 0, rngCount := 0 }

def TileRun.fresh : TileRun :=
  { waits := [], marks := [], sends := [], dmas := [], checks := [], drains := [], closing := [], sendQ := [],
    nonfinite := false, segments := [], tries := [], groupOpen := false }

/-- A tile before READY (R130): exposed tiles serve their own id, spares none. -/
def freshTile (t : Nat) : TileState :=
  { t := { phase := .idle
           serves := if h : t < 4096 then some ⟨t, h⟩ else none
           census := if isSpare t then .spareIdle else .active
           ceCount := 0, bucket := 0, store := [], poison := [], regs := TileRegs.fresh, job := none, epoch := 0,
           startWord := 0, program := none, pc := 0, loops := [], nextId := 0, queues := [[], [], [], []] }
    r := TileRun.fresh }

def Device.tile (d : Device) (t : Nat) : TileState := d.tiles.getD t (freshTile t)

def Device.setTile (d : Device) (t : Nat) (x : TileState) : Device := { d with tiles := d.tiles.put t x }

/-- The physical tile that serves an exposed id (R125, R130). -/
def Device.serving (d : Device) (id : Nat) : Option Nat :=
  if (d.tile id).t.serves.map (·.val) = some id ∧ (d.tile id).t.census = .active then some id
  else ((List.range 2).map fun k => 4096 + 2 * groupOf id + k).find? fun s =>
    (d.tile s).t.serves.map (·.val) == some id && (d.tile s).t.census == .spareMapped

/-- A physical tile id as an index, where it is one. -/
def finTile (t : Nat) : Option (Fin 4160) := if h : t < 4160 then some ⟨t, h⟩ else none

/-! ### Jobs: causes and stops (R165, R550 to R552, R820) -/

def Device.run (d : Device) (j : BitVec 16) : Option JobRun := d.jobs.runs.find j.toNat

def Device.setRun (d : Device) (j : BitVec 16) (r : JobRun) : Device :=
  { d with jobs := { d.jobs with runs := d.jobs.runs.put j.toNat r } }

/-- Rank of a cause within one hub cycle (R820): smaller wins. -/
def causeRank (st : Status) : Nat :=
  ([stTileFenced, stUncorrectable, stCheckMismatch, stAccess, stHookOverflow, stLate, stCancelled].idxOf st)

/-- The cause that stands after a further one arrives (R820). -/
def laterCause (old : Option (Status × Time)) (st : Status) (t : Time) : Status × Time :=
  match old with
  | none => (st, t)
  | some (s, u) => if u = t ∧ causeRank st < causeRank s then (st, t) else (s, u)

/-- A tile is cancelled or stopped (R165): queued commands, array and gate work and unlanded DMA_IN data go;
SENDs and DMA_OUTs that have started are kept. -/
def TileState.cancel (x : TileState) : TileState :=
  { t := { x.t with phase := .stopping, queues := [[], [], [], []], loops := [] }
    r := { x.r with waits := [], marks := [], drains := [], closing := [], checks := [], sendQ := [], tries := [],
                    dmas := x.r.dmas.filter fun f => !f.inbound } }

/-- Removes a requester's waits from every Hook's list (a stopped tile sends no further Hook operations). -/
def HookArray.forgetWaits (a : HookArray) (who : Requester) : HookArray :=
  { a with
    hooks := a.hooks.mapVals fun _ h => { h with waiters := h.waiters.filter fun w => w.who != who,
                                                 retry := h.retry.filter fun w => w.1.who != who
                                                 granted := h.granted.filter fun w => w.who != who }
    flight := a.flight.filter fun o => match o with
      | .signal .. => true
      | .wait w _ _ => w != who
      | .try w _ _ => w != who }

def Device.cancelTile (d : Device) (t : Fin 4160) : Device :=
  let x := d.tile t
  if x.t.phase = .idle then d
  else { d.setTile t x.cancel with hooks := d.hooks.forgetWaits (.tile t) }

/-- The tiles whose running period belongs to a job. -/
def Device.jobTiles (d : Device) (j : BitVec 16) : List (Fin 4160) :=
  d.tiles.filterMap fun e => if e.2.t.job = some j ∧ e.2.t.phase ≠ .idle then finTile e.1 else none

/-- A period of a TRESTLE job is cancelled: every unit of it (R550, R552). The first cause stands (R820). -/
def Device.cancelPeriod (d : Device) (j : BitVec 16) (st : Status) : Device :=
  match d.run j with
  | none => d
  | some r =>
    match r.period with
    | none => d
    | some p =>
      let ts := d.jobTiles j
      let d := ts.foldl Device.cancelTile d
      d.setRun j { r with
        period := some { p with cause := some (laterCause p.cause st d.hub) }
        phase := .cleaning
        stopWait := ts }

/-- R168, R183, R185: the period is withheld and the job stopped until a JOB_START (R552). -/
def Device.withholdStop (d : Device) (j : BitVec 16) (st : Status) : Device :=
  let d := d.cancelPeriod j st
  match d.run j with
  | none => d
  | some r => d.setRun j { r with barred := true }

/-- The job whose period a tile runs. -/
def Device.tileJob (d : Device) (t : Nat) : Option (BitVec 16) := (d.tile t).t.job

/-- A requester's job (R183, R185). -/
def Device.requesterJob (d : Device) : Requester → Option (BitVec 16)
  | .tile t => d.tileJob t
  | .job j => some j
  | .ingest _ => none
  | .slotChunk _ => none
  | .shelf => none
  | .bureau => none

/-- R185, R740: a job may use a Hook: its own, or one that its Plan lists as shared. -/
def Device.hookMine (d : Device) (j : BitVec 16) (h : Nat) : Bool :=
  match d.hooks.alloc.find h with
  | some a => match a.job with
    | none => (d.job j).any fun r => r.plan.handle == a.plan
    | some k => k == j
  | none => false

/-- R185: the Hook is allocated to the requester's job. Engines and the Bureau use the Hooks their descriptors
name, which PLAN_LOAD has checked (R740). -/
def Device.hookAllowed (d : Device) (who : Requester) (h : Nat) : Bool :=
  match who with
  | .tile t => match d.tileJob t with
    | some j => d.hookMine j h
    | none => false
  | _ => true

/-- A wait is satisfied: the tile's units resume with HOOK_WAIT_DONE (R188). -/
def TileState.release (x : TileState) (h n : Nat) : TileState :=
  let rec go : List WaitMark → List WaitMark
    | [] => []
    | w :: r => if w.sent && !w.released && w.hook == h && w.count == n then { w with released := true } :: r
                else w :: go r
  { x with r := { x.r with waits := go x.r.waits } }

/-- Released waiters resume (R188): a tile's units with HOOK_WAIT_DONE, an engine when it next looks at its WAIT. -/
def Device.resumeWaiter (d : Device) (h : Nat) (w : Waiter) : Device :=
  match w.who with
  | .tile t => d.setTile t ((d.tile t).release h w.n)
  | _ =>
    let x := d.hook h
    d.setHook h { x with granted := x.granted ++ [w] }

/-- SIGNAL n on Hook `h` by `who` (R182, R183, R185). R183 speaks of the signalling job: an overflowing SIGNAL by the Bureau or
by Ingest has none, and then the refused SIGNAL leaves the count as it is and withholds nobody's result (DESIGN CHOICE, log
entry 34). -/
def Device.signalHook (d : Device) (who : Requester) (h n : Nat) : Device :=
  if n = 0 then d
  else if !d.hookAllowed who h then
    match d.requesterJob who with
    | some j => d.withholdStop j stAccess
    | none => d
  else
    match (d.hook h).signal n with
    | none => match d.requesterJob who with
      | some j => d.withholdStop j stHookOverflow
      | none => d
    | some (x, gone) => gone.foldl (fun d w => d.resumeWaiter h w) (d.setHook h x)

/-- WAIT n (R181, R184). -/
def Device.waitHook (d : Device) (who : Requester) (h n : Nat) : Device :=
  if !d.hookAllowed who h then
    match d.requesterJob who with
    | some j => d.withholdStop j stAccess
    | none => d
  else
    match (d.hook h).wait ⟨who, n⟩ with
    | (x, .done) => (d.setHook h x).resumeWaiter h ⟨who, n⟩
    | (x, .queued) => d.setHook h x
    | (x, .refused) => d.setHook h { x with retry := x.retry ++ [(⟨who, n⟩, addT d.hub 256)] }

/-- An engine's WAIT (R181, R184): done when it finds its release or the count covers it; otherwise it stands in the wait list, or
among the refused that retry, until a SIGNAL releases it. -/
def Hook.engineWait (h : Hook) (w : Waiter) (retryAt : Time) : Hook × Bool :=
  if h.granted.contains w then ({ h with granted := h.granted.erase w }, true)
  else if h.waiters.contains w || h.retry.any fun q => q.1 == w then (h, false)
  else match h.wait w with
    | (x, .done) => (x, true)
    | (x, .queued) => (x, false)
    | (x, .refused) => ({ x with retry := x.retry ++ [(w, retryAt)] }, false)

/-- A hub engine waits on a Hook: true when its WAIT is done. -/
def Device.takeHook (d : Device) (who : Requester) (h n : Nat) : Device × Bool :=
  let r := (d.hook h).engineWait ⟨who, n⟩ (addT d.hub 256)
  (d.setHook h r.1, r.2)

/-- TRY n by an engine (R181). -/
def Device.tryHook (d : Device) (h n : Nat) : Device × Bool :=
  let r := (d.hook h).try n
  (d.setHook h r.1, r.2)

/-- A requester that has stopped waits on no Hook. -/
def Device.forgetWaits (d : Device) (who : Requester) : Device := { d with hooks := d.hooks.forgetWaits who }

/-- RESET of a Hook by the Bureau (R181). -/
def Device.resetHook (d : Device) (h : Nat) : Device := d.setHook h Hook.fresh

/-- Sets a Hook's count from the Plan (R551, R740). -/
def Device.initHook (d : Device) (h n : Nat) : Device := d.setHook h { Hook.fresh with count := n }

/-! ### Outbound records (R729, R778 to R783) -/

def nthOut (d : Device) (p : Nat) : OutPort :=
  nth d.ports.outs p { counts := PortCounts.reset, queue := [], wire := [], active := false, rate := 0 }

def Device.setOut (d : Device) (p : Nat) (o : OutPort) : Device :=
  { d with ports := { d.ports with outs := setAt d.ports.outs p o } }

/-- Body bytes of every packet but the last (R780). -/
def fullBody : Nat := 65504

/-- Long packets of a record (R780). -/
def packetsOf (n : Nat) : Nat := max 1 (ceilDiv n fullBody)

/-- The stream header of a packet (R783). -/
def streamHeader (r : OutRecord) (isPart : Bool) (t : Time) : Bytes :=
  natLE (mkImage [(0, 12, r.tag.toNat), (16, 8, r.kind.toNat), (24, 1, r.safe.toNat), (25, 1, r.conflict.toNat),
    (26, 1, isPart.toNat), (32, 32, r.seq.toNat), (64, 48, t.toNat), (112, 16, r.epoch.toNat)]) 16

/-- Sends the next packets of the head record when the wire is free (R780, R781). The wire holds one long packet,
with the Frame Start before the first and the Frame End after the last. -/
def OutPort.pump (o : OutPort) (portTime : Time) : OutPort :=
  if !o.wire.isEmpty then o else
  match o.queue with
  | [] => o
  | r :: rest =>
    let num := BitVec.ofNat 16 (r.seq.toNat % 65535 + 1)
    let t := r.time.getD portTime
    let chunk := (r.body.drop r.sent).take fullBody
    let last := r.body.length ≤ r.sent + chunk.length
    let body := OutPacket.long r.vc r.dt (streamHeader r (!last) t ++ chunk)
    let pre := if r.sent = 0 ∧ r.time.isNone then [OutPacket.frameStart r.vc num] else []
    let post := if last then [OutPacket.frameEnd r.vc num] else []
    { o with
      wire := pre ++ [body] ++ post
      active := true
      counts := { o.counts with packets := sat32 (o.counts.packets + 1) }
      queue := if last then rest else { r with sent := r.sent + chunk.length, time := some t } :: rest }

/-- Where a setpoint frame goes (R523): before every record of another producer whose packets are not being sent,
after earlier setpoint frames. -/
def insertSetpoint (r : OutRecord) : List OutRecord → List OutRecord
  | [] => [r]
  | q :: rest => if q.kind = 0x01 then q :: insertSetpoint r rest else r :: q :: rest

/-- Hands a record to its port (R729, R778, R781): discarded and counted while the outputs are disabled; dropped
where its tag has no binding. -/
def Device.sendRecord (d : Device) (r : OutRecord) : Device :=
  match d.ports.outBinds.find r.tag.toNat with
  | none => d
  | some (port, vc, dt) =>
    let o := nthOut d port
    let r := { r with vc, dt, safe := d.lect.safe }
    if !d.bur.win.outputsEnabled && !o.active then
      d.setOut port { o with counts := { o.counts with discarded := sat32 (o.counts.discarded + packetsOf r.body.length) } }
    else
      let q := if r.kind = 0x01 then insertSetpoint r o.queue else o.queue ++ [r]
      d.setOut port (OutPort.pump { o with queue := q } (d.counter (0x20 + port.val)))

/-- A record of a producer (R391, R529): its time is set when transmission begins. -/
def mkRecord (tag kind : Nat) (seq : BitVec 32) (epoch : BitVec 16) (conflict : Bool) (body : Bytes) : OutRecord :=
  { tag := BitVec.ofNat 12 tag, kind := BitVec.ofNat 8 kind, dt := 0, vc := 0, seq, epoch, safe := false, conflict,
    body, sent := 0, time := none }

/-! ### Drawers (R699 to R706) -/

def Device.drawer (d : Device) (n : Fin 64) : Drawer := nth d.bur.drawers n Drawer.reset

def Device.setDrawer (d : Device) (n : Fin 64) (x : Drawer) : Device :=
  { d with bur := { d.bur with drawers := setAt d.bur.drawers n x } }

/-- Ends a command (R702 step 5): the reply, STATE DONE and the Drawer's IBI. A reply longer than 240 bytes is kept
whole (R706). -/
def Device.reply (d : Device) (n : Fin 64) (st : Status) (bs : Bytes) : Device :=
  let x := d.drawer n
  let long := if bs.length > 240 then bs.take 65536 else []
  let held := match x.heldAt with
    | some t => min 16777215 (usBetween d.hub t)
    | none => x.heldUs
  let d := d.setDrawer n { x with state := .done, status := st, reply := bs.take 240, long, heldUs := held,
                                  heldAt := none, going := false }
  let d := { d with bur := { d.bur with queue := d.bur.queue.filter (· != n), holds := d.bur.holds.filter (· != n) } }
  d.win fun w => w.setIbi (BitVec.ofNat 8 n.val)

def Device.fail (d : Device) (n : Fin 64) (st : Status) : Device := d.reply n st []

/-- The parameters of a Drawer's command, as an image and as bytes (R700). -/
def Device.params (d : Device) (n : Fin 64) : Image := imageAt (d.drawer n).copy 16 240
def Device.paramBytes (d : Device) (n : Fin 64) : Bytes := slice (d.drawer n).copy 16 240

/-- OPCODE of a Drawer's command. -/
def Device.cmdOpcode (d : Device) (n : Fin 64) : Nat := CmdHdr.opcode (imageAt (d.drawer n).copy 0 16)

/-- Some Drawer other than `n` is BUSY or HELD. -/
def Device.othersBusy (d : Device) (n : Fin 64) : Bool :=
  (List.range 64).any fun i => i != n.val &&
    (match (nth d.bur.drawers i Drawer.reset).state with | .busy | .held => true | _ => false)

/-- A command with one of the opcodes is in progress in another Drawer. -/
def Device.inProgress (d : Device) (n : Fin 64) (ops : List Nat) : Bool :=
  (List.finRange 64).any fun i => i != n &&
    (match (d.drawer i).state with | .busy | .held => true | _ => false) && ops.contains (d.cmdOpcode i)

/-! ### Client counts (R568) -/

/-- Adds to count `k` of a client (0 STARTED, 1 COMPLETED, 2 LATE, 3 DROPPED, 4 FAILED). -/
def Device.count (d : Device) (client k n : Nat) : Device :=
  let c := nth d.jobs.clients client []
  { d with jobs := { d.jobs with clients := setAt d.jobs.clients client (setAt c k (sat32 (nth c k 0 + n))) } }

/-! ### Power domains (R579, R584) -/

def Device.dom (d : Device) (k : Nat) : DomState := nth d.pow.doms k .off
def Device.domOn (d : Device) (k : Nat) : Bool := match d.dom k with | .on _ => true | _ => false
def Device.setDom (d : Device) (k : Nat) (x : DomState) : Device :=
  { d with pow := { d.pow with doms := setAt d.pow.doms k x } }

/-- The Bureau switches a domain on when it is needed; one that is switching off completes first (R584). -/
def Device.needDom (d : Device) (k : Nat) : Device :=
  match d.dom k with
  | .off => d.setDom k (.goingOn d.hub)
  | .on _ => d.setDom k (.on none)
  | .goingOff t _ => d.setDom k (.goingOff t true)
  | .goingOn _ => d

/-- Persisted records changed (R127, R635): to be written within 100 ms. -/
def Device.persist (d : Device) : Device :=
  { d with bur := { d.bur with persistDue := some (d.bur.persistDue.getD (addT d.hub (usHub 100000))) } }

end Sys2Proof.Machine
end

