-- ==== Sys2Proof/Machine/Flags.lean ====
section
/-!
DEFINITION. The status and flag words that the host reads: the host window (R695 to R701, R709), the safe-cause
word (R687), and the checks of a command in the order of R704.
-/

namespace Sys2Proof.Machine

def boolBit (b : Bool) (i : Nat) : Nat := if b then 2 ^ i else 0

/-- IF_VER (R697). -/
def Device.ifVer (d : Device) : Nat :=
  mkImage [(0, 8, 1), (8, 8, Config.fwMinorMin.toNat), (16, 8, Config.fwMinorMax.toNat),
           (24, 8, d.bur.win.minorNeg.toNat)]

/-- CONFIG_STATE (R698). -/
def Device.configState (d : Device) : Nat :=
  let w := d.bur.win
  w.step.toNat + boolBit w.calFault 4 + boolBit w.memFault 5 + boolBit w.checkerFault 6 + boolBit w.lecternFault 7
    + boolBit w.planFault 8 + boolBit w.sigFault 9 + w.lastStatus.toNat * 2 ^ 16

/-- The safe-cause word (R687). -/
def Device.safeCauseWord (d : Device) : Nat :=
  d.lect.causes.toNat + d.lect.firstStatus.toNat * 2 ^ 32 + d.lect.firstSource.toNat * 2 ^ 48

/-- EVENT_SUMMARY (R709). -/
def Device.eventSummary (d : Device) : Nat :=
  let w := d.bur.win
  w.events.length + boolBit w.overflow 16 + w.lost * 2 ^ 32

/-- LAST of HOST_ERR (R703). -/
def HostErr.code : HostErr → Nat
  | .none => 0 | .writeTooLong => 1 | .cmdAreaBusy => 2 | .doorbellBusy => 3 | .popMismatch => 4

def Device.hostErr (d : Device) : Nat := d.bur.win.hostErrCount + HostErr.code d.bur.win.hostErrLast * 2 ^ 16

/-- An event record as it appears at EVENT_HEAD (R708). -/
def Event.image (e : Event) : Image :=
  mkImage [(0, 32, e.seq.toNat), (32, 16, e.status.toNat), (48, 4, e.kind.toNat), (52, 2, e.severity.toNat),
           (64, 16, e.source.toNat), (96, 48, e.time.toNat), (144, 112, e.detail.toNat)]

/-- STATE of a Drawer as a code (R701). -/
def DrawerState.code : DrawerState → Nat
  | .idle => 0 | .busy => 1 | .done => 2 | .held => 3

/-- The reply header (R701). Fields other than STATE and STATUS are valid only while the Drawer is DONE: while it is BUSY or HELD they
are free values. -/
def Drawer.replyHeader (x : Drawer) : Image :=
  let hdr := imageAt x.copy 0 16
  let done := x.state == .done
  let idle := x.state == .idle
  let v (k n : Nat) : Nat := if done then n else if idle then 0 else Config.replyOpen x.accepted k
  mkImage [(0, 2, x.state.code), (8, 8, v 8 x.reply.length), (16, 16, x.status.toNat), (32, 32, v 32 (CmdHdr.seq hdr)),
           (64, 16, v 64 (CmdHdr.opcode hdr)), (80, 17, v 80 x.long.length), (104, 24, v 104 x.heldUs)]

/-- Drawers in a state, as a mask (DRAWER_DONE, DRAWER_BUSY). -/
def Device.drawerMask (d : Device) (p : DrawerState → Bool) : Nat :=
  (List.range 64).foldl (fun m i => if p (nth d.bur.drawers i Drawer.reset).state then m + 2 ^ i else m) 0

/-- FW_VERSION of the running image (R695, R758); 0 in recovery (R764). -/
def Device.fwVersion (d : Device) : Nat :=
  if d.pow.phase = .recovery then 0 else FwHdr.fwVersion (imageAt d.bur.fwImage 0 128)

/-- The 4,096 bytes of registers as (address, length, value) fields (R695). -/
def Device.windowFields (d : Device) : List (Nat × Nat × Nat) :=
  let rec' := d.pow.phase = .recovery
  [(0x00, 4, Config.identityCode.toNat), (0x04, 4, 0x42), (0x08, 4, d.fwVersion),
   (0x0C, 4, if rec' then 0 else d.ifVer), (0x10, 8, Config.serial.toNat), (0x20, 4, d.statusReg.toNat),
   (0x24, 4, d.configState), (0x30, 8, d.safeCauseWord), (0x38, 8, d.lect.digest.toNat),
   (0x48, 8, d.drawerMask (· == .done)), (0x50, 8, d.drawerMask fun s => s == .busy || s == .held),
   (0x58, 8, d.eventSummary), (0x60, 4, d.hostErr),
   (0x80, 32, (d.bur.win.events.head?.map Event.image).getD 0)]

/-- The bits that R700 reserves read as zero (R7); the check of R9 sees them as they were written. -/
def headerByte (o : Nat) (b : Byte) : Byte :=
  if o = 0 then b &&& 0x0F else if o = 3 ∨ (9 ≤ o ∧ o < 16) then 0 else b

/-- The byte that a private read returns at a window address (R692, R695, R699). -/
def Device.windowByte (d : Device) (a : Nat) : Byte :=
  if a < 0x1000 then
    match d.windowFields.find? fun f => f.1 ≤ a && a < f.1 + f.2.1 with
    | some f => BitVec.ofNat 8 (f.2.2 / 256 ^ (a - f.1))
    | none => 0
  else if a < 0x9000 ∧ d.pow.phase ≠ .recovery then
    let x := nth d.bur.drawers ((a - 0x1000) / 512) Drawer.reset
    let o := (a - 0x1000) % 512
    if o < 256 then headerByte o (nth x.area o 0)
    else if o < 272 then BitVec.ofNat 8 (x.replyHeader / 256 ^ (o - 256))
    else nth x.reply (o - 272) 0
  else 0

/-! ### The checks of R704 -/

/-- What R713 says of a command: parameter bytes, the Rdy column (true: R), the record versions to check (high
bit, low bit) and the reserved fields of the parameters. -/
structure CmdSpec where
  size : Nat
  rdy : Bool
  vers : List (Nat × Nat)
  rsvd : List (Nat × Nat)
  deriving DecidableEq, Repr

def shiftFields (k : Nat) (fs : List (Nat × Nat)) : List (Nat × Nat) := fs.map fun f => (f.1 + k, f.2 + k)

def bulkAt (k : Nat) : List (Nat × Nat) := shiftFields k BulkRef.rsvd

/-- The table of R713. -/
def cmdSpec : Nat → Option CmdSpec
  | 0x0001 => some ⟨8, false, [], [(63, 24)]⟩
  | 0x0002 => some ⟨8, false, [], [(63, 17)]⟩
  | 0x0101 => some ⟨48, false, [], [(31, 2), (127, 64)] ++ bulkAt 128⟩
  | 0x0102 => some ⟨8, true, [], [(63, 24)]⟩
  | 0x0103 => some ⟨8, false, [], [(63, 17)]⟩
  | 0x0104 => some ⟨0, false, [], []⟩
  | 0x0105 => some ⟨32, true, [(3, 0)], PartRec.rsvd⟩
  | 0x0106 => some ⟨8, true, [], [(63, 1)]⟩
  | 0x0201 => some ⟨8, true, [], [(63, 16)]⟩
  | 0x0202 => some ⟨8, true, [], [(63, 16)]⟩
  | 0x0203 => some ⟨8, true, [], [(15, 8), (63, 32)]⟩
  | 0x0301 => some ⟨80, true, [(3, 0)], StreamDesc.rsvd⟩
  | 0x0302 => some ⟨8, true, [], [(63, 17)]⟩
  | 0x0303 => some ⟨8, true, [], [(23, 23), (31, 30), (63, 32)]⟩
  | 0x0304 => some ⟨16, true, [(3, 0)], GroupRec.rsvd⟩
  | 0x0401 => some ⟨16, true, [], [(63, 19), (127, 120)]⟩
  | 0x0402 => some ⟨8, true, [], [(63, 16)]⟩
  | 0x0403 => some ⟨8, true, [], [(63, 16)]⟩
  | 0x0404 => some ⟨8, true, [], [(63, 32)]⟩
  | 0x0405 => some ⟨8, true, [], [(63, 12)]⟩
  | 0x0406 => some ⟨8, true, [], [(63, 12)]⟩
  | 0x0407 => some ⟨8, true, [], [(63, 12)]⟩
  | 0x0501 => some ⟨32, true, [], BulkRef.rsvd⟩
  | 0x0502 => some ⟨48, true, [], [(127, 16)] ++ bulkAt 128⟩
  | 0x0503 => some ⟨8, true, [], [(63, 16)]⟩
  | 0x0504 => some ⟨48, true, [], [(63, 3), (127, 112)] ++ bulkAt 128⟩
  | 0x0505 => some ⟨8, true, [], [(63, 19)]⟩
  | 0x0506 => some ⟨16, true, [], [(63, 16), (127, 112)]⟩
  | 0x0601 => some ⟨8, false, [], [(15, 4), (63, 48)]⟩
  | 0x0602 => some ⟨240, false, [], [(15, 5), (63, 48)] ++ bulkAt 64⟩
  | 0x0603 => some ⟨32, false, [(3, 0)], PolRec.rsvd⟩
  | 0x0604 => some ⟨0, false, [], []⟩
  | 0x0605 => some ⟨0, true, [], []⟩
  | 0x0606 => some ⟨8, false, [], [(63, 24)]⟩
  | 0x0701 => some ⟨32, false, [(3, 0)], LimRec.rsvd⟩
  | 0x0702 => some ⟨0, false, [], []⟩
  | 0x0703 => some ⟨8, false, [], [(63, 5)]⟩
  | 0x0704 => some ⟨8, false, [], [(63, 5)]⟩
  | 0x0705 => some ⟨8, false, [], [(63, 26)]⟩
  | 0x0706 => some ⟨8, false, [], [(63, 1)]⟩
  | 0x0707 => some ⟨8, false, [], [(63, 3)]⟩
  | 0x0801 => some ⟨48, false, [], [(127, 1)] ++ bulkAt 128⟩
  | 0x0802 => some ⟨32, false, [], []⟩
  | 0x0803 => some ⟨0, false, [], []⟩
  | 0x0804 => some ⟨8, false, [], [(63, 2)]⟩
  | _ => none

/-- R714: commands allowed while STANDBY is set. -/
def standbyOk : List Nat := [0x0001, 0x0002, 0x0706, 0x0702, 0x0606]

/-- Fields that must be zero in one case: BULK_REF of PLAN_LOAD with FROM_STORE and of CAL_WRITE with INLINE (R713), and an OUT_FMT
of STREAM_BIND that R134 does not name (R11). -/
def condRsvd (op : Nat) (p : Image) : List (Nat × Nat) :=
  if op = 0x0301 ∧ 12 ≤ StreamDesc.outFmt p then [(203, 200)]
  else if op = 0x0101 ∧ bitAt p 1 then [(383, 128)] else if op = 0x0602 ∧ bitAt p 4 then [(319, 64)] else []

/-- Steps 1 to 7 of R704: the status of the first failure. -/
def Device.checkCommand (d : Device) (n : Fin 64) : Option Status :=
  let hdr := imageAt (d.drawer n).copy 0 16
  let op := CmdHdr.opcode hdr
  let p := d.params n
  if CmdHdr.fmtVer hdr ≠ 1 then some stVersion
  else if !d.bur.win.negotiated ∧ op ≠ 0x0001 then some stVersion
  else match cmdSpec op with
  | none => some stReserved
  | some c =>
    if c.vers.any fun v => fld p v.1 v.2 != 1 then some stVersion
    else if !rsvdZero hdr CmdHdr.rsvd || !rsvdZero p c.rsvd || !rsvdZero p (condRsvd op p) then some stReserved
    else if CmdHdr.len hdr ≠ c.size then some stConfig
    else if (c.rdy && !d.bur.win.ready) || (d.bur.win.standby && !standbyOk.contains op)
      || ((op == 0x0706 || op == 0x0707) && d.othersBusy n) then some stBusy
    else none

/-- Holds a command (R577, R578). -/
def Device.hold (d : Device) (n : Fin 64) : Device :=
  let x := d.drawer n
  let d := d.setDrawer n { x with state := .held, heldAt := some (x.heldAt.getD d.hub) }
  if d.bur.holds.contains n then d else { d with bur := { d.bur with holds := d.bur.holds ++ [n] } }

/-- What a command acts on, as far as R578 orders it: a job (0), an inbound or outbound stream (1, 2), a partition (3), the
outputs (4). -/
def cmdObjects (op : Nat) (p : Image) : List (Nat × Nat) :=
  let parts (mask : Nat) : List (Nat × Nat) := ((List.range 8).filter fun i => bitAt mask i).map fun i => (3, i)
  match op with
  | 0x0102 => parts (fld p 23 16)
  | 0x0105 => [(3, PartRec.part p)]
  | 0x0106 => [(4, 0)]
  | 0x0201 => [(0, fld p 15 0)]
  | 0x0202 => [(0, fld p 15 0)]
  | 0x0203 => parts (fld p 7 0)
  | 0x0301 => [(1, StreamDesc.tag p)]
  | 0x0302 => [(if bitAt p 16 then 2 else 1, fld p 15 0)]
  | 0x0303 => [(2, fld p 15 0)]
  | _ => []

/-- An earlier command among `ms` is held for something that the command of Drawer `n` acts on (R578). -/
def Device.heldBefore (d : Device) (n : Fin 64) (ms : List (Fin 64)) : Bool :=
  let mine := cmdObjects (d.cmdOpcode n) (d.params n)
  ms.any fun m => m != n && (cmdObjects (d.cmdOpcode m) (d.params m)).any mine.contains

/-- The command row of a Drawer: the Bureau takes commands in the order of their doorbells (R707), checks them
(R704) and carries them out, after the held commands that act on the same job, stream or partition (R578). A row that
is not the next command leaves the device as it stands. -/
def Device.command (d : Device) (n : Fin 64) (op : Nat) (eff : Device → Device) : Device :=
  if d.bur.queue.head? = some n ∧ (d.drawer n).state = .busy ∧ d.cmdOpcode n = op then
    let d := { d with bur := { d.bur with queue := d.bur.queue.tail } }
    let d := d.setDrawer n { d.drawer n with accepted := d.hub }
    match d.checkCommand n with
    | some st => d.fail n st
    | none => if d.heldBefore n d.bur.holds then d.hold n else eff d
  else d

/-- The command goes on, waiting on units or bulk data; its Drawer stays BUSY (R702). -/
def Device.goOn (d : Device) (n : Fin 64) : Device := d.setDrawer n { d.drawer n with state := .busy, going := true }

/-- A meaning's shell for a Drawer command: it acts while the Bureau runs (R580, R725). -/
def State.drawerCommand (s : State) (now : Time) (n : Fin 64) (op : Nat) (eff : Device → Device) :
    Host.Outcome State Fault Refusal :=
  s.onAlive now fun d => d.command n op eff

/-- A bulk command arms its transfer at step 3 (R716, R719): the parameters' BULK_REF and the limit of R716. -/
def Device.armBulk (d : Device) (n : Fin 64) (ref : Image) (limit : Nat) (dest : Option (Fin 8 × Nat × Nat)) : Device :=
  let len := BulkRef.length ref
  if BulkRef.port ref > 11 ∨ BulkRef.tag ref > 4095 ∨ len = 0 then d.fail n stConfig
  else if limit < len then d.fail n stLimit
  else if (d.ing.streams.find (BulkRef.tag ref)).isSome ∨ (d.ing.feedback.find (BulkRef.tag ref)).isSome then
    d.fail n stConfig
  else if d.bur.bulk.any fun b => b.port == BulkRef.port ref && b.vc == BulkRef.vc ref && b.tag == BulkRef.tag ref
      && b.seq == BulkRef.seq ref then d.fail n stConfig
  else if d.bur.bulk.length ≥ 16 then d.fail n stOverrun
  else
    let b : Bulk :=
      { drawer := n, port := BulkRef.port ref, vc := BulkRef.vc ref, tag := BulkRef.tag ref, seq := BulkRef.seq ref,
        length := len, timeoutMs := if BulkRef.timeoutMs ref = 0 then 100 else BulkRef.timeoutMs ref,
        crc := BitVec.ofNat 32 (BulkRef.crc ref), got := [], last := d.hub, dest }
    ({ d with bur := { d.bur with bulk := d.bur.bulk ++ [b] } }.goOn n).needDom (0x20 + BulkRef.port ref)

end Sys2Proof.Machine
end

