-- ==== Sys2Proof/Machine/Cal.lean ====
section
/-!
DEFINITION. The calibration set (R360 to R362, R645, R672, R744 to R749): its records, CAL_READ and CAL_WRITE.
-/

namespace Sys2Proof.Machine

/-- Bytes of a record of each section. -/
def calSize (sec : Nat) : Nat := nth [80, 8, 16, 8, 8, 8] sec 0

/-- Records that a section holds at most; sections 0x4 and 0x5 have one per unit and counter, and one per stream tag
(log entry 48). -/
def calLimit (sec : Nat) : Nat := nth [512, 256, 16, 144, 4096, 4096] sec 0

def calKey (sec i : Nat) : Nat := sec * 65536 + i

/-- The complete copy with the newer sequence number (R645). -/
def NonVolatile.calCurrent (v : NonVolatile) : Option CalCopy :=
  if v.calA.complete ∧ (!v.calB.complete ∨ v.calB.seq < v.calA.seq) then some v.calA
  else if v.calB.complete then some v.calB else none

def padTo (n : Nat) (b : Bytes) : Bytes := (b ++ List.replicate n 0).take n

/-- Record `i` of a section (R744, R745); none where the section holds no such record. -/
def Device.calRec (d : Device) (sec i : Nat) : Option Bytes :=
  if calLimit sec ≤ i then none else
  match d.bur.nv.calCurrent with
  | some c => match c.recs.find (calKey sec i) with
    | some b => some b
    | none => let b := Config.factoryCal sec i
              if b.isEmpty then none else some (padTo (calSize sec) b)
  | none =>
    if sec < 2 then none else if sec = 5 then some (List.replicate 8 0)
    else some (padTo (calSize sec) (Config.factoryCal (16 + sec) i))

/-- The records of a section, with their numbers. -/
def Device.calRecs (d : Device) (sec : Nat) : List (Nat × Image) :=
  (List.range (calLimit sec)).filterMap fun i => (d.calRec sec i).map fun b => (i, leNat b)

/-- The PHY settings record of a port, 0 to 11 or 16 to 19 (R746). -/
def Device.portSetting (d : Device) (port : Nat) : BitVec 128 :=
  (((d.calRecs 2).find? fun e => fld e.2 4 0 == port).map fun e => BitVec.ofNat 128 e.2).getD 0

/-- The test-line signature of a stream (R672). -/
def Device.testLine (d : Device) (tag : Nat) : Option (BitVec 32) :=
  ((d.calRecs 1).find? fun e => fld e.2 15 0 == tag).map fun e => BitVec.ofNat 32 (fld e.2 63 32)

/-- The timing offset of a stream (R749). -/
def Device.timingOffset (d : Device) (tag : Nat) : Int :=
  (((d.calRecs 5).find? fun e => fld e.2 15 0 == tag).map fun e => sfld e.2 63 32).getD 0

/-! ### Checks (R9, R360 to R362, R672, R746 to R749) -/

/-- |‖x‖ − 1| > 10⁻⁵, exactly. -/
def offUnitNorm (x : List F32) : Bool :=
  let s := x.foldl (fun a v => FVal.add a (FVal.mul (f32v v) (f32v v))) (FVal.ofInt 0)
  let t := FVal.mul s (.ofInt 10000000000)
  FVal.cmp t (.ofInt 10000200001) == some .gt || FVal.cmp t (.ofInt 9999800001) == some .lt

/-- R361: which of NOISE must be positive; the rest must be 0.0. -/
def noiseNeeded (kind : Nat) : Nat := if kind = 0 then 4 else if kind = 1 then 3 else 0

def sensorOk (i : Nat) (x : Image) : Bool :=
  let k := SensRec.kind x
  SensRec.id x == i && k < 4 && i < 512
    && ([SensRec.gate x] ++ SensRec.rot x ++ SensRec.trans x ++ SensRec.noise x ++ SensRec.intrinsics x).all F32.isFinite
    && (SensRec.noise x).zipIdx.all (fun n => if n.2 < noiseNeeded k then F32.gt n.1 0 else F32.isZero n.1)
    && !offUnitNorm (SensRec.rot x)

/-- Reserved fields of a section's records. -/
def calRsvd (sec : Nat) : List (Nat × Nat) :=
  match sec with
  | 0 => SensRec.rsvd
  | 1 => [(31, 16)]
  | 2 => [(7, 5), (127, 48)]
  | 3 => [(15, 8), (63, 48)]
  | 4 => [(31, 12)]
  | _ => [(31, 16)]

/-- Ranges of a section's records. -/
def calRangeOk (sec i : Nat) (x : Image) : Bool :=
  match sec with
  | 0 => sensorOk i x
  | 2 => fld x 4 0 ≤ 11 || (16 ≤ fld x 4 0 && fld x 4 0 ≤ 19)
  | 3 => fld x 7 0 ≤ 143
  | 4 => F32.isFinite (BitVec.ofNat 32 (fld x 63 32))
  | 5 => fld x 15 0 ≤ 4095
  | _ => true

/-- R362: some record of the set would name the stream of another's IMU or WHEEL. -/
def Device.tagClash (d : Device) (new : List (Nat × Image)) : Bool :=
  let old := (d.calRecs 0).filter fun e => !new.any fun n => n.1 == e.1
  let all := old ++ new
  new.any fun n => all.any fun e => e.1 != n.1 && SensRec.tag e.2 == SensRec.tag n.2 && SensRec.kind e.2 < 2

/-- Writes records into the older copy and makes it current (R645, R744). -/
def NonVolatile.writeCal (v : NonVolatile) (sec first : Nat) (recs : List Bytes) : NonVolatile :=
  let base := (v.calCurrent.map (·.recs)).getD []
  let next := (max v.calA.seq v.calB.seq) + 1
  let c : CalCopy := { seq := next, complete := true
                       recs := recs.zipIdx.foldl (fun t e => t.put (calKey sec (first + e.2)) e.1) base }
  if v.calA.seq ≤ v.calB.seq ∨ !v.calA.complete then { v with calA := c } else { v with calB := c }

/-- Carries out a CAL_WRITE whose records have arrived, whole or not at all. -/
def Device.putCal (d : Device) (n : Fin 64) (bs : Bytes) : Device :=
  let p := d.params n
  let sec := fld p 3 0
  let first := fld p 31 16
  let count := fld p 47 32
  let size := calSize sec
  let recs := (List.range count).map fun i => slice bs (size * i) size
  let imgs := recs.zipIdx.map fun r => (first + r.2, leNat r.1)
  if imgs.any fun x => !rsvdZero x.2 (calRsvd sec) then d.fail n stReserved
  else if imgs.any (fun x => !calRangeOk sec x.1 x.2) || (sec == 0 && d.tagClash imgs) then d.fail n stConfig
  else ({ d with bur := { d.bur with nv := d.bur.nv.writeCal sec first recs } }).reply n stOk []

/-- CAL_WRITE (R744): inline records, or bulk data. -/
def Device.calWrite (d : Device) (n : Fin 64) : Device :=
  let p := d.params n
  let sec := fld p 3 0
  let count := fld p 47 32
  let len := count * calSize sec
  if 5 < sec ∨ count = 0 ∨ calLimit sec < fld p 31 16 + count then d.fail n stConfig
  else if bitAt p 4 then
    if 200 < len then d.fail n stLimit else d.putCal n (slice (d.paramBytes n) 40 len)
  else if BulkRef.length (fld p 319 64) ≠ len then d.fail n stConfig
  else d.armBulk n (fld p 319 64) 4194304 none

/-- A section 0x4 record as CAL_READ returns it (R748): the running weight. -/
def Device.runningWeight (d : Device) (b : Bytes) : Bytes :=
  let x := leNat b
  match d.pow.gov.weights.find (fld x 7 0 * 16 + fld x 11 8) with
  | some w => natLE (mkImage [(0, 32, x), (32, 32, w.toNat)]) 8
  | none => b

/-- CAL_READ (R713, R748); a record that the section does not hold reads as zeros. -/
def Device.calRead (d : Device) (n : Fin 64) : Device :=
  let p := d.params n
  let sec := fld p 3 0
  let first := fld p 31 16
  let count := fld p 47 32
  if 5 < sec ∨ count = 0 ∨ calLimit sec < first + count then d.fail n stConfig
  else
    d.reply n stOk ((List.range count).flatMap fun i =>
      let b := (d.calRec sec (first + i)).getD (List.replicate (calSize sec) 0)
      if sec = 4 then d.runningWeight b else b)

/-- CAL_READ (R713). -/
def execCalRead (now : Time) (drawer : Fin 64) (s : State) : Host.Outcome State Fault Refusal :=
  s.drawerCommand now drawer 0x0601 fun d => d.calRead drawer

/-- CAL_WRITE (R744). -/
def execCalWrite (now : Time) (drawer : Fin 64) (s : State) : Host.Outcome State Fault Refusal :=
  s.drawerCommand now drawer 0x0602 fun d => d.calWrite drawer

end Sys2Proof.Machine
end

