-- ==== Sys2Proof/Machine/Ports.lean ====
section
/-!
DEFINITION. The CSI-2 input ports (R259, R265, R772 to R774, R783 to R788): what happens to every packet before it
reaches its consumer, the short packets without a consumer, and skew calibration.
-/

namespace Sys2Proof.Machine

def Device.inPort (d : Device) (p : Nat) : PortCounts := nth d.ports.ins p PortCounts.reset
def Device.setIn (d : Device) (p : Nat) (c : PortCounts) : Device :=
  { d with ports := { d.ports with ins := setAt d.ports.ins p c } }

/-- An input port is powered: its domain is on (R579). -/
def Device.inPowered (d : Device) (p : Nat) : Bool := d.domOn (0x20 + p)

/-- Header check of a received packet (R259): none when it is dropped for an uncorrectable header. -/
def Device.header (d : Device) (port : Fin 12) (ecc : Ecc) : Device × Bool :=
  let c := d.inPort port.val
  match ecc with
  | .ok => (d, true)
  | .corrected => (d.setIn port.val { c with hdrCorrected := sat32 (c.hdrCorrected + 1) }, true)
  | .bad => (d.setIn port.val { c with hdrDropped := sat32 (c.hdrDropped + 1) }, false)

def Device.countUnbound (d : Device) (port : Fin 12) : Device :=
  let c := d.inPort port.val
  d.setIn port.val { c with unbound := sat32 (c.unbound + 1) }

def Device.countHeaderError (d : Device) (port : Fin 12) : Device :=
  let c := d.inPort port.val
  d.setIn port.val { c with headerErrors := sat32 (c.headerErrors + 1) }

/-- Data types that R772 lists for inputs. -/
def inDtOk (dt : Nat) : Bool :=
  dt ≤ 0x0F || dt == 0x12 || dt == 0x1E || dt == 0x24 || (0x2A ≤ dt && dt ≤ 0x2F) || (0x33 ≤ dt && dt ≤ 0x37)

/-- The KIND values of an inbound data type (R782, R784, R785). -/
def kindOk (dt kind : Nat) : Bool :=
  match dt with
  | 0x33 => kind == 0x01
  | 0x34 => kind == 0x10 || kind == 0x11 || kind == 0x12 || kind == 0x13
  | 0x35 => kind == 0x60
  | 0x36 => kind == 0x61
  | 0x37 => kind == 0x50
  | _ => false

/-- How far a long packet has come through its port. -/
inductive Arrival where
  /-- Dropped and counted, or not received. -/
  | gone
  /-- Dropped for a bad CRC (R259). -/
  | badCrc
  /-- A header with a reserved field set or a KIND of another data type (R785): the header and whether the KIND
  is the fault. -/
  | badHeader (hdr : Image) (kind : Bool)
  /-- Accepted, with its stream header where its data type has one. -/
  | ok (hdr : Image)
  deriving DecidableEq, Repr

/-- The port's part in a long packet: power, header ECC, packet count, data type, CRC, stream header. -/
def Device.arrive (d : Device) (p : Pkt) : Device × Arrival :=
  if !d.inPowered p.port.val then (d, .gone) else
  let d := d.portAt (0x10 + p.port.val) p.portTime
  match d.header p.port p.ecc with
  | (d, false) => (d, .gone)
  | (d, true) =>
    let c := d.inPort p.port.val
    let d := d.setIn p.port.val { c with packets := sat32 (c.packets + 1) }
    if !inDtOk p.dt.toNat then (d.countUnbound p.port, .gone)
    else if !p.crcOk then
      let c := d.inPort p.port.val
      (d.setIn p.port.val { c with crcErrors := sat32 (c.crcErrors + 1) }, .badCrc)
    else if p.dt.toNat < 0x30 then (d, .ok 0)
    else if p.payload.length < 16 then (d.countHeaderError p.port, .gone)
    else
      let h := imageAt p.payload 0 16
      if !rsvdZero h StrHdr.rsvd then (d.countHeaderError p.port, .badHeader h false)
      else if !kindOk p.dt.toNat (StrHdr.kind h) then (d.countHeaderError p.port, .badHeader h true)
      else (d, .ok h)

/-- LINE_SHORT_PACKET (R773): Line Start and Line End are accepted and ignored. -/
def execLineShortPacket (now : Time) (p : ShortPkt) (s : State) : Host.Outcome State Fault Refusal :=
  s.onUp now fun d => if d.inPowered p.port.val then ((d.portAt (0x10 + p.port.val) p.portTime).header p.port p.ecc).1 else d

/-- GENERIC_SHORT_PACKET (R788): recorded in the port's counters; no unit acts on it. -/
def execGenericShortPacket (now : Time) (p : ShortPkt) (s : State) : Host.Outcome State Fault Refusal :=
  s.onUp now fun d =>
    if !d.inPowered p.port.val then d else
    match (d.portAt (0x10 + p.port.val) p.portTime).header p.port p.ecc with
    | (d, false) => d
    | (d, true) =>
      let c := d.inPort p.port.val
      d.setIn p.port.val { c with shorts := sat32 (c.shorts + 1), lastDt := p.dt, lastVc := p.vc, lastData := p.data,
                                  lastTime := p.portTime }

/-- INPUT_SKEW_CALIBRATION (R772, R774): the lanes that complete the port's first high-speed entry are the lanes
in use until it next powers on; DESKEWED tells that an initial calibration has completed. -/
def execInputSkewCalibration (now : Time) (port : Fin 12) (lanes : BitVec 3) (deskewed : Bool) (s : State) :
    Host.Outcome State Fault Refusal :=
  s.onUp now fun d =>
    if !d.inPowered port.val then d else
    let c := d.inPort port.val
    d.setIn port.val { c with lanes := if c.lanes = 0 then lanes else c.lanes, deskewed := c.deskewed || deskewed }

/-- OUTPUT_SKEW_CALIBRATION (R772): sent after power-on and every 1 s while the port is idle; the port transmits
on four lanes (R775). -/
def execOutputSkewCalibration (now : Time) (port : Fin 4) (s : State) : Host.Outcome State Fault Refusal :=
  s.onUp now fun d =>
    let o := nthOut d port.val
    if d.domOn (0x2C + port.val) ∧ d.bur.win.outputsEnabled ∧ o.wire = [] ∧ o.queue = [] then
      d.setOut port.val { o with counts := { o.counts with lanes := 4, deskewed := true } }
    else d

/-- Once the outputs are disabled, a port enters LP-11 when its last queued frame has left and no Control Engine slot
that still owes its last frame (R531) sends on it (R731, R729). -/
def Device.settlePorts (d : Device) : Device :=
  if d.bur.win.outputsEnabled then d else
  let owed (p : Nat) : Bool := d.ce.slots.any fun e => e.2.running &&
    (match d.ceDesc e.1 with
     | some x => match d.ports.outBinds.find (CeDesc.outStream x) with
       | some b => b.1.val == p
       | none => false
     | none => false)
  (List.range 4).foldl (fun d p =>
    let o := nthOut d p
    if o.wire = [] ∧ o.queue = [] ∧ !owed p then d.setOut p { o with active := false } else d) d

/-- OUTPUT_PORT_FREE (R523, R731, R781): the packet on the wire has left. The next one follows; a port whose
outputs have been disabled enters LP-11 once its last queued frame has left. -/
def execOutputPortFree (now : Time) (port : Fin 4) (portTime : Time) (s : State) :
    Host.Outcome State Fault Refusal :=
  s.onUp now fun d =>
    let d := d.portAt (0x20 + port.val) portTime
    let o := nthOut d port.val
    if o.wire = [] then d
    else
      (d.setOut port.val (OutPort.pump { o with wire := [] } portTime)).settlePorts

/-- CLEAR zeroes every field except LANES, PHY and DESKEWED (R788); the settings in force are no count. -/
def PortCounts.cleared (c : PortCounts) : PortCounts :=
  { PortCounts.reset with lanes := c.lanes, phy := c.phy, deskewed := c.deskewed, setting := c.setting }

end Sys2Proof.Machine
end

