-- ==== Sys2Proof/Machine/Control.lean ====
section
/-!
DEFINITION. The Control Engine (R501 to R534): slots, period generators, the input latch, the dual computation and
the setpoint frames.
-/

namespace Sys2Proof.Machine

/-! ### Fixed-point arithmetic (R506 to R509, R514) -/

/-- One matrix-vector row (R507): exact sum, one rounding by 2^g, reduced modulo 2^32. -/
def ceRow (coefs sigs : List Int) (g : Nat) : Int :=
  wrap32 (roundDiv ((List.zipWith (· * ·) coefs sigs).foldl (· + ·) 0) (2 ^ g))

/-- Row `i` of array `k` (R504) with `w` columns. -/
def ceCoefs (x : Image) (k w i : Nat) : List Int := (List.range w).map fun j => CeDesc.coef x k w i j

/-- Rows of two adjoining matrices times two vectors: element i is row i of [A B] · (u, v). -/
def ceRows (x : Image) (rows k1 w1 k2 w2 : Nat) (u v : List Int) : List Int :=
  (List.range rows).map fun i => ceRow (ceCoefs x k1 w1 i ++ ceCoefs x k2 w2 i) (u ++ v) (CeDesc.coefFrac x)

/-- What one half computes in a period (R509, R524): y = Cx + Du, x' = Ax + Bu, ŵ = Hz + Jy, z' = Fz + Gy. -/
def ceCompute (c : Image) (x z u : List Int) : CeVectors :=
  let n := CeDesc.n c; let p := CeDesc.p c; let m := CeDesc.m c; let q := CeDesc.q c; let r := CeDesc.r c
  let y := ceRows c m 4 n 5 p x u
  { y, x := ceRows c n 2 n 3 p x u, z := ceRows c q 6 q 7 m z y, w := ceRows c r 8 q 9 m z y }

/-- A FEEDBACK or SLOT value at the latch (R514). -/
def ceShift (v : Int) (f inFrac : Nat) : Int :=
  if inFrac ≤ f then wrap32 (v * 2 ^ (f - inFrac)) else wrap32 (roundDiv v (2 ^ (inFrac - f)))

/-- A SOLVER value at the latch (R514): rounded to nearest even and saturated; a NaN, for which R514 gives no
value, is a free value (log entry 31). -/
def ceFromFloat (v : F32) (f : Nat) : Int :=
  match FVal.mul (f32v v) (.fin false 1 f) with
  | .nan => (Config.nanSignal v f).toInt
  | .inf s => if s then -2147483648 else 2147483647
  | w => satInt 32 ((FVal.toInt w).getD 0)

/-! ### Slots -/

def CeInput.fresh0 : CeInput :=
  { buffer := 0, fresh := false, value := 0, stale := true, staleCount := 0, ever := false, lastSeq := none, held := none }

def Generator.start (t : Time) : Generator := { last := t, first := true, due := none, missed := 0, notified := false }

def CeSlot.idle : CeSlot :=
  { running := false, stopping := false, gen := Generator.start 0, inputs := [], x := [], z := [], x2 := [], z2 := [],
    pred := none, out := none, out2 := none, compared := false, badNow := false, mismatchNext := false,
    mismatched := false, period := 0, epoch := 0, exceeds := false, plausCount := 0, plausTold := false,
    staleTold := false, lastOut := [], stage := 3 }

def CeCounts.zero : CeCounts := { dropped := 0, stale := 0, plaus := 0, mismatch := 0, early := 0, missedEdge := 0 }

def Device.slot (d : Device) (s : Nat) : CeSlot := d.ce.slots.getD s CeSlot.idle
def Device.setSlot (d : Device) (s : Nat) (x : CeSlot) : Device :=
  { d with ce := { d.ce with slots := d.ce.slots.put s x } }
def Device.slotCount (d : Device) (s : Nat) (f : CeCounts → CeCounts) : Device :=
  { d with ce := { d.ce with counts := d.ce.counts.put s (f (d.ce.counts.getD s CeCounts.zero)) } }

/-- The CE counter (R352, R501). -/
def Device.ceNow (d : Device) : Time := d.counter 1

/-- A slot's job, and whether it is a SAFETY job (R502). -/
def Device.slotSafety (d : Device) (c : Image) : Bool :=
  match d.job (BitVec.ofNat 16 (CeDesc.jobId c)) with
  | some r => JobRec.cls r.image == 0
  | none => false

def Device.slotPart (d : Device) (c : Image) : Nat :=
  match d.job (BitVec.ofNat 16 (CeDesc.jobId c)) with
  | some r => JobRec.part r.image
  | none => 0

/-- JOB_START of a slot (R518, R531): x from INIT_STATE, z 0, the counts 0; the mismatch ends (R528, R688). -/
def Device.startSlot (d : Device) (c : Image) : Device :=
  let s := CeDesc.slot c
  let n := CeDesc.n c
  let init := (List.range n).map fun i => CeDesc.word c (nth (CeDesc.starts c) 1 0 + i)
  let zero := List.replicate (CeDesc.q c) (0 : Int)
  let slot : CeSlot := { CeSlot.idle with
    running := true, gen := Generator.start d.ceNow, inputs := List.replicate (CeDesc.p c) CeInput.fresh0,
    x := init, z := zero, x2 := init, z2 := zero }
  let d := d.setSlot s slot
  let mm := d.lect.mismatched.filter fun m => m.val != s
  let had := d.lect.mismatched.length != mm.length
  let d := { d with lect := { d.lect with mismatched := mm } }
  if had && mm.isEmpty then d.clearCause .loopMismatch else d

/-- JOB_STOP of a slot (R531): one last frame, with SAFE_OUT, at its next OUT_PHASE. -/
def Device.stopSlot (d : Device) (s : Nat) : Device :=
  let x := d.slot s
  if x.running then d.setSlot s { x with stopping := true } else d

/-- All the slot descriptors of a job. -/
def Device.jobSlots (d : Device) (j : BitVec 16) : List Image :=
  ((d.ceDescs.map (·.2)).filter fun c => CeDesc.jobId c == j.toNat)

/-- A slot acknowledges a mode change at its period start, or at once when it does not run (R570). -/
def Device.ackSlot (d : Device) (s : Nat) : Device :=
  { d with jobs := { d.jobs with parts := d.jobs.parts.map fun p =>
      match p.mode with
      | some m => { p with mode := some { m with slots := m.slots.filter fun x => x.val != s } }
      | none => p } }

/-- R571: a mode change whose every unit has acknowledged completes, with MIX_US. A change of several partitions
completes with the last of them. -/
def Device.finishModes (d : Device) : Device :=
  let mine (dr : Fin 64) (p : Partition) : Bool := match p.mode with
    | some m => decide (m.drawer = dr)
    | none => false
  let busy (m : ModeChange) : Bool := !(m.waiting.isEmpty && m.slots.isEmpty && m.streams.isEmpty)
  (List.finRange 64).foldl (fun (d : Device) (dr : Fin 64) =>
    match (d.jobs.parts.filter (mine dr)).filterMap (·.mode) with
    | [] => d
    | m :: ms =>
      if (m :: ms).any busy then d
      else
        let parts := d.jobs.parts.map fun (p : Partition) => if mine dr p then { p with mode := none } else p
        ({ d with jobs := { d.jobs with parts } }).reply dr stOk (natLE (usBetween d.hub m.accepted) 8)) d

/-- A slot's period starts at CE time `t` (R518 to R520): the job partition's epoch is latched. -/
def Device.beginSlotPeriod (d : Device) (s : Nat) (c : Image) (t : Time) : Device :=
  let x := d.slot s
  let d := d.setSlot s { x with
    gen := { x.gen with last := t, first := false, due := none }
    period := if x.gen.first then 0 else x.period + 1
    epoch := (d.part (d.slotPart c)).epoch
    stage := 0, badNow := false, compared := false, out := none, out2 := none
    mismatched := x.mismatched || x.mismatchNext, mismatchNext := false }
  (d.ackSlot s).finishModes

/-- The halves that a slot needs are powered and in service (R501, R526, R679). -/
def Device.slotServed (d : Device) (c : Image) : Bool :=
  let ok (h : Half) : Bool := d.domOn (if h = .a then 0x36 else 0x37) && !d.ce.failed.contains h
  (if CeDesc.slot c < 128 then ok .a else ok .b) && (!d.slotSafety c || ok .b)

/-- SLOT_PERIOD_START (R518, R520): a free-running generator starts a period every PERIOD CE cycles, the first at
the job's start; a locked one 16 CE cycles after its accepted edge. -/
def execSlotPeriodStart (now : Time) (slot : Fin 256) (s : State) : Host.Outcome State Fault Refusal :=
  s.onUp now fun d =>
    match d.ceDesc slot.val with
    | none => d
    | some c =>
      let x := d.slot slot.val
      if !x.running ∨ x.stage ≠ 3 ∨ !d.slotServed c then d else
      let at_ : Option Time :=
        if CeDesc.lockEn c then x.gen.due
        else some (if x.gen.first then x.gen.last else addT x.gen.last (CeDesc.period c))
      match at_ with
      | some t => if reached d.ceNow t then d.beginSlotPeriod slot.val c t else d
      | none => d

/-! ### Period generators locked to a pin (R519, R543) -/

/-- Whether a sampled edge is accepted (some generator) or counted as early (none), `e` and `p` in the user's
cycles; the period is due `delay` cycles after the edge. -/
def Generator.edge (g : Generator) (e : Time) (p delay : Nat) : Option Generator :=
  if g.due.isSome then some g
  else if g.first ∨ (p - p / 8 : Int) ≤ timeDiff e g.last then
    some { g with due := some (addT e delay), missed := 0, notified := false }
  else none

/-- The end of the edge window (R519): PERIOD + ⌊PERIOD ÷ 8⌋ cycles after the last period start. -/
def Generator.windowEnd (g : Generator) (p : Nat) : Time := addT g.last (p + p / 8)

/-- One missed edge: the period is due at the window's end; the flag tells that the third in a row is to be
notified (R519). -/
def Generator.miss (g : Generator) (p : Nat) : Generator × Bool :=
  let n := g.missed + 1
  let tell := n ≥ 3 && !g.notified
  ({ g with due := some (g.windowEnd p), missed := n, notified := g.notified || tell }, tell)

/-- An accepted edge brings ST_PERIOD_LOST to its notify-again point (R519, R688). -/
def Device.edgeAccepted (d : Device) (g : Generator) (kind : BitVec 4) (src : BitVec 16) : Device :=
  if g.notified then d.notifyAgain stPeriodLost kind src else d

/-- One rising edge of PIN at a locked slot. -/
def Device.slotEdge (d : Device) (s : Nat) (c : Image) : Device :=
  let x := d.slot s
  if !x.running ∨ !CeDesc.lockEn c ∨ x.gen.due.isSome then d
  else match x.gen.edge d.ceNow (CeDesc.period c) 16 with
    | some g => (d.setSlot s { x with gen := g }).edgeAccepted x.gen srcSlot (BitVec.ofNat 16 s)
    | none => d.slotCount s fun k => { k with early := sat32 (k.early + 1) }

/-- The edge window of a locked slot ends without an edge (R519): MISSED_EDGE, and a period starts at that cycle. -/
def Device.slotWindow (d : Device) (s : Nat) (c : Image) : Device :=
  let x := d.slot s
  if !x.running ∨ x.stage ≠ 3 ∨ x.gen.due.isSome ∨ !CeDesc.lockEn c ∨ !d.slotServed c
    ∨ !reached d.ceNow (x.gen.windowEnd (CeDesc.period c)) then d
  else
    let (g, tell) := x.gen.miss (CeDesc.period c)
    let d := d.setSlot s { x with gen := g }
    let d := d.slotCount s fun k => { k with missedEdge := sat32 (k.missedEdge + 1) }
    let d := if tell then d.notify stPeriodLost srcSlot (BitVec.ofNat 16 s) else d
    d.beginSlotPeriod s c (x.gen.windowEnd (CeDesc.period c))

/-! ### Inputs (R510 to R517, R526) -/

/-- Puts a value into a buffer of a slot's input. -/
def CeSlot.feed (x : CeSlot) (i : Nat) (v : Int) : CeSlot :=
  match x.inputs[i]? with
  | some a => { x with inputs := setAt x.inputs i { a with buffer := v, fresh := true, ever := true } }
  | none => x

/-- Feeds every input that `sel` picks, in every slot with a descriptor (R512). -/
def Device.feedInputs (d : Device) (sel : Image → Option Int) : Device :=
  d.ceDescs.foldl (fun d pc =>
    let c := pc.2
    (List.range (CeDesc.p c)).foldl (fun d i => match sel (CeDesc.input c i) with
      | some v => d.setSlot (CeDesc.slot c) ((d.slot (CeDesc.slot c)).feed i v)
      | none => d) d) d

/-- A feedback record (R511, R512): channel and the values V0 to V3. -/
def Device.feedRecord (d : Device) (tag channel : Nat) (vs : List Int) : Device :=
  d.feedInputs fun e =>
    if InMap.src e = 0 ∧ InMap.source e = tag ∧ InMap.index e = channel then some (nth vs (InMap.valueSel e) 0) else none

/-- A dropped feedback packet is counted in every slot bound to its stream (R511). -/
def Device.feedDropped (d : Device) (tag : Nat) : Device :=
  d.ceDescs.foldl (fun d pc =>
    if (List.range (CeDesc.p pc.2)).any fun i => InMap.src (CeDesc.input pc.2 i) == 0 && InMap.source (CeDesc.input pc.2 i) == tag
    then d.slotCount (CeDesc.slot pc.2) fun k => { k with dropped := sat32 (k.dropped + 1) } else d) d

/-- The feedback binding of a packet (R264, R787): its port, VC, data type and tag. -/
def Device.feedbackBound (d : Device) (p : Pkt) (tag : Nat) : Bool :=
  match d.ing.feedback.find tag with
  | some x => StreamDesc.port x == p.port.val && StreamDesc.vc x == p.vc.toNat && StreamDesc.dt x == p.dt.toNat
  | none => false

/-- FEEDBACK_PACKET (R511, R512, R786): joint and tactile records of data type 0x34. -/
def execFeedbackPacket (now : Time) (p : Pkt) (s : State) : Host.Outcome State Fault Refusal :=
  s.onUp now fun d =>
    if p.dt ≠ 0x34 then d else
    match d.arrive p with
    | (d, .ok h) =>
      if StrHdr.kind h ≠ 0x12 ∧ StrHdr.kind h ≠ 0x13 then d
      else if !d.feedbackBound p (StrHdr.tag h) then d.countUnbound p.port
      else
        let body := p.payload.drop 16
        let recs := (List.range (body.length / 24)).map fun i => imageAt body (24 * i) 24
        if body.length % 24 ≠ 0 ∨ StrHdr.isPartial h
          ∨ recs.any fun r => !rsvdZero r [(31, 16), (191, 160)] then d.feedDropped (StrHdr.tag h)
        else recs.foldl (fun d r => d.feedRecord (StrHdr.tag h) (fld r 15 0)
            [sfld r 63 32, sfld r 95 64, sfld r 127 96, sfld r 159 128]) d
    | (d, _) => d

/-- BODY_LINK_PACKET (R782): setpoint records of another module as joint feedback, V0 = VALUE, V1 = bits [31:16]. -/
def execBodyLinkPacket (now : Time) (p : Pkt) (s : State) : Host.Outcome State Fault Refusal :=
  s.onUp now fun d =>
    if p.dt ≠ 0x33 then d else
    match d.arrive p with
    | (d, .ok h) =>
      if !d.feedbackBound p (StrHdr.tag h) then d.countUnbound p.port
      else
        let body := p.payload.drop 16
        if body.length % 8 ≠ 0 ∨ StrHdr.isPartial h then d.feedDropped (StrHdr.tag h)
        else (List.range (body.length / 8)).foldl (fun d i =>
          let r := imageAt body (8 * i) 8
          d.feedRecord (StrHdr.tag h) (fld r 15 0) [sfld r 63 32, (fld r 31 16 : Nat), 0, 0]) d
    | (d, _) => d

/-- A SOLVER input at the latch (R515, R572): the newest visible record with an admitted status and the slot's
epoch; a record of another epoch is held until the next latch and then dropped. -/
def Device.latchSolver (d : Device) (c e : Image) (x : CeSlot) (a : CeInput) : CeInput :=
  let keep := { a with stale := true }
  match d.ce.solver.find (InMap.source e) with
  | none => keep
  | some v =>
    let ok := v.status == stOk || (InMap.acceptBest e && (v.status == stSolveBudget || v.status == stIterLimit)
      && v.bestIter != 0xFF)
    if !ok ∨ a.lastSeq = some v.seq then keep
    else if v.epoch = x.epoch then
      { a with value := ceFromFloat (nth v.x (InMap.index e) 0) (CeDesc.sigFrac c), stale := false, ever := true,
               lastSeq := some v.seq, held := none }
    else if a.held = some v.seq then { keep with lastSeq := some v.seq, held := none }
    else { keep with held := some v.seq }

/-- One input at the latch (R513 to R517). -/
def Device.latchInput (d : Device) (c : Image) (x : CeSlot) (i : Nat) (a : CeInput) : CeInput :=
  let e := CeDesc.input c i
  let b := match InMap.src e with
    | 3 => { a with value := InMap.const e, stale := false }
    | 1 => d.latchSolver c e x a
    | _ => if a.fresh then { a with value := ceShift a.buffer (CeDesc.sigFrac c) (InMap.inFrac e), stale := false }
           else { a with stale := true }
  { b with fresh := false, staleCount := if b.stale then a.staleCount + 1 else 0 }

/-- Flips a bit of one computed vector: a physical upset of one half (R527). -/
def flipAt (u : Option Upset) (h : Half) (v : UpsetVec) (l : List Int) : List Int :=
  match u with
  | some q =>
    if q.half = h ∧ q.vec = v then
      match l[q.index]? with
      | some n => setAt l q.index ((BitVec.ofInt 32 n ^^^ BitVec.ofNat 32 (2 ^ q.bit.val)).toInt)
      | none => l
    else l
  | none => l

def CeVectors.upset (v : CeVectors) (u : Option Upset) (h : Half) : CeVectors :=
  { v with y := flipAt u h .outputs v.y, x := flipAt u h .nextState v.x, z := flipAt u h .nextModel v.z }

/-- The plausibility check at the latch (R524, R525): exceeding, and the new count. -/
def plausCheck (c : Image) (x : CeSlot) (ins : List CeInput) : Bool × Nat :=
  match x.pred with
  | none => (false, x.plausCount)
  | some ws =>
    let mons := (List.range (CeDesc.r c)).map fun j => CeDesc.monitor c j
    let exc := (mons.zip ws).any fun mw =>
      (MonMap.bound mw.1) < Int.natAbs ((nth ins (MonMap.input mw.1) CeInput.fresh0).value - mw.2)
    let stale := mons.any fun m => (nth ins (MonMap.input m) CeInput.fresh0).stale
    (exc, if exc then x.plausCount + 1 else if stale then x.plausCount else 0)

/-- The half of a slot (R501). -/
def halfOf (s : Nat) : Half := if s < 128 then .a else .b

/-- The input latch and the computation of one period (R509, R513 to R517, R524 to R526). -/
def Device.latchSlot (d : Device) (s : Nat) (c : Image) (u : Option Upset) : Device :=
  let x := d.slot s
  let ins := x.inputs.zipIdx.map fun p => d.latchInput c x p.2 p.1
  let us := ins.map (·.value)
  let (exc, pc) := if CeDesc.r c = 0 then (false, 0) else plausCheck c x ins
  let o := (ceCompute c x.x x.z us).upset u (halfOf s)
  let o2 := (ceCompute c x.x2 x.z2 us).upset u .b
  let safety := d.slotSafety c
  let lim := CeDesc.maxMiss c
  let nowStale := lim ≠ 0 ∧ ins.any fun a => a.staleCount ≥ lim
  let allFresh := ins.all fun a => !a.stale
  let src := BitVec.ofNat 16 s
  let y : CeSlot := { x with
    inputs := ins, out := some o, out2 := if safety then some o2 else none, exceeds := exc, plausCount := pc
    plausTold := if pc = 0 then false else x.plausTold || (CeDesc.r c != 0 && pc ≥ CeDesc.plausM c)
    staleTold := if allFresh then false else x.staleTold || decide nowStale
    stage := 1 }
  let d := d.setSlot s y
  let d := d.slotCount s fun k => { k with
    stale := if allFresh then k.stale else sat32 (k.stale + 1)
    plaus := if exc then sat32 (k.plaus + 1) else k.plaus }
  let d := if x.staleTold ∧ allFresh then d.notifyAgain stInputStale srcSlot src
    else if nowStale ∧ !x.staleTold then d.notify stInputStale srcSlot src else d
  if x.plausTold ∧ pc = 0 then d.notifyAgain stPlausibility srcSlot src
  else if CeDesc.r c ≠ 0 ∧ pc ≥ CeDesc.plausM c ∧ !x.plausTold then d.notify stPlausibility srcSlot src
  else d

/-- INPUT_LATCH (R513): at LATCH_PHASE of the running period. -/
def execInputLatch (now : Time) (slot : Fin 256) (upset : Option Upset) (s : State) :
    Host.Outcome State Fault Refusal :=
  s.onUp now fun d =>
    match d.ceDesc slot.val with
    | none => d
    | some c =>
      let x := d.slot slot.val
      if x.running ∧ x.stage = 0 ∧ reached d.ceNow (addT x.gen.last (CeDesc.latchPhase c)) then
        d.latchSlot slot.val c upset
      else d

/-- LOOP_COMPARE (R527, R528): the two halves' outputs and next states are compared bit for bit. -/
def Device.compareSlot (d : Device) (s : Nat) : Device :=
  let x := d.slot s
  match x.out, x.out2 with
  | some a, some b =>
    let yBad := a.y != b.y
    let bad := yBad || a.x != b.x || a.z != b.z
    let d := d.setSlot s { x with compared := true, badNow := yBad, mismatchNext := x.mismatchNext || bad, stage := 2 }
    if bad then
      (d.slotCount s fun k => { k with mismatch := sat32 (k.mismatch + 1) }).notify stLoopMismatch srcSlot (BitVec.ofNat 16 s)
    else d
  | _, _ => d

def execLoopCompare (now : Time) (slot : Fin 256) (s : State) : Host.Outcome State Fault Refusal :=
  s.onUp now fun d => if (d.slot slot.val).stage = 1 then d.compareSlot slot.val else d

/-- The safe state as the Control Engine sees it at an OUT_PHASE (R530, R685, R689): a change of the safe state acts
from the first OUT_PHASE at least 1 µs later. -/
def Device.safeForLoops (d : Device) : Bool :=
  if usHub 1 ≤ elapsedT d.hub d.lect.changed then d.lect.safe else !d.lect.safe

/-- One setpoint record (R529). -/
def setpointRecord (channel : Nat) (safe stale exc : Bool) (v : Int) : Bytes :=
  natLE (mkImage [(0, 16, channel), (16, 1, safe.toNat), (17, 1, stale.toNat), (18, 1, exc.toNat),
                  (32, 32, intCode 32 v)]) 8

/-- SAFE_OUT of a slot (R504). -/
def CeDesc.safeOut (c : Image) : List Int := (List.range (CeDesc.m c)).map fun i => CeDesc.word c i

/-- The setpoint frame of a period (R529). -/
def setpointFrame (c : Image) (x : CeSlot) (safe : Bool) (y : List Int) : OutRecord :=
  let vals := if safe then CeDesc.safeOut c else y
  let stale := x.inputs.any (·.stale)
  mkRecord (CeDesc.outStream c) 0x01 x.period x.epoch false
    (vals.zipIdx.flatMap fun p => setpointRecord (CeDesc.outChannel c + p.2) safe stale x.exceeds p.1)

/-- Every slot of a job has stopped: the job has stopped (R531, R577). -/
def Device.ceJobStopped (d : Device) (j : BitVec 16) : Bool :=
  (d.jobSlots j).all fun c => !(d.slot (CeDesc.slot c)).running

/-- The output write of a period (R522, R523, R528 to R532, R627); `finding` is what the slot's reads of its store met. -/
def Device.writeSlot (d : Device) (s : Nat) (c : Image) (finding : ScrubFinding) : Device :=
  let x := d.slot s
  let storeError := finding == .uncorrectable
  match x.out with
  | none => d
  | some o =>
    let safe := d.safeForLoops || x.badNow || x.mismatched || x.stopping || storeError
    let o2 := x.out2.getD o
    let d := d.sendRecord (setpointFrame c x safe o.y)
    let d := d.setSlot s { x with
      x := o.x, z := o.z, x2 := o2.x, z2 := o2.z, pred := if CeDesc.r c = 0 then none else some o.w
      lastOut := o.y, stage := 3, running := !x.stopping, stopping := false }
    let d := d.feedInputs fun e =>
      if InMap.src e = 2 ∧ InMap.source e = s then o.y[InMap.index e]? else none
    let d := if d.monitored (.slot ⟨s % 256, Nat.mod_lt _ (by decide)⟩) then
        d.token (.result (.slot ⟨s % 256, Nat.mod_lt _ (by decide)⟩) x.period x.epoch stOk d.hub)
      else d
    let d := if x.stopping then d.monitorStopped (.slot ⟨s % 256, Nat.mod_lt _ (by decide)⟩) else d
    let half := if s < 128 then 6 else 7
    let d := if finding = .corrected then d.chipCount half 1 0 else d
    let d := if storeError then
        let d := d.chipCount half 0 1
        d.event stUncorrectable srcSlot (BitVec.ofNat 16 s) 0
      else d
    d.settlePorts

end Sys2Proof.Machine
end

