-- ==== Sys2Proof/Machine/Periods.lean ====
section
/-!
DEFINITION. What the dispatcher and the engines share about a period: its job, its deadline, its completion and its
rings (R545 to R553, R567, R568, R619).
-/

namespace Sys2Proof.Machine

/-- ENGINE of R537. -/
def engTrestle : Nat := 0
def engFinisher : Nat := 1
def engFusion : Nat := 2
def engPlanner : Nat := 3
def engSolver : Nat := 4
def engControl : Nat := 5

/-- The partition of a job. -/
def JobRef.part (r : JobRef) : Nat := JobRec.part r.image
def JobRef.id (r : JobRef) : BitVec 16 := BitVec.ofNat 16 (JobRec.jobId r.image)
def JobRef.engine (r : JobRef) : Nat := JobRec.engine r.image
def JobRef.cls (r : JobRef) : Nat := JobRec.cls r.image

/-- The engine descriptor of a job (R535), in the section of its engine. -/
def JobRef.desc (r : JobRef) : Option Image :=
  let ref := JobRec.descRef r.image
  match r.engine with
  | 1 => r.record 9 ref
  | 2 => r.record 0xA ref
  | 3 => r.record 0xD ref
  | 4 => r.record 0xF ref
  | _ => none

/-- The cycle of a period's deadline (R548); none with DEADLINE_US 0. -/
def JobRef.deadline (r : JobRef) (p : Period) : Option Time :=
  if JobRec.deadlineUs r.image = 0 then none else some (addT p.s (usHub (JobRec.deadlineUs r.image)))

/-- The deadline cycle lies before the time `t`: a completion at `t` is not on time (R548). -/
def JobRef.past (r : JobRef) (p : Period) (t : Time) : Bool :=
  match r.deadline p with
  | some e => 0 < timeDiff t e
  | none => false

/-! ### Engine instances -/

/-- The power domain of an engine instance that carries test slices (R579, R654). -/
def engineDom : EngineUnit → Nat
  | .solver n => 0x30 + n.val
  | .planner n => 0x34 + n.val
  | .ingestCore => 0x38
  | .decoder n => 0x39 + n.val
  | .fusion => 0x3B

/-- A unit's test state (R674 to R679). -/
def Device.test (d : Device) (u : TestUnit) : UnitTest :=
  (d.tests.find? fun t => t.unit == u).getD
    { unit := u, passed := 0, slice := none, lastPass := d.readyAt, lastSched := d.readyAt, overdue := false, failed := false }

def Device.setTest (d : Device) (t : UnitTest) : Device :=
  { d with tests := t :: d.tests.filter fun (x : UnitTest) => x.unit != t.unit }

/-- A slice of the unit is in progress (R675). -/
def Device.inSlice (d : Device) (u : TestUnit) : Bool := (d.test u).slice.isSome

/-- An instance is powered and in service (R579, R679). -/
def Device.engineOk (d : Device) (e : EngineUnit) : Bool := d.domOn (engineDom e) && !(d.test (.engine e)).failed

/-- An instance that a slice of its test leaves free to take up work (R676). -/
def Device.engineFree (d : Device) (e : EngineUnit) : Bool := d.engineOk e && !d.inSlice (.engine e)

/-- The Plan of the partition is changing (R574): no period of its jobs starts. -/
def Device.inBoundary (d : Device) (p : Nat) : Bool := (d.part p).boundary.isSome

/-- A job's record, run and period, while a period of it is in progress. -/
def Device.openPeriod (d : Device) (j : BitVec 16) : Option (JobRef × JobRun × Period) :=
  match d.job j, d.run j with
  | some r, some x => match x.period with
    | some p => some (r, x, p)
    | none => none
  | _, _ => none

/-- Changes the period of a job that has one. -/
def Device.modPeriod (d : Device) (j : BitVec 16) (f : Period → Period) : Device :=
  match d.run j with
  | some x => d.setRun j { x with period := x.period.map f }
  | none => d

/-- The period reaches the completion of R537; the row PERIOD_COMPLETE publishes it. -/
def Device.markDone (d : Device) (j : BitVec 16) (st : Status) : Device :=
  d.modPeriod j fun p => if p.done.isSome ∨ p.cause.isSome then p else { p with done := some (st, d.hub) }

/-- The period's own work goes on: no cause has ended it, it has not completed, and its deadline is not past. -/
def Device.working (d : Device) (j : BitVec 16) : Option (JobRef × JobRun × Period) :=
  match d.openPeriod j with
  | some (r, x, p) =>
    if x.phase = .running ∧ p.cause.isNone ∧ p.done.isNone ∧ !r.past p d.hub then some (r, x, p) else none
  | none => none

/-- Place `k` of a ring of `n` records of `size` bytes: each begins on a line (R619). -/
def ringAt (base n size k : Nat) : Nat := base + k % n * roundUp size 256

/-- A signal by an engine for its job; an amount of 0 names no Hook (R740). -/
def Device.engineSignal (d : Device) (j : BitVec 16) (h n : Nat) : Device := d.signalHook (.job j) h n

/-- Whole-record reads by a hub engine outside the view end the period with ST_ACCESS (R168, R340). -/
def Device.engineAccess (d : Device) (r : JobRef) (a n : Nat) : Bool := d.inView r.part a n

/-- The energy of a period in µJ, rounded once to the nearest and saturating (R605). -/
def energyUj (nj : Nat) : Nat := sat32 (roundDiv nj 1000).toNat

/-- A completion record (R567). -/
def completionRecord (r : JobRef) (p : Period) (st : Status) (t : Time) : Bytes :=
  natLE (mkImage [(0, 4, 1), (4, 2, r.cls), (6, 2, p.variant), (8, 1, p.nonfinite.toNat), (9, 1, p.preempted.toNat),
    (16, 16, JobRec.jobId r.image), (32, 16, st.toNat), (48, 16, p.epoch.toNat), (64, 32, p.seq.toNat),
    (96, 48, p.s.toNat), (144, 48, t.toNat), (192, 32, energyUj p.energyNj), (224, 32, p.adapterGen.toNat),
    (256, 16, min p.removed 65535)]) 64

/-- Writes the completion record of a period into COMP_RING, when there is one: the record of period SEQ stands at
SEQ modulo 16 (R567; log entry 59). -/
def Device.writeCompletion (d : Device) (r : JobRef) (p : Period) (st : Status) (t : Time) : Device :=
  let base := JobRec.compRing r.image
  if base = 0 then d else d.writeLines r.part (ringAt base 16 64 p.seq.toNat) (completionRecord r p st t)

/-- A job's class as a requester's rank: the smaller, the higher (R536). -/
def clientOf (r : JobRef) : Nat := JobRec.client r.image

/-- Result statuses that count as FAILED (R151, R552, R568). -/
def isFailed (st : Status) : Bool :=
  [stCheckMismatch, stUncorrectable, stAccess, stHookOverflow, stTileFenced].contains st

end Sys2Proof.Machine
end

