-- ==== Sys2Proof/Machine/Domains.lean ====
section
/-!
DEFINITION. When a power domain is needed (R180, R579), and the watch over the conditions.
-/

namespace Sys2Proof.Machine

/-- The started jobs among the active ones. -/
def Device.startedJobs (d : Device) : List JobRef :=
  d.activeJobs.filter fun r => match d.run r.id with
    | some x => x.started
    | none => false

/-- Fabric groups that the hub route of a tile crosses (R173): its own and those towards its die's bridge. -/
def hubRoute (t : Nat) : List Nat :=
  let g := groupOf t
  (List.range 32).filter fun k => k % 4 == g % 4 && (if g < 16 then decide (k ≤ g) else decide (g ≤ k))

/-- Fabric groups on the route between two tiles (R172): along x first, then along y. -/
def tileRoute (a b : Nat) : List Nat :=
  let ax := a % 64 / 16
  let ay := a / 64 / 8
  let bx := b % 64 / 16
  let bye := b / 64 / 8
  (List.range 32).filter fun k =>
    (k / 4 == ay && min ax bx ≤ k % 4 && k % 4 ≤ max ax bx) || (k % 4 == bx && min ay bye ≤ k / 4 && k / 4 ≤ max ay bye)

/-- Fabric groups that a TRESTLE job keeps powered (R180, R579): those of its tiles, of their hub routes, and of the routes of
their SENDs and back, which the acknowledgements take (R179). -/
def JobRef.groups (r : JobRef) : List Nat :=
  if r.engine ≠ engTrestle then [] else
  (List.range (JobRec.variants r.image)).flatMap fun v =>
    (progTiles r.plan.bytes (VarRec.programRef (JobRec.variant r.image v))).flatMap fun t =>
      hubRoute t.tile ++ (t.commands.filter fun w => Cmd.op w.toNat == 4).flatMap fun w =>
        tileRoute t.tile (Send.dest w.toNat) ++ tileRoute (Send.dest w.toNat) t.tile

/-- The descriptor of a stream that is bound, or that will be at its next frame. -/
def Stream.boundDesc (x : Stream) : Option Image :=
  match x.pending with
  | some (some y) => some y
  | _ => x.desc

def Device.boundDescs (d : Device) : List Image := d.ing.streams.filterMap fun e => e.2.boundDesc

/-- Image and point data types (R262). -/
def coreTypes : List Nat := [0x1E, 0x24, 0x2A, 0x2B, 0x2C, 0x2D, 0x2E, 0x2F, 0x35, 0x36]

/-- A stream whose samples go through a decoder: JPEG, or Bayer (R262, R277). -/
def StreamDesc.decoded (x : Image) : Bool :=
  StreamDesc.decoder x == 8 || StreamDesc.decoder x == 9 || (StreamDesc.decoder x ≤ 5 && StreamDesc.cfa x != 4)

/-- Records of the active partitions. -/
def Device.activeRecs (d : Device) : List Image :=
  d.jobs.parts.filterMap fun p => if p.active.isSome then p.record else none

/-- The condition of R579 for a domain, with R180 for the fabric groups. -/
def Device.needed (d : Device) (k : Nat) : Bool :=
  if k < 0x20 then d.startedJobs.any fun r => r.groups.contains k
  else if k < 0x2C then
    d.boundDescs.any (fun x => StreamDesc.port x == k - 0x20)
      || d.ing.feedback.any (fun e => StreamDesc.port e.2 == k - 0x20)
      || d.bur.bulk.any fun b => b.port == k - 0x20
  else if k < 0x30 then d.ports.outBinds.any fun e => e.2.1.val == k - 0x2C
  else if k < 0x34 then d.activeJobs.any fun r => r.engine == engSolver && r.desc.any fun x => SDesc.inst x == k - 0x30
  else if k < 0x36 then d.activeJobs.any fun r => r.engine == engPlanner
  else if k = 0x36 then d.ceDescs.any fun c => decide (CeDesc.slot c.2 < 128)
  else if k = 0x37 then d.ceDescs.any fun c => decide (128 ≤ CeDesc.slot c.2) ||
      (d.job (BitVec.ofNat 16 (CeDesc.jobId c.2))).any fun r => r.cls == 0
  else if k = 0x38 then d.boundDescs.any fun x => coreTypes.contains (StreamDesc.dt x)
  else if k < 0x3B then d.boundDescs.any StreamDesc.decoded
  else if k = 0x3B then (d.activeJobs.any fun r => r.engine == engFusion || r.engine == engFinisher) || d.clk.hostUse
  else if k < 0x40 then d.activeRecs.any fun x => PartRec.wayMask x != 0
  else d.activeRecs.any fun x => bitAt (PartRec.setMask x) (k - 0x40)

/-- Idle time of a domain before it switches off, in µs (R579). -/
def idleUs (k : Nat) : Nat :=
  if k < 0x20 ∨ 0x40 ≤ k then 1000
  else if k < 0x30 ∨ k = 0x38 ∨ k = 0x39 ∨ k = 0x3A ∨ (0x3C ≤ k ∧ k < 0x40) then 10000
  else 0

/-- The Drawer whose STANDBY is entering standby: its jobs are stopping, or its domains are switching off. -/
def Device.enteringStandby (d : Device) : Option (Fin 64) :=
  (List.finRange 64).find? fun n =>
    (d.drawer n).state == .busy && (d.drawer n).going && d.cmdOpcode n == 0x0706

/-- Once every job has stopped, the entry to standby switches every domain off (R609). -/
def Device.settleStandby (d : Device) : Device :=
  if d.enteringStandby.isNone || d.jobs.runs.any (fun r => r.2.started) then d
  else { d with pow := { d.pow with doms := d.pow.doms.map fun (x : DomState) => match x with
    | .on _ => DomState.goingOff d.hub false
    | .goingOn _ => DomState.goingOff d.hub false
    | x => x } }

/-- The Bureau looks at every condition: a domain that is needed goes on, and the idle time of one that is not begins
(R579, R584). -/
def Device.settleDomains (d : Device) : Device :=
  if d.pow.phase ≠ .up ∨ d.enteringStandby.isSome then d else
  (List.range 68).foldl (fun (d : Device) k =>
    if d.needed k then d.needDom k
    else match d.dom k with
      | .on none => d.setDom k (.on (some d.hub))
      | .goingOff t true => d.setDom k (.goingOff t false)
      | _ => d) d

end Sys2Proof.Machine
end

