-- ==== Sys2Proof/Machine/MemErr.lean ====
section
/-!
DEFINITION. The memory sets' decoders, counts and logs, scrubbing, remapping and erasure mode (R610 to R640), and
the command MEM_REPORT (R718).
-/

namespace Sys2Proof.Machine

/-- KIND of a log entry (R629). -/
def kindCorrected : BitVec 2 := 0
def kindUncorrectable : BitVec 2 := 1
def kindPoison : BitVec 2 := 2
def kindEmpty : BitVec 2 := 3

/-- Index of the entry with the oldest TIME among those that `p` admits. -/
def oldestEntry (log : List ErrEntry) (p : ErrEntry → Bool) : Option Nat :=
  (log.zipIdx.foldl (fun (a : Option (Nat × Time)) e =>
    if !p e.1 then a else match a with
      | none => some (e.2, e.1.time)
      | some (i, t) => if timeDiff e.1.time t < 0 then some (e.2, e.1.time) else some (i, t)) none).map (·.1)

/-- The place that a new error takes in the log (R630). -/
def logPlace (log : List ErrEntry) (kind : BitVec 2) : Option Nat :=
  match log.findIdx? fun e => e.kind == kindEmpty with
  | some i => some i
  | none => match oldestEntry log fun e => e.kind == kindCorrected with
    | some i => some i
    | none => if kind = kindCorrected then none
              else oldestEntry log fun e => e.kind == kindUncorrectable || e.kind == kindPoison

/-- Logs one error of a line (R629, R630). -/
def MemSet.logError (m : MemSet) (e : ErrEntry) : MemSet :=
  match m.log.findIdx? fun o => o.kind == e.kind && o.line == e.line with
  | some i =>
    let o := nth m.log i e
    { m with log := setAt m.log i { o with count := if o.count = 0xFFFF then o.count else o.count + 1, time := e.time } }
  | none => match logPlace m.log e.kind with
    | some i => { m with log := setAt m.log i e }
    | none => m

/-- An erroneous beat's entry (R629): up to two symbols with their error values, and the syndrome. -/
def errEntry (line : BitVec 27) (beat : Nat) (kind source : BitVec 2) (es : List (Nat × Nat)) (syn : List Nat)
    (t : Time) : ErrEntry :=
  let a := es[0]?
  let b := es[1]?
  { line, beat := BitVec.ofNat 4 beat, symA := BitVec.ofNat 5 ((a.map (·.1)).getD 0x1F),
    symB := BitVec.ofNat 5 ((b.map (·.1)).getD 0x1F), kind, source, patA := BitVec.ofNat 8 ((a.map (·.2)).getD 0),
    patB := BitVec.ofNat 8 ((b.map (·.2)).getD 0),
    syndrome := BitVec.ofNat 32 (nth syn 0 0 + nth syn 1 0 * 2 ^ 8 + nth syn 2 0 * 2 ^ 16 + nth syn 3 0 * 2 ^ 24),
    time := t, count := 1 }

/-- Counts a corrected beat (R628), and notes the line for each die (R638). -/
def MemSet.countCorrected (m : MemSet) (line : BitVec 27) (es : List (Nat × Nat)) (t : Time) : MemSet :=
  let dies := (es.map fun e => e.1 / 2).eraseDups
  let m := { m with
    ceCount := sat32 (m.ceCount + 1)
    ceDie := m.ceDie.zipIdx.map fun (c : Nat × Nat) => if dies.contains c.2 then sat32 (c.1 + 1) else c.1 }
  let old := m.recent.filter fun r => elapsedT t r.2.2 < usHub 1000000
  { m with recent := dies.foldl (fun (r : List (Fin 10 × BitVec 27 × Time)) (k : Nat) =>
      if h : k < 10 then (⟨k, h⟩, line, t) :: r.filter (fun e => !(e.1.val == k && e.2.1 == line)) else r) old }

/-- The die, if any, whose corrected symbols have reached 32 distinct lines within 1 s (R638). -/
def MemSet.lostDie (m : MemSet) : Option (Fin 10) :=
  (List.finRange 10).find? fun k => 32 ≤ (m.recent.filter fun e => e.1 == k).length

/-- What one read of a beat delivers. -/
structure BeatRead where
  bad : Bool
  /-- Byte differences of a miscorrection (R612). -/
  wrong : List (Nat × Byte)
  /-- Symbols that the decoder corrected. -/
  fixed : List Nat
  deriving DecidableEq, Repr

/-- The errors of one beat. -/
def beatErrs (errs : List BeatError) (b : Nat) : List (Nat × Nat) :=
  (errs.filter fun e => e.beat.val == b && e.val != 0).map fun e => (e.sym.val, e.val.toNat)

/-- The value that errors put onto a symbol. -/
def symVal (es : List (Nat × Nat)) (s : Nat) : Nat := es.foldl (fun a e => if e.1 = s then a ^^^ e.2 else a) 0

/-- Bytes of a beat that a decoder's correction leaves wrong. -/
def wrongBytes (es fix : List (Nat × Nat)) : List (Nat × Byte) :=
  (List.range 16).filterMap fun s =>
    let v := symVal es s ^^^ symVal fix s
    if v = 0 then none else some (s, BitVec.ofNat 8 v)

/-- Reads one beat of a line (R612, R613, R628 to R630); `source` 0 DEMAND, 1 SCRUB. -/
def MemSet.readBeat (m : MemSet) (line : BitVec 27) (b : Nat) (poisoned : Bool) (es : List (Nat × Nat))
    (source : BitVec 2) (t : Time) : MemSet × BeatRead :=
  let clean := { bad := false, wrong := [], fixed := [] }
  let inv := [(16, 255), (17, 255), (18, 255), (19, 255)]
  let all := if poisoned then es ++ inv else es
  if all.isEmpty then (m, clean)
  else
    let syn := syndromes all
    match decodeBeat (m.erased.map (·.val)) syn with
    | .clean => (m, { clean with wrong := wrongBytes es [] })
    | .poison => (m.logError (errEntry line b kindPoison source [] syn t), { clean with bad := true })
    | .uncorrectable =>
      (({ m with ueCount := sat32 (m.ueCount + 1) }).logError (errEntry line b kindUncorrectable source [] syn t),
       { clean with bad := true })
    | .corrected fix =>
      let m := m.countCorrected line fix t
      (m.logError (errEntry line b kindCorrected source fix syn t),
       { bad := false, wrong := wrongBytes es fix, fixed := fix.map (·.1) })

/-- Reads every beat of a line. -/
def MemSet.readLine (m : MemSet) (line : BitVec 27) (poisoned : Nat → Bool) (errs : List BeatError)
    (source : BitVec 2) (t : Time) : MemSet × List BeatRead :=
  (List.range 16).foldl (fun (a : MemSet × List BeatRead) b =>
    let (m, r) := a.1.readBeat line b (poisoned b) (beatErrs errs b) source t
    (m, a.2 ++ [r])) (m, [])

/-- DETAIL of an ST_UNCORRECTABLE event of main memory (R708): set in [1:0], LINE in [28:2]. -/
def lineDetail (k : Nat) (line : BitVec 27) : BitVec 112 := BitVec.ofNat 112 (k % 4 + line.toNat * 4)

/-- R638: erasure mode is entered, recorded, and notified. -/
def Device.checkErasure (d : Device) (k : Nat) : Device :=
  let m := d.memSet k
  match m.erased, m.lostDie with
  | none, some die =>
    let d := (d.setMemSet k { m with erased := some die }).persist
    d.notify stMemDieLost srcSet (BitVec.ofNat 16 k)
  | _, _ => d

/-- A demand read of the line at physical address `x` (R612, R628 to R632): the bytes that come out poisoned and the
bytes that come out different, by physical address. -/
def Device.demandRead (d : Device) (x : Nat) (errs : List BeatError) : Device × List Nat × List (Nat × Byte) :=
  let k := physSet x
  let line := BitVec.ofNat 27 (physLine x)
  let base := x / 256 * 256
  let read := (d.memSet k).readLine line (fun b => d.mem.main.isBad (base + 16 * b)) errs 0 d.hub
  let m := read.1
  let rs := read.2.zipIdx
  let badBeats := (rs.filter fun r => r.1.bad).map (·.2)
  let fixed := rs.any fun r => !r.1.fixed.isEmpty
  let m := if fixed ∧ !m.demand.contains line then { m with demand := m.demand ++ [line] } else m
  let first := !badBeats.isEmpty && !m.raised.contains line
  let m := if first then { m with raised := line :: m.raised } else m
  let d := d.setMemSet k m
  -- a line that the cache holds keeps its poisoned beats (R633)
  let d := if (d.mem.cache.find (base / 256)).isSome then
      { d with mem := { d.mem with main := d.mem.main.spoil (badBeats.map fun b => base / 16 + b) } }
    else d
  let d := if first then d.event stUncorrectable srcSet (BitVec.ofNat 16 k) (lineDetail k line) else d
  let d := d.checkErasure k
  (d, badBeats.flatMap fun b => (List.range 16).map fun i => base + 16 * b + i,
   rs.flatMap fun r => r.1.wrong.map fun w => (base + 16 * r.2 + w.1, w.2))

/-- A hub engine or the Bureau reads a range of a view: the poisoned lines are logged (R632). True: some byte is
poisoned. -/
def Device.hubRead (d : Device) (p a n : Nat) : Device × Bool :=
  if n = 0 then (d, false) else
  let d := d.cacheTouch p a n 0 false
  let bad := d.viewBad p a n
  let d := (List.range ((a + n + 255) / 256 - a / 256)).foldl (fun (d : Device) i =>
    match d.viewPhys p ((a / 256 + i) * 256) with
    | some x => if (List.range 16).any fun b => d.mem.main.isBad (x + 16 * b) then (d.demandRead x []).1 else d
    | none => d) d
  (d, bad)

/-! ### Scrubbing (R631, R634 to R640) -/

/-- The domain number of a memory set (R579). -/
def setDomain (k : Nat) : Nat := 0x40 + k

/-- R634: the re-read after the write-back shows an error in the same symbol of the same beat. -/
def hardFaulted (fixed : List (Nat × Nat)) (reread : List BeatError) : Bool :=
  fixed.any fun f => reread.any fun e => e.beat.val == f.1 && e.sym.val == f.2 && e.val != 0

/-- R635, R637: the line is redirected to the spare of the lowest free entry, or stays with its one event. -/
def Device.hardFault (d : Device) (k : Nat) (line : BitVec 27) : Device :=
  let m := d.memSet k
  if m.remap.any (· == some line) then d
  else match m.remap.findIdx? Option.isNone with
    | some i => (d.setMemSet k { m with remap := setAt m.remap i (some line) }).persist
    | none =>
      if m.remapFull then d
      else (d.setMemSet k { m with remapFull := true }).event stRemapFull srcSet (BitVec.ofNat 16 k) 0

/-- Scrubs one line (R639): a corrected line is written back and read again; an uncorrectable one is left. -/
def Device.scrubLine (d : Device) (k : Nat) (line : BitVec 27) (found reread : List BeatError) : Device :=
  let base := k * 2 ^ 35 + line.toNat * 256
  let read := (d.memSet k).readLine line (fun b => d.mem.main.isBad (base + 16 * b)) found 1 d.hub
  let d := (d.setMemSet k read.1).checkErasure k
  let fixed := read.2.zipIdx.flatMap fun r => r.1.fixed.map fun s => (r.2, s)
  if hardFaulted fixed reread then d.hardFault k line else d

/-- PATROL_SCRUB (R639): the set's scrubber reads its next line; it pauses in self-refresh (R582). -/
def execPatrolScrub (now : Time) (set : Fin 4) (found reread : List BeatError) (s : State) :
    Host.Outcome State Fault Refusal :=
  s.onUp now fun d =>
    let m := d.memSet set.val
    if !d.domOn (setDomain set.val) ∨ m.excluded then d
    else
      let d := d.scrubLine set.val m.patrol found reread
      d.setMemSet set.val { d.memSet set.val with patrol := m.patrol + 1 }

/-- DEMAND_SCRUB (R631): the set scrubs the oldest line that a demand read has corrected; it pauses in
self-refresh (R582). -/
def execDemandScrub (now : Time) (set : Fin 4) (found reread : List BeatError) (s : State) :
    Host.Outcome State Fault Refusal :=
  s.onUp now fun d =>
    let m := d.memSet set.val
    match m.demand with
    | [] => d
    | l :: rest => if !d.domOn (setDomain set.val) then d else (d.setMemSet set.val { m with demand := rest }).scrubLine set.val l found reread

/-! ### MEM_REPORT (R718) -/

/-- A log entry as its 32 bytes (R629). -/
def ErrEntry.bytes (e : ErrEntry) : Bytes :=
  natLE (mkImage [(0, 27, e.line.toNat), (28, 4, e.beat.toNat), (32, 5, e.symA.toNat), (37, 5, e.symB.toNat),
    (42, 2, e.kind.toNat), (44, 2, e.source.toNat), (48, 8, e.patA.toNat), (56, 8, e.patB.toNat),
    (64, 32, e.syndrome.toNat), (96, 48, e.time.toNat), (144, 16, e.count.toNat)]) 32

/-- A remap entry as its 8 bytes (R636). -/
def remapBytes (e : Option (BitVec 27)) : Bytes :=
  match e with
  | some l => natLE (l.toNat + 2 ^ 31) 8
  | none => natLE 0 8

def MemSet.report (m : MemSet) : Bytes :=
  natLE m.ceCount 4 ++ natLE m.ueCount 4 ++ m.ceDie.flatMap (natLE · 4)
    ++ natLE ((m.erased.map (·.val)).getD 0xF) 4 ++ m.log.flatMap ErrEntry.bytes ++ m.remap.flatMap remapBytes

/-- The counts and the log as CLEAR leaves them; the remap table and the erased die stay (R628, R630, R635). -/
def MemSet.cleared (m : MemSet) : MemSet :=
  { m with ceCount := 0, ueCount := 0, ceDie := List.replicate 10 0, log := List.replicate 16 ErrEntry.empty }

def Device.memReport (d : Device) (n : Fin 64) : Device :=
  let p := d.params n
  let set := fld p 3 0
  let clear := bitAt p 4
  if 4 < set then d.fail n stConfig
  else if set = 4 then
    let bs := d.mem.onChip.flatMap fun c => natLE c.1 4 ++ natLE c.2 4
    let d := if clear then { d with mem := { d.mem with onChip := d.mem.onChip.map fun _ => (0, 0) } } else d
    d.reply n stOk bs
  else
    let bs := (d.memSet set).report
    let d := if clear then d.setMemSet set (d.memSet set).cleared else d
    d.reply n stOk bs

/-- MEM_REPORT (R718). -/
def execMemReport (now : Time) (drawer : Fin 64) (s : State) : Host.Outcome State Fault Refusal :=
  s.drawerCommand now drawer 0x0704 fun d => d.memReport drawer

end Sys2Proof.Machine
end

