-- ==== Sys2Proof/Machine/Seq.lean ====
section
/-!
DEFINITION. Sequence models (R206 to R256): the KV page table and its streams, the step list and its runs, the KV
window, the state slots and the adapters.
-/

namespace Sys2Proof.Machine

/-! ### What the Plan says (log entry 44) -/

def JobRef.seqPlan (r : JobRef) : Config.SeqPlan := Config.planSeq r.plan.bytes r.id.toNat

/-- The default bucket bounds of R227. -/
def defaultBounds : List Nat := [512, 1024, 2048, 4096, 8192, 16384, 32768, 65536]

/-- The bucket bounds of a job (R227). -/
def JobRef.bounds (r : JobRef) : List Nat := if r.seqPlan.bounds.isEmpty then defaultBounds else r.seqPlan.bounds

/-- Row capacity of a bucket (R230). -/
def JobRef.capacity (r : JobRef) (k : Nat) : Nat := nth r.seqPlan.capacities k 256

/-- The variant of a bucket (R232). -/
def JobRef.bucketVariant (r : JobRef) (k : Nat) : Nat := nth r.seqPlan.variants k 0

/-- Elements of a latent of layer `l` (R206). -/
def JobRef.latent (r : JobRef) (l : Nat) : Nat := (nth r.seqPlan.layers l (32, 0xB)).1

/-- The page format of layer `l` (R207). -/
def JobRef.pageFormat (r : JobRef) (l : Nat) : Nat := (nth r.seqPlan.layers l (32, 0xB)).2

/-- Bytes of a page of `latent` elements in a format (R208). -/
def pageBytes (latent format : Nat) : Nat := 256 * latent + if format = 0x3 then 8 * latent else 0

/-! ### Streams and pages (R208 to R223) -/

def Device.seqState (d : Device) (f : SeqState → SeqState) : Device := { d with seq := f d.seq }

def Device.kvStream (d : Device) (k : Nat) : Option KvStream := d.seq.streams.find k

def KvStream.entries (x : KvStream) : Nat := KvRec.layers x.record * KvRec.ppl x.record

/-- The entry of page `p` of layer `l` (R211). -/
def KvStream.entry (x : KvStream) (l p : Nat) : Nat := KvRec.base x.record + l * KvRec.ppl x.record + p

def KvStream.withLength (x : KvStream) (n : Nat) : KvStream :=
  { x with record := mkImage [(0, 37, x.record), (37, 19, n)] }

/-- Frames of the pool that no valid entry maps. -/
def Device.freeFrame (d : Device) (pool : Image) : Option Nat :=
  ((List.range (PoolRec.pages pool)).map fun k => PoolRec.base pool / 4096 + k * (pageStride / 4096)).find? fun f =>
    !d.seq.pages.any fun e => PageEntry.valid e.2 && PageEntry.frame e.2 == f && PageEntry.part e.2 == PoolRec.part pool

/-- Allocates the page of an entry: zeros first, then the entry becomes valid (R209). -/
def Device.allocPage (d : Device) (r : JobRef) (pool : Image) (entry layer : Nat) : Option Device :=
  match d.freeFrame pool with
  | none => none
  | some f =>
    let n := pageBytes (r.latent layer) (r.pageFormat layer)
    let d := d.writeLines (PoolRec.part pool) (f * 4096) (List.replicate n 0)
    some (d.seqState fun s => { s with pages := s.pages.put entry (mkImage [(0, 36, f), (36, 3, PoolRec.part pool),
      (39, 1, 1), (40, 4, r.pageFormat layer)]) })

/-- Valid entries for a stream up to `tokens` tokens (R219): none when the pool has no free page. A stream whose PAGES_PER_LAYER is
too small for the pages is treated alike, so that its sample goes with ST_KV_FULL (DESIGN CHOICE, log entry 44). -/
def Device.ensurePages (d : Device) (r : JobRef) (pool : Image) (x : KvStream) (tokens : Nat) : Option Device :=
  let n := ceilDiv tokens 256
  if KvRec.ppl x.record < n then none else
  (List.range (KvRec.layers x.record)).foldl (fun (d : Option Device) l =>
    (List.range n).foldl (fun (d : Option Device) p =>
      match d with
      | none => none
      | some d =>
        let e := x.entry l p
        if PageEntry.valid (d.seq.pages.getD e 0) then some d else d.allocPage r pool e l) d) (some d)

/-- A stream's entries become invalid. -/
def Device.dropPages (d : Device) (x : KvStream) : Device :=
  d.seqState fun s => { s with pages := s.pages.filter fun e =>
    !(KvRec.base x.record ≤ e.1 && e.1 < KvRec.base x.record + x.entries) }

/-- Closes a stream: its record and its pages go. -/
def Device.closeStream (d : Device) (k : Nat) : Device :=
  match d.kvStream k with
  | none => d
  | some x => (d.dropPages x).seqState fun s => { s with streams := s.streams.del k }

/-- R575: a changed view closes every stream of the partition. -/
def Device.closePartStreams (d : Device) (p : Nat) : Device :=
  (d.seq.streams.filter fun e => e.2.part.val == p).foldl (fun d e => d.closeStream e.1) d

/-- A period of a job bound to the stream is running (R223). -/
def Device.streamBusy (d : Device) (k : Nat) : Bool :=
  d.seq.steps.any fun s => s.2.runs.any fun u => u.rows.any fun w => w.1.toNat == k

/-- KV_OPEN (R212). A KV_ID that is already open, and a partition without a record, fail with ST_CONFIG too (DESIGN CHOICE, log
entry 44). -/
def Device.kvOpen (d : Device) (n : Fin 64) : Device :=
  let p := d.params n
  let k := fld p 15 0
  let rec' := fld p 127 64
  let x : KvStream := { record := rec', part := ⟨fld p 18 16 % 8, Nat.mod_lt _ (by decide)⟩ }
  let clash := d.seq.streams.any fun e =>
    decide (KvRec.base e.2.record < KvRec.base rec' + x.entries ∧ KvRec.base rec' < KvRec.base e.2.record + e.2.entries)
  if 4095 < k ∨ (d.kvStream k).isSome ∨ KvRec.ppl rec' = 0 ∨ 1024 < KvRec.ppl rec' ∨ KvRec.layers rec' = 0
    ∨ 128 < KvRec.layers rec' ∨ KvRec.length rec' ≠ 0 ∨ 262144 < KvRec.base rec' + x.entries ∨ clash
    ∨ (d.part x.part.val).record.isNone then d.fail n stConfig
  else (d.seqState fun s => { s with streams := s.streams.put k x }).reply n stOk []

/-- KV_CLOSE (R223): a stream in use by a running period closes when the period ends. -/
def Device.kvClose (d : Device) (n : Fin 64) : Device :=
  let k := fld (d.params n) 15 0
  if (d.kvStream k).isNone then d.fail n stConfig
  else if d.streamBusy k then d.goOn n
  else (d.closeStream k).reply n stOk []

/-- The KV_CLOSE commands that wait for a period's end (R223). -/
def Device.settleCloses (d : Device) : Device :=
  (List.finRange 64).foldl (fun (d : Device) n =>
    let x := d.drawer n
    if x.state = .busy ∧ x.going ∧ d.cmdOpcode n = 0x0402 then
      let k := fld (d.params n) 15 0
      if d.streamBusy k then d else (d.closeStream k).reply n stOk []
    else d) d

/-- KV_READ (R211). -/
def Device.kvRead (d : Device) (n : Fin 64) : Device :=
  match d.kvStream (fld (d.params n) 15 0) with
  | none => d.fail n stConfig
  | some x => d.reply n stOk (natLE x.record 8)

/-- KV_PAGE_READ (R210). -/
def Device.kvPageRead (d : Device) (n : Fin 64) : Device :=
  let first := fld (d.params n) 17 0
  let count := fld (d.params n) 31 18
  if count = 0 ∨ 8192 < count ∨ 262144 < first + count then d.fail n stConfig
  else d.reply n stOk ((List.range count).flatMap fun i => natLE (d.seq.pages.getD (first + i) 0) 8)

/-- KV_OPEN (R212). -/
def execKvOpen (now : Time) (drawer : Fin 64) (s : State) : Host.Outcome State Fault Refusal :=
  s.drawerCommand now drawer 0x0401 fun d => d.kvOpen drawer

/-- KV_CLOSE (R713). -/
def execKvClose (now : Time) (drawer : Fin 64) (s : State) : Host.Outcome State Fault Refusal :=
  s.drawerCommand now drawer 0x0402 fun d => d.kvClose drawer

/-- KV_READ (R713). -/
def execKvRead (now : Time) (drawer : Fin 64) (s : State) : Host.Outcome State Fault Refusal :=
  s.drawerCommand now drawer 0x0403 fun d => d.kvRead drawer

/-- KV_PAGE_READ (R210). -/
def execKvPageRead (now : Time) (drawer : Fin 64) (s : State) : Host.Outcome State Fault Refusal :=
  s.drawerCommand now drawer 0x0404 fun d => d.kvPageRead drawer

/-! ### Steps (R227 to R235) -/

/-- A sample of a step record (R231). -/
structure StepSample where
  kv : Nat
  tokens : Nat
  seq : Nat
  len : Nat
  deriving DecidableEq, Repr

/-- What sorting a step record has given so far. -/
structure StepBuild where
  dev : Device
  taken : List StepSample
  removed : List (BitVec 16 × BitVec 32 × Status)

def StepBuild.remove (b : StepBuild) (e : Image) (st : Status) : StepBuild :=
  { b with removed := b.removed ++ [(BitVec.ofNat 16 (fld e 15 0), BitVec.ofNat 32 (fld e 63 32), st)] }

/-- Takes one entry of the step record (R219, R222, R228, R231). NEW_TOKENS outside 1 to 4,096 removes the sample with ST_CONFIG;
two entries that name one KV stream are both taken, and LENGTH grows by both (DESIGN CHOICE, log entry 44). -/
def StepBuild.take (b : StepBuild) (r : JobRef) (pool : Image) (e : Image) : StepBuild :=
  let new := fld e 31 16
  if fld e 127 64 ≠ 0 then b.remove e stReserved
  else match b.dev.kvStream (fld e 15 0) with
  | none => b.remove e stConfig
  | some x =>
    let len := KvRec.length x.record + new
    if new = 0 ∨ 4096 < new then b.remove e stConfig
    else if 262144 < len ∨ (r.bounds.getLast?.getD 0) < len then b.remove e stLimit
    else match b.dev.ensurePages r pool x len with
    | none => b.remove e stKvFull
    | some d => { b with dev := d, taken := b.taken ++ [{ kv := fld e 15 0, tokens := new, seq := fld e 63 32, len }] }

/-- Cuts a list into pieces of at most `n`, over `fuel` elements. -/
def chunks {α : Type} (n : Nat) : Nat → List α → List (List α)
  | 0, _ => []
  | _, [] => []
  | k + 1, l => l.take (max 1 n) :: chunks n k (l.drop (max 1 n))

/-- The runs of a step (R228 to R230): buckets in rising order, rows by stream id, dense batches. -/
def stepRuns (r : JobRef) (ss : List StepSample) : List KvRun :=
  let bs := r.bounds
  (List.range bs.length).flatMap fun k =>
    let mine := ss.filter fun x => (bs.findIdx fun u => x.len ≤ u) == k
    let sorted := sortBy (fun (a b : StepSample) => decide (a.kv ≤ b.kv)) mine
    (chunks (r.capacity k) sorted.length sorted).zipIdx.map fun c =>
      { bucket := k, batch := c.2, rows := c.1.map fun x => (BitVec.ofNat 16 x.kv, x.tokens, BitVec.ofNat 32 x.seq) }

/-- The entries of a step record, as far as the record holds them. -/
def stepEntries (bs : Bytes) : List Image :=
  (List.range (min 256 (fld (imageAt bs 0 32) 8 0))).map fun i => imageAt bs (32 + 16 * i) 16

/-- Address of the step record of SEQ (R231). -/
def stepRecord (pool : Image) (seq : BitVec 32) : Nat := PoolRec.stepList pool + seq.toNat % 16 * 4352

/-- No stream that the step record of SEQ names is in use by a running period of another job (R223): the Bureau may change the
page table and the streams. -/
def Device.stepFree (d : Device) (r : JobRef) (pool : Image) (seq : BitVec 32) : Bool :=
  let ks := (stepEntries (d.readView r.part (stepRecord pool seq) 4352)).map fun e => BitVec.ofNat 16 (fld e 15 0)
  (d.seq.steps.filter fun s => s.1 != r.id.toNat).all fun s => s.2.runs.all fun u => u.rows.all fun w => !ks.contains w.1

/-- Reads the step record of SEQ and makes the step of a job (R219, R231, R232). A record that cannot be read without an
uncorrectable error removes every sample with ST_UNCORRECTABLE, a header with a reserved bit set every sample with ST_RESERVED,
and a COUNT above 256 every sample that the record holds with ST_CONFIG (DESIGN CHOICE, log entry 44). -/
def Device.buildStep (d : Device) (r : JobRef) (pool : Image) (seq : BitVec 32) : Device :=
  let a := stepRecord pool seq
  let (d, bad) := d.hubRead r.part a 4352
  let bs := d.readView r.part a 4352
  let h := imageAt bs 0 32
  let whole := if bad then some stUncorrectable else if fld h 255 9 ≠ 0 then some stReserved
    else if 256 < fld h 8 0 then some stConfig else none
  let b := (stepEntries bs).foldl (fun (b : StepBuild) e => match whole with
    | some st => b.remove e st
    | none => b.take r pool e) { dev := d, taken := [], removed := [] }
  let step : KvStep := { runs := stepRuns r b.taken, current := 0, removed := b.removed }
  b.dev.seqState fun s => { s with steps := s.steps.put r.id.toNat step }

def Device.kvStep (d : Device) (j : BitVec 16) : Option KvStep := d.seq.steps.find j.toNat

/-- The run in progress of a job. -/
def Device.kvRun (d : Device) (j : BitVec 16) : Option KvRun := (d.kvStep j).bind fun s => s.runs[s.current]?

/-- The identifiers of a step's samples, KV_ID and SAMPLE_SEQ, each with its status: the results, then the error list (R232, R234,
R235). -/
def KvStep.list (s : KvStep) : List (BitVec 16 × BitVec 32 × Status) :=
  (s.runs.flatMap fun u => u.rows.map fun w => (w.1, w.2.2, stOk)) ++ s.removed

/-- A step completes (R221): LENGTH grows, FILL is set and its results stand with their samples (R235); or is given up: LENGTH and
FILL stay. -/
def Device.endStep (d : Device) (j : BitVec 16) (completed : Bool) : Device :=
  match d.kvStep j with
  | none => d
  | some s =>
    let rows := s.runs.flatMap (·.rows)
    let grow (d : Device) (w : BitVec 16 × Nat × BitVec 32) : Device :=
      match d.kvStream w.1.toNat with
      | none => d
      | some x =>
        let len := KvRec.length x.record + w.2.1
        let pages := (List.range (KvRec.layers x.record)).foldl (fun (ps : Tbl Nat) l =>
          (List.range (ceilDiv len 256)).foldl (fun (ps : Tbl Nat) p =>
            let e := x.entry l p
            let old := ps.getD e 0
            ps.put e (mkImage [(0, 44, old), (44, 9, min 256 (len - 256 * p))])) ps) d.seq.pages
        d.seqState fun q => { q with pages, streams := q.streams.put w.1.toNat (x.withLength len) }
    let d := if completed then
        (rows.foldl grow d).seqState fun q => { q with results := q.results.put j.toNat s.list } else d
    (d.seqState fun q => { q with steps := q.steps.del j.toNat }).settleCloses

/-! ### The KV window (R213 to R217) -/

/-- Where a window address leads. -/
inductive KvHit where
  /-- A row that the run does not assign (R216). -/
  | unmapped
  /-- R217: treated as outside the view. -/
  | outside
  | addr (view : Nat)
  deriving DecidableEq, Repr

/-- R214, R216, R217, R232: resolves a window address for a job. -/
def Device.kvResolve (d : Device) (r : JobRef) (a : Nat) : KvHit :=
  match (d.kvRun r.id).bind fun u => u.rows[KvAddr.row a]? with
  | none => .unmapped
  | some w => match d.kvStream w.1.toNat with
    | none => .unmapped
    | some x =>
      let l := KvAddr.layer a
      let p := KvAddr.page a
      let e := d.seq.pages.getD (x.entry l p) 0
      if KvRec.layers x.record ≤ l ∨ KvRec.ppl x.record ≤ p ∨ !PageEntry.valid e ∨ PageEntry.part e ≠ r.part
        ∨ pageBytes (r.latent l) (PageEntry.format e) ≤ KvAddr.offset a then .outside
      else .addr (PageEntry.frame e * 4096 + KvAddr.offset a)

/-! ### State slots (R242 to R250) -/

def StateSlot.free : StateSlot := { phase := .free, queue := [], busyFor := none, skip := 0, removed := [] }
def Device.stSlot (d : Device) (k : Nat) : StateSlot := d.seq.slots.getD k StateSlot.free
def Device.setStSlot (d : Device) (k : Nat) (x : StateSlot) : Device :=
  d.seqState fun s => { s with slots := s.slots.put k x }

/-- The record and the job of a slot (R742). -/
def Device.slotRec (d : Device) (k : Nat) : Option (JobRef × Image) :=
  (d.activeJobs.filterMap fun r => ((planImages r.plan.bytes 0x11).find? fun x =>
    SlotRec.slot x == k && SlotRec.jobId x == r.id.toNat).map fun x => (r, x)).head?

/-- The slots of a job. -/
def JobRef.slots (r : JobRef) : List Nat :=
  ((planImages r.plan.bytes 0x11).filter fun x => SlotRec.jobId x == r.id.toNat).map SlotRec.slot

def isChunk : SlotReq → Bool
  | .chunk .. => true
  | _ => false

def isStarted : SlotReq → Bool
  | .chunk _ _ _ s => s
  | _ => false

/-- The chunk of the period SEQ. -/
def isChunkOf (seq : BitVec 32) : SlotReq → Bool
  | .chunk s _ _ _ => s == seq
  | _ => false

/-- The state of a slot whose contents stand in the tile stores: HELD while a chunk is queued or runs (R243). -/
def StateSlot.settled (x : StateSlot) : StateSlot :=
  { x with phase := if x.queue.any isChunk then .held else .resident }

/-- As `settled`, where no swap is under way and the slot is not swapped out. -/
def StateSlot.requeued (x : StateSlot) : StateSlot :=
  match x.phase with
  | .resident | .held => x.settled
  | _ => x

/-- SEQ of the open period of a slot's job. -/
def Device.slotSeq (d : Device) (k : Nat) : Option (BitVec 32) :=
  (d.slotRec k).bind fun r => (d.openPeriod r.1.id).map fun o => o.2.2.seq

/-- Carries out a slot's queue from its head as far as it goes (R244 to R249): a chunk starts with its period. A request that finds
the slot FREE completes at once and changes nothing, as R249 states for the other states that need no copy (DESIGN CHOICE, log
entry 45). -/
def Device.pumpSlot (d : Device) (k : Nat) : Nat → Device
  | 0 => d
  | fuel + 1 =>
    let x := d.stSlot k
    if x.phase = .swappingOut ∨ x.phase = .swappingIn then d else
    match x.queue with
    | [] => d
    | .swapOut n :: rest =>
      if x.phase = .swapped ∨ x.phase = .free then
        ((d.setStSlot k { x with queue := rest }).reply n stOk []).pumpSlot k fuel
      else d.setStSlot k { x with queue := rest, phase := .swappingOut, busyFor := some n }
    | .swapIn n :: rest =>
      if x.phase = .swapped then d.setStSlot k { x with queue := rest, phase := .swappingIn, busyFor := some n }
      else ((d.setStSlot k { x with queue := rest }).reply n stOk []).pumpSlot k fuel
    | .chunk s st a _ :: rest =>
      if x.phase = .swapped then d.setStSlot k { x with phase := .swappingIn, busyFor := none }
      else if d.slotSeq k = some s then d.setStSlot k { x with phase := .held, queue := .chunk s st a true :: rest }
      else d.setStSlot k { x with phase := .held }

def Device.runSlot (d : Device) (k : Nat) : Device := d.pumpSlot k ((d.stSlot k).queue.length + 1)

/-- A chunk joins a slot's queue (R244, R245). A FREE slot is bound to its stream with its first chunk, and stays bound while its
Plan stands (DESIGN CHOICE, log entry 45). -/
def Device.queueChunk (d : Device) (r : JobRef) (k : Nat) (seq : BitVec 32) : Device :=
  let x := d.stSlot k
  let (st, a) := Config.chunkInput r.plan.bytes k seq.toNat
  let y := { x with queue := x.queue ++ [SlotReq.chunk seq (BitVec.ofNat 16 st) (BitVec.ofNat 48 a) false] }
  (d.setStSlot k (if x.phase = .free then { y with phase := .held } else y.requeued)).runSlot k

/-- A period takes up the chunk that each slot of its job holds for it; where the trigger has brought none, it brings one itself
(log entry 45). -/
def Device.queueChunks (d : Device) (r : JobRef) (seq : BitVec 32) : Device :=
  r.slots.foldl (fun d k =>
    let x := d.stSlot k
    if x.queue.any (isChunkOf seq) then d.runSlot k
    else if 0 < x.skip then d.setStSlot k { x with skip := 0 }
    else d.queueChunk r k seq) d

/-- The chunks of a slot that wait for periods to come, the first of which has SEQ `next`. -/
def StateSlot.waiting (x : StateSlot) (next : BitVec 32) : Nat :=
  (x.queue.filter fun q => match q with
    | SlotReq.chunk s _ _ started => !started && decide (next ≤ s)
    | _ => false).length

/-- The trigger Hook of a job holds its chunks (R245): each unit of the count is a chunk in the queue of every slot of the job, and
a unit that is gone takes its chunk with it. -/
def Device.syncChunks (d : Device) (r : JobRef) : Device :=
  match d.run r.id with
  | none => d
  | some u =>
    if JobRec.trigger r.image ≠ 1 ∨ !u.started then d else
    let n := (d.hook (JobRec.triggerHook r.image)).count
    r.slots.foldl (fun d k =>
      let x := d.stSlot k
      let have_ := x.waiting u.nextSeq + x.skip
      if have_ < n then (List.range (n - have_)).foldl (fun d i =>
          d.queueChunk r k (u.nextSeq + BitVec.ofNat 32 (have_ + i))) d
      else if n < have_ then
        let last := u.nextSeq + BitVec.ofNat 32 n
        let y := { x with skip := min x.skip n, queue := x.queue.filter fun q => match q with
          | SlotReq.chunk s _ _ started => started || !decide (last ≤ s)
          | _ => true }
        (d.setStSlot k y.requeued).runSlot k
      else d) d

/-- The chunks of a period have all started, or have been withdrawn or removed. -/
def Device.chunksReady (d : Device) (r : JobRef) (seq : BitVec 32) : Bool :=
  r.slots.all fun k => (d.stSlot k).queue.all fun q => !isChunkOf seq q || isStarted q

/-- No slot of the job holds a chunk of the period (R248, R250): the period has no work. -/
def Device.chunksGone (d : Device) (r : JobRef) (seq : BitVec 32) : Bool :=
  !r.slots.isEmpty && r.slots.all fun k => !(d.stSlot k).queue.any (isChunkOf seq)

/-- A period of a job ends: its chunks leave their queues (R245). A swap that is under way goes on. -/
def Device.endChunks (d : Device) (r : JobRef) (seq : BitVec 32) : Device :=
  r.slots.foldl (fun d k =>
    let x := d.stSlot k
    let y := { x with queue := x.queue.filter fun q => !isChunkOf seq q
                      removed := x.removed.filter fun e => e.1 != seq }
    (d.setStSlot k y.requeued).runSlot k) d

/-- SLOT_SWAP_OUT (R244, R246, R249). -/
def Device.slotSwapOut (d : Device) (n : Fin 64) : Device :=
  let k := fld (d.params n) 11 0
  match d.slotRec k with
  | none => d.fail n stConfig
  | some (r, _) =>
    let d := d.syncChunks r
    let x := d.stSlot k
    if (x.phase = .swapped ∨ x.phase = .free) ∧ x.queue = [] then d.reply n stOk []
    else ((d.goOn n).setStSlot k { x with queue := x.queue ++ [SlotReq.swapOut n] }).runSlot k

/-- SLOT_SWAP_IN (R244, R249). -/
def Device.slotSwapIn (d : Device) (n : Fin 64) : Device :=
  let k := fld (d.params n) 11 0
  match d.slotRec k with
  | none => d.fail n stConfig
  | some (r, _) =>
    let d := d.syncChunks r
    let x := d.stSlot k
    let noOut := !x.queue.any fun q => match q with
      | .swapOut _ => true
      | _ => false
    if (x.phase = .resident ∨ x.phase = .held ∨ x.phase = .free) ∧ noOut then d.reply n stOk []
    else ((d.goOn n).setStSlot k { x with queue := x.queue ++ [SlotReq.swapIn n] }).runSlot k

/-- A withdrawn chunk as its 16 bytes (R713). -/
def chunkBytes : SlotReq → Bytes
  | .chunk s st a _ => natLE (mkImage [(0, 32, s.toNat), (32, 16, st.toNat), (64, 48, a.toNat)]) 16
  | _ => []

/-- The units of the trigger whose chunks have left every slot of the job leave the Hook. -/
def Device.dropUnits (d : Device) (r : JobRef) : Device :=
  match r.slots.map fun k => (d.stSlot k).skip with
  | [] => d
  | a :: l =>
    let n := l.foldl min a
    if n = 0 then d else
    let h := JobRec.triggerHook r.image
    let d := d.setHook h { d.hook h with count := (d.hook h).count - n }
    r.slots.foldl (fun d k => d.setStSlot k { d.stSlot k with skip := (d.stSlot k).skip - n }) d

/-- SLOT_WITHDRAW (R248): the chunks that have not started go back to the host, and with them their units of the trigger. -/
def Device.slotWithdraw (d : Device) (n : Fin 64) : Device :=
  let k := fld (d.params n) 11 0
  match d.slotRec k with
  | none => d.fail n stConfig
  | some (r, _) =>
    let d := d.syncChunks r
    let x := d.stSlot k
    let out (q : SlotReq) : Bool := isChunk q && !isStarted q
    let later := match d.run r.id with
      | some u => x.waiting u.nextSeq
      | none => 0
    let y := { x with skip := x.skip + later, queue := x.queue.filter fun q => !out q }
    (((d.setStSlot k y.requeued).dropUnits r).runSlot k).reply n stOk ((x.queue.filter out).flatMap chunkBytes)

def storeByte (x : TileState) (a : Nat) : Byte := (Cells.find x.t.store a).getD 0

/-- Writes bytes into a tile store; they are clean. -/
def TileState.putStore (x : TileState) (a : Nat) : Bytes → TileState
  | [] => x
  | b :: r =>
    ({ x with t := { x.t with store := Cells.put 0 x.t.store a b, poison := x.t.poison.filter (· != a) } }).putStore (a + 1) r

def TileState.getStore (x : TileState) (a n : Nat) : Bytes := (List.range n).map fun i => storeByte x (a + i)

/-- A command reads the store (R109 to R111): corrections are counted, and errors poison their bytes. True: a byte
that it reads is poisoned. -/
def Device.storeRead (d : Device) (t : Fin 4160) (se : StoreErrors) (spans : List (Nat × Nat)) : Device × Bool :=
  let inside (a : Nat) : Bool := spans.any fun s => s.1 ≤ a && a < s.1 + s.2
  let x := d.tile t
  let new := se.bad.filter inside
  let poison := (new.foldl (fun (p : List Nat) a => if p.contains a then p else a :: p) x.t.poison).mergeSort
  let d := d.setTile t { x with t := { x.t with poison, ceCount := min 65535 (x.t.ceCount + se.corrected) } }
  (d, poison.any inside)

/-- Reads the slices of a slot, each with the errors that its tile's store shows (R109 to R112): the bytes, and whether one of
them is poisoned. -/
def Device.readSlices (d : Device) (errs : List TileRead) :
    List (Nat × Nat × Nat) → Device × Bytes × Bool
  | [] => (d, [], false)
  | s :: rest =>
    match (d.serving s.1).bind finTile with
    | none => d.readSlices errs rest
    | some t =>
      let se := ((errs.find? fun e => e.tile == t).map (·.errors)).getD { corrected := 0, bad := [] }
      let (d, bad) := d.storeRead t se [(s.2.1, s.2.2)]
      let bs := (d.tile t).getStore s.2.1 s.2.2
      let (d, more, bad') := d.readSlices errs rest
      (d, bs ++ more, bad || bad')

/-- SWAP_OUT_DONE (R246): the slices stand in the swap home. A poisoned byte never leaves its tile (R112): the slot stays as it
was, and the request fails with ST_UNCORRECTABLE (DESIGN CHOICE, log entry 45). -/
def Device.swapOutDone (d : Device) (k : Nat) (errs : List TileRead) : Device :=
  let x := d.stSlot k
  match x.phase == .swappingOut, d.slotRec k with
  | true, some (r, rec') =>
    let (d, bs, bad) := d.readSlices errs (Config.slotSlices r.plan.bytes k)
    let d := if bad then d else d.writeLines r.part (SlotRec.home rec') bs
    let y := { x with busyFor := none }
    let d := d.setStSlot k (if bad then y.settled else { y with phase := .swapped })
    let d := match x.busyFor with
      | some n => d.reply n (if bad then stUncorrectable else stOk) []
      | none => d
    d.runSlot k
  | _, _ => d

/-- Puts the swap home's bytes back into the slices. -/
def Device.restoreSlices (d : Device) (bs : Bytes) : List (Nat × Nat × Nat) → Device
  | [] => d
  | s :: rest =>
    let d := match d.serving s.1 with
      | some t => d.setTile t ((d.tile t).putStore s.2.1 (bs.take s.2.2))
      | none => d
    d.restoreSlices (bs.drop s.2.2) rest

/-- The chunk at the head is removed with a status (R250): its period goes on without it, or its unit of the trigger leaves. -/
def StateSlot.dropHead (x : StateSlot) (st : Status) (next : BitVec 32) : StateSlot :=
  match x.queue with
  | .chunk s _ _ _ :: rest =>
    { x with queue := rest, removed := x.removed ++ [(s, st)], skip := x.skip + if next ≤ s then 1 else 0 }
  | _ => x

/-- SWAP_IN_DONE (R247, R250): the slices stand in the tile stores, or the home had an uncorrectable error. -/
def Device.swapInDone (d : Device) (k : Nat) (ue : Bool) : Device :=
  let x := d.stSlot k
  match x.phase == .swappingIn, d.slotRec k with
  | true, some (r, rec') =>
    let sl := Config.slotSlices r.plan.bytes k
    let n := (sl.map (·.2.2)).foldl (· + ·) 0
    let (d, bad) := d.hubRead r.part (SlotRec.home rec') n
    let bad := bad || ue
    let bs := d.readView r.part (SlotRec.home rec') n
    let y := { x with busyFor := none }
    if bad then
      let y := { y with phase := .swapped }
      match x.busyFor with
      | some m => ((d.setStSlot k y).reply m stUncorrectable []).runSlot k
      | none =>
        let next := ((d.run r.id).map fun u => u.nextSeq).getD 0
        let d := if x.queue.head?.any isChunk then d.modPeriod r.id fun p => { p with removed := p.removed + 1 } else d
        ((d.setStSlot k (y.dropHead stUncorrectable next)).dropUnits r).runSlot k
    else
      let d := (d.restoreSlices bs sl).setStSlot k y.settled
      (match x.busyFor with
       | some m => d.reply m stOk []
       | none => d).runSlot k
  | _, _ => d

/-! ### Adapters (R251 to R256) -/

def Adapter.zero : Adapter := { generation := 0, current := false }

/-- The generation that a serving job takes up at START (R255): that of the first adapter that it serves with; 0 if it uses none. -/
def Device.adapterGen (d : Device) (r : JobRef) : BitVec 32 :=
  match r.seqPlan.adapters.find? fun a => !a.trains with
  | none => 0
  | some a => (d.seq.adapters.getD a.number Adapter.zero).generation

/-- A training step completes (R254, R255): for each adapter that it trains, its other master buffer becomes current, and the
working copies are published under the next generation. Every step that completes publishes (DESIGN CHOICE, log entry 44). -/
def Device.publishAdapter (d : Device) (r : JobRef) : Device :=
  (r.seqPlan.adapters.filter (·.trains)).foldl (fun (d : Device) u =>
    let a := d.seq.adapters.getD u.number Adapter.zero
    d.seqState fun s => { s with
      adapters := s.adapters.put u.number { generation := a.generation + 1, current := !a.current } }) d

end Sys2Proof.Machine
end

