-- ==== Sys2Proof/Machine/Finisher.lean ====
section
/-!
DEFINITION. The Finisher (R336 to R351): decoding, thresholding and suppression of a detection head's output, the
detection list, and the region table it feeds to Ingest. All arithmetic is FP32, one rounding per written operation,
in the order in which the formulas are written (log entry 41).
-/

namespace Sys2Proof.Machine

/-! ### Region tables (R288) -/

/-- Commits a region table for a stream (R288): in use for ROI_HOLD frames. -/
def Device.commitRegions (d : Device) (tag : Nat) (rs : List Region) : Device :=
  match d.ing.streams.find tag with
  | some x =>
    let hold := (x.desc.map StreamDesc.roiHold).getD 0
    { d with ing := { d.ing with streams := d.ing.streams.put tag { x with roi := some { regions := rs, frames := hold } } } }
  | none => d

/-- A whole pixel as a uint16 field of a region record (R288). -/
def pixel16 (n : Int) : Nat := (max 0 (min n 65535)).toNat

/-- A rectangle widened by a margin and rounded outwards to whole pixels (R350, R398). -/
def regionOf (x0 y0 x1 y1 : F32) (margin : Nat) : Region :=
  let m := F32.ofInt margin
  { x0 := pixel16 ((FVal.floor (f32v (F32.sub x0 m))).getD 0)
    y0 := pixel16 ((FVal.floor (f32v (F32.sub y0 m))).getD 0)
    x1 := pixel16 ((FVal.ceil (f32v (F32.add x1 m))).getD 65535)
    y1 := pixel16 ((FVal.ceil (f32v (F32.add y1 m))).getD 65535) }

/-! ### Decoding (R341 to R344) -/

/-- A candidate box (R343, R344). -/
structure Candid where
  index : Nat
  score : F32
  cls : Nat
  level : Nat
  anchor : Nat
  gx : Nat
  gy : Nat
  x0 : F32
  y0 : F32
  x1 : F32
  y1 : F32
  deriving DecidableEq, Repr

/-- log2(e) in FP32. -/
def f32Log2e : F32 := 0x3FB8AA3B
def f32Half : F32 := 0x3F000000

/-- exp as exp2 of the argument times log2(e) (R341). -/
def F32.expE (x : F32) : F32 := F32.exp2 (F32.mul x f32Log2e)

def f32Nat (n : Nat) : F32 := F32.ofInt n

/-- The value of channel element `i` of a head tensor stored in format `fmt` (R339). -/
def headValue (fmt : Nat) (data : Image) (i : Nat) : F32 :=
  match TFmt.ofCode fmt with
  | some t => f32r (t.value (elemAt t.width data i))
  | none => f32NaN

/-- Bytes of one element of IN_FMT. -/
def elemBytes (fmt : Nat) : Nat := ((TFmt.ofCode fmt).map (·.width)).getD 0 / 8

/-- The decoded box of a cell's anchor (R341): x0, y0, x1, y1. -/
def decodeBox (f lv : Image) (gx gy a : Nat) (ch : Nat → F32) : List F32 :=
  let stride := f32Nat (LevelRec.stride lv)
  let ax := F32.mul (F32.add (f32Nat gx) f32Half) stride
  let ay := F32.mul (F32.add (f32Nat gy) f32Half) stride
  if FinDesc.decode f = 0 then
    let (aw, ah) := FinDesc.anchor f (LevelRec.anchorBase lv + a)
    let cx := F32.add ax (F32.mul (F32.mul (ch 0) aw) (FinDesc.varXy f))
    let cy := F32.add ay (F32.mul (F32.mul (ch 1) ah) (FinDesc.varXy f))
    let w := F32.mul aw (F32.expE (F32.min (F32.mul (ch 2) (FinDesc.varWh f)) (FinDesc.clampWh f)))
    let h := F32.mul ah (F32.expE (F32.min (F32.mul (ch 3) (FinDesc.varWh f)) (FinDesc.clampWh f)))
    let hw := F32.mul w f32Half
    let hh := F32.mul h f32Half
    [F32.sub cx hw, F32.sub cy hh, F32.add cx hw, F32.add cy hh]
  else
    let d (i : Nat) : F32 := F32.mul (F32.max (ch i) 0) stride
    [F32.sub ax (d 0), F32.sub ay (d 1), F32.add ax (d 2), F32.add ay (d 3)]

/-- CLIP (R342). -/
def clipBox (f : Image) (b : List F32) : List F32 :=
  let w := f32Nat (FinDesc.imgW f)
  let h := f32Nat (FinDesc.imgH f)
  let c (v hi : F32) : F32 := F32.min (F32.max v 0) hi
  [c (nth b 0 0) w, c (nth b 1 0) h, c (nth b 2 0) w, c (nth b 3 0) h]

/-- The score function of R343. -/
def scoreFn (f : Image) (x : F32) : F32 := if FinDesc.scoreFn f = 1 then F32.sigmoid x else x

/-- Scores of an anchor's classes (R343). -/
def classScores (f : Image) (ch : Nat → F32) : List F32 :=
  let obj := FinDesc.objEn f
  (List.range (FinDesc.ncls f)).map fun c =>
    let s := scoreFn f (ch (4 + obj.toNat + c))
    if obj then F32.mul s (scoreFn f (ch 4)) else s

/-- The highest-scoring class, the lowest index winning a tie; a NaN score makes the candidate's score NaN (R58). -/
def topClass (ss : List F32) : Nat × F32 :=
  if ss.any F32.isNaN then (0, f32NaN)
  else (ss.zipIdx.foldl (fun (a : Nat × F32) e => if F32.gt e.1 a.2 then (e.2, e.1) else a) (0, ss.headD f32NaN))

/-- Result of decoding: candidates that pass the threshold, counts of NONFINITE and EMPTY. -/
structure Decoded where
  cands : List Candid
  next : Nat
  nonfinite : Nat
  empty : Nat
  deriving DecidableEq, Repr

/-- One anchor of one cell (R341 to R344). -/
def decodeAnchor (f lv : Image) (l gx gy a : Nat) (ch : Nat → F32) (r : Decoded) : Decoded :=
  let raw := decodeBox f lv gx gy a ch
  let ss := classScores f ch
  let list : List (Nat × F32) :=
    if FinDesc.multiLabel f then ss.zipIdx.map fun e => (e.2, e.1) else [topClass ss]
  let r' := { r with next := r.next + list.length }
  if raw.any fun v => !F32.isFinite v then { r' with nonfinite := r.nonfinite + list.length }
  else
    let box := if FinDesc.clip f then clipBox f raw else raw
    let w := F32.sub (nth box 2 0) (nth box 0 0)
    let h := F32.sub (nth box 3 0) (nth box 1 0)
    if FinDesc.clip f ∧ (F32.isZero w ∨ F32.isZero h) then { r' with empty := r.empty + 1 }
    else
      list.zipIdx.foldl (fun (q : Decoded) e =>
        let s := e.1.2
        if !F32.isFinite s then { q with nonfinite := q.nonfinite + 1 }
        else if F32.gt s (FinDesc.scoreT f) then
          { q with cands := { index := r.next + e.2, score := s, cls := e.1.1, level := l, anchor := a, gx, gy,
                              x0 := nth box 0 0, y0 := nth box 1 0, x1 := nth box 2 0, y1 := nth box 3 0 } :: q.cands }
        else q) r'

/-- One level (R339, R344): order y, x, anchor. `data` is the tensor's elements as an image. -/
def decodeLevel (f : Image) (l : Nat) (data : Image) (r : Decoded) : Decoded :=
  let lv := FinDesc.level f l
  let k := 4 + (FinDesc.objEn f).toNat + FinDesc.ncls f
  let na := LevelRec.anchors lv
  (List.range (LevelRec.gridH lv)).foldl (fun r gy =>
    (List.range (LevelRec.gridW lv)).foldl (fun r gx =>
      (List.range na).foldl (fun r a =>
        let base := ((gy * LevelRec.gridW lv + gx) * na + a) * k
        decodeAnchor f lv l gx gy a (fun c => headValue (FinDesc.inFmt f) data (base + c)) r) r) r) r

/-- Candidates by descending score, the lower index first on a tie (R344, R345). -/
def byScore (a b : Candid) : Bool :=
  F32.lt b.score a.score || (!(F32.lt a.score b.score) && a.index ≤ b.index)

/-! ### Suppression (R345, R346) -/

def boxArea (c : Candid) : F32 := F32.mul (F32.sub c.x1 c.x0) (F32.sub c.y1 c.y0)

/-- IoU in FP32; 0 when the union is +0 (R345). -/
def iou (a b : Candid) : F32 :=
  let w := F32.max (F32.sub (F32.min a.x1 b.x1) (F32.max a.x0 b.x0)) 0
  let h := F32.max (F32.sub (F32.min a.y1 b.y1) (F32.max a.y0 b.y0)) 0
  let i := F32.mul w h
  let u := F32.sub (F32.add (boxArea a) (boxArea b)) i
  if F32.isZero u then 0 else F32.div i u

/-- Takes survivors from a class's sorted candidates. -/
def suppress (t : F32) : Nat → List Candid → List Candid
  | 0, _ => []
  | _, [] => []
  | n + 1, c :: r => c :: suppress t n (r.filter fun o => !F32.gt (iou c o) t)

/-- Survivors of all classes in list order (R346). -/
def survivors (f : Image) (cs : List Candid) : List Candid :=
  let all := (List.range (FinDesc.ncls f)).flatMap fun k =>
    let g := sortBy byScore (cs.filter fun c => c.cls == k)
    suppress (FinDesc.iouT f) g.length g
  sortBy (fun a b => F32.lt b.score a.score || (!(F32.lt a.score b.score) &&
    (a.cls < b.cls || (a.cls == b.cls && a.index ≤ b.index)))) all

/-- What a frame's list holds (R347). -/
structure FinList where
  tag : Nat
  candTrunc : Bool
  survTrunc : Bool
  cands : Nat
  nonfinite : Nat
  empty : Nat
  list : List Candid
  deriving DecidableEq, Repr

/-- From a frame's tensors to its list (R341 to R346). -/
def finishFrame (f : Image) (tag : Nat) (datas : List Image) : FinList :=
  let r := datas.zipIdx.foldl (fun r x => decodeLevel f x.2 x.1 r) { cands := [], next := 0, nonfinite := 0, empty := 0 }
  let trunc := FinDesc.maxCand f < r.cands.length
  let cs := if trunc then (sortBy byScore r.cands).take (FinDesc.maxCand f) else r.cands
  let sv := survivors f cs
  { tag, candTrunc := trunc, survTrunc := FinDesc.maxOut f < sv.length, cands := cs.length
    nonfinite := r.nonfinite, empty := r.empty, list := sv.take (FinDesc.maxOut f) }

/-- A survivor entry (R348). -/
def Candid.bytes (c : Candid) : Bytes :=
  natLE (mkImage [(0, 32, c.x0.toNat), (32, 32, c.y0.toNat), (64, 32, c.x1.toNat), (96, 32, c.y1.toNat),
    (128, 32, c.score.toNat), (160, 16, c.cls), (176, 3, c.level), (184, 4, c.anchor), (192, 16, c.gx),
    (208, 16, c.gy)]) 32

/-- A detection list (R347, R348): the frame tag's SEQ, STREAM_TAG and EPOCH go into the header. -/
def FinList.bytes (x : FinList) : Bytes :=
  natLE (mkImage [(0, 4, 1), (4, 1, x.candTrunc.toNat), (5, 1, x.survTrunc.toNat), (16, 16, fld x.tag 47 32),
    (32, 32, fld x.tag 31 0), (64, 16, fld x.tag 63 48), (80, 13, x.list.length), (96, 17, x.cands),
    (128, 32, sat32 x.nonfinite), (160, 32, sat32 x.empty)]) 32 ++ x.list.flatMap Candid.bytes

/-! ### The row -/

def FinisherJob.fresh : FinisherJob := { lists := 0, held := none, dropped := 0 }

def Device.finJob (d : Device) (j : BitVec 16) : FinisherJob := d.eng.fin.getD j.toNat FinisherJob.fresh
def Device.setFin (d : Device) (j : BitVec 16) (x : FinisherJob) : Device :=
  { d with eng := { d.eng with fin := d.eng.fin.put j.toNat x } }

/-- View address and bytes of level `l`'s head tensor (R339): level 0 begins with the frame tag. -/
def levelHome (r : JobRef) (f : Image) (l : Nat) : Nat × Nat :=
  let lv := FinDesc.level f l
  let k := 4 + (FinDesc.objEn f).toNat + FinDesc.ncls f
  let t := (r.record 4 (LevelRec.inRef lv)).getD 0
  let n := LevelRec.gridW lv * LevelRec.gridH lv * LevelRec.anchors lv * k * elemBytes (FinDesc.inFmt f)
  (TensorRec.viewAddr t, if l = 0 then n + 32 else n)

/-- The first 16 survivors that yield a region (R350). -/
def roiRegions (f : Image) (x : FinList) : List Region :=
  ((x.list.filter fun c => F32.le (FinDesc.roiMinScore f) c.score).take 16).map fun c =>
    regionOf (F32.mul c.x0 (FinDesc.roiScaleX f)) (F32.mul c.y0 (FinDesc.roiScaleY f))
      (F32.mul c.x1 (FinDesc.roiScaleX f)) (F32.mul c.y1 (FinDesc.roiScaleY f)) (FinDesc.roiMargin f)

/-- R350: the table is committed only when the list's SEQ is greater than that of the last one committed. -/
def Device.finCommit (d : Device) (f : Image) (x : FinList) : Device :=
  let tag := FinDesc.roiStream f
  let seq := BitVec.ofNat 32 (fld x.tag 31 0)
  if tag = 0xFFFF then d else
  match d.ing.streams.find tag with
  | none => d
  | some st =>
    if st.desc.any fun x => StreamDesc.roiSrc x ≠ 1 then d else
    let newer : Bool := match st.lastTableSeq with
      | some q => decide (q < seq)
      | none => true
    if newer then
      let d := d.commitRegions tag (roiRegions f x)
      match d.ing.streams.find tag with
      | some st => { d with ing := { d.ing with streams := d.ing.streams.put tag { st with lastTableSeq := some seq } } }
      | none => d
    else d

/-- Reads the frame's tensors, makes its list, writes it, signals DONE_HOOK and commits the regions (R340 to R350). -/
def Device.runFrame (d : Device) (r : JobRef) (f : Image) : Device :=
  let j := r.id
  let homes := (List.range (FinDesc.levels f)).map fun l => levelHome r f l
  let x := d.finJob j
  let out := ringAt (TensorRec.viewAddr ((r.record 4 (FinDesc.outRef f)).getD 0)) 4 131104 x.lists
  if homes.any (fun h => !d.inView r.part h.1 h.2) ∨ !d.inView r.part out 131104 then d.withholdStop j stAccess
  else
    let (d, bad) := homes.foldl (fun (a : Device × Bool) h =>
      let (d, b) := a.1.hubRead r.part h.1 h.2
      (d, a.2 || b)) (d, false)
    if bad then d.cancelPeriod j stUncorrectable
    else
      let datas := homes.zipIdx.map fun h =>
        leNat (d.readView r.part (if h.2 = 0 then h.1.1 + 32 else h.1.1) (if h.2 = 0 then h.1.2 - 32 else h.1.2))
      let tag := leNat (d.readView r.part (nth homes 0 (0, 0)).1 32)
      let l := finishFrame f tag datas
      let d := d.writeLines r.part out l.bytes
      let d := d.setFin j { x with lists := x.lists + 1 }
      let d := d.engineSignal j (FinDesc.doneHook f) 1
      (d.finCommit f l).markDone j stOk

/-- The frame tag lies in the job's memory view (R340). -/
def Device.tagInView (d : Device) (r : JobRef) (f : Image) : Bool := d.inView r.part (levelHome r f 0).1 32

/-- EPOCH of the frame now at level 0's home (R339). -/
def Device.frameEpoch (d : Device) (r : JobRef) (f : Image) : Nat :=
  fld (leNat (d.readView r.part (levelHome r f 0).1 8)) 63 48

/-- The Finisher has a frame of the job to take: one held from an earlier period (R572), or head tensors that IN_HOOK counts. -/
def Device.frameReady (d : Device) (r : JobRef) (f : Image) (p : Period) : Bool :=
  let x := d.finJob r.id
  let h := d.hook (FinDesc.inHook f)
  (x.held.isSome && x.held != some p.seq) || FinDesc.levels f ≤ h.count || h.granted.any fun w => w.who == .job r.id

/-- A frame of another job goes first (R565): the highest class, then the earliest S; on the same S the lower JOB_ID. -/
def Device.frameAhead (d : Device) (r : JobRef) (p : Period) : Bool :=
  d.activeJobs.any fun q => q.engine == engFinisher && q.id != r.id &&
    match d.working q.id, q.desc with
    | some (_, _, u), some g => d.frameReady q g u &&
        (decide (q.cls < r.cls) || (q.cls == r.cls &&
          (decide (timeDiff u.s p.s < 0) || (u.s == p.s && decide (q.id < r.id)))))
    | _, _ => false

/-- FINISHER_FRAME (R351, R565, R572): a frame held in an earlier period is used when its epoch now equals the period's,
and dropped otherwise; a new frame is taken once IN_HOOK yields LEVELS. -/
def execFinisherFrame (now : Time) (job : BitVec 16) (s : State) : Host.Outcome State Fault Refusal :=
  s.onUp now fun d =>
    match d.working job with
    | some (r, _, p) =>
      match r.engine == engFinisher && d.engineFree .fusion, r.desc with
      | true, some f =>
        let x := d.finJob job
        if d.frameAhead r p then d else
        let same := BitVec.ofNat 16 (d.frameEpoch r f) == p.epoch
        if x.held.isSome ∧ x.held ≠ some p.seq then
          if !d.tagInView r f then d.withholdStop job stAccess
          else if same then (d.setFin job { x with held := none }).runFrame r f
          else d.setFin job { x with held := none, dropped := sat32 (x.dropped + 1) }
        else
          match d.takeHook (.job job) (FinDesc.inHook f) (FinDesc.levels f) with
          | (d, false) => d
          | (d, true) =>
            if !d.tagInView r f then d.withholdStop job stAccess
            else if same then d.runFrame r f
            else d.setFin job { x with held := some p.seq,
                                       dropped := if x.held.isSome then sat32 (x.dropped + 1) else x.dropped }
      | _, _ => d
    | none => d

end Sys2Proof.Machine
end

