-- ==== Sys2Proof/Machine/Shelf.lean ====
section
/-!
DEFINITION. The Shelf (R399 to R418): the tree and the cost maps, batches, versions and the change log.
-/

namespace Sys2Proof.Machine

/-! ### The tree (R400 to R403) -/

def Oct.children : Oct → List Oct
  | .leaf s => List.replicate 8 (.leaf s)
  | .node _ c0 c1 c2 c3 c4 c5 c6 c7 => [c0, c1, c2, c3, c4, c5, c6, c7]

/-- The group's version, of a node. -/
def Oct.born? : Oct → Option (BitVec 32)
  | .leaf _ => none
  | .node b .. => some b

/-- A node over eight children, pruned when they are all one leaf (R403). -/
def Oct.join (born : BitVec 32) : List Oct → Oct
  | [c0, c1, c2, c3, c4, c5, c6, c7] =>
    match c0 with
    | .leaf s =>
      if [c1, c2, c3, c4, c5, c6, c7].all (· == .leaf s) then .leaf s else .node born c0 c1 c2 c3 c4 c5 c6 c7
    | _ => .node born c0 c1 c2 c3 c4 c5 c6 c7
  | _ => .leaf 0

/-- An inclusive range of node boxes at one level. -/
structure BoxRange where
  x0 : Nat
  y0 : Nat
  z0 : Nat
  x1 : Nat
  y1 : Nat
  z1 : Nat
  deriving DecidableEq, Repr

/-- Sets the boxes of a range to a state, `k` levels above the range's level; (x, y, z) is the node's first box at
that level. A group that changes is written anew by version `v` (copy on write). -/
def Oct.setBox (v : BitVec 32) (st : BitVec 2) (r : BoxRange) : Nat → Nat → Nat → Nat → Oct → Oct
  | k, x, y, z, t =>
    let n := 2 ^ k
    if x + n ≤ r.x0 ∨ r.x1 < x ∨ y + n ≤ r.y0 ∨ r.y1 < y ∨ z + n ≤ r.z0 ∨ r.z1 < z then t
    else if r.x0 ≤ x ∧ x + n ≤ r.x1 + 1 ∧ r.y0 ≤ y ∧ y + n ≤ r.y1 + 1 ∧ r.z0 ≤ z ∧ z + n ≤ r.z1 + 1 then
      if t = .leaf st then t else .leaf st
    else match k with
      | 0 => t
      | k + 1 =>
        let h := 2 ^ k
        let cs := t.children.zipIdx.map fun c =>
          Oct.setBox v st r k (x + h * (c.2 % 2)) (y + h * (c.2 / 2 % 2)) (z + h * (c.2 / 4)) c.1
        if cs = t.children then t else Oct.join v cs

/-- Child groups of a tree that none of the other trees, at the same place, shares (R401, R416). -/
def Oct.ownGroups : Oct → List Oct → Nat
  | .leaf _, _ => 0
  | .node b c0 c1 c2 c3 c4 c5 c6 c7, os =>
    if os.any fun o => o.born? == some b then 0
    else
      let at_ (i : Nat) : List Oct := os.map fun o => nth o.children i (.leaf 0)
      1 + c0.ownGroups (at_ 0) + c1.ownGroups (at_ 1) + c2.ownGroups (at_ 2) + c3.ownGroups (at_ 3)
        + c4.ownGroups (at_ 4) + c5.ownGroups (at_ 5) + c6.ownGroups (at_ 6) + c7.ownGroups (at_ 7)

/-- Groups that a list of live trees holds together, roots included (R401, R416; log entry 42). -/
def liveGroups : List Oct → Nat
  | [] => 0
  | t :: r => 1 + t.ownGroups r + liveGroups r

/-- The STATE of the leaf-level box at tree index (x, y, z), `k` levels below the node. -/
def Oct.stateAt : Nat → Nat → Nat → Nat → Oct → BitVec 2
  | _, _, _, _, .leaf s => s
  | 0, _, _, _, .node .. => 3
  | k + 1, x, y, z, t =>
    let h := 2 ^ k
    let i := x / h % 2 + 2 * (y / h % 2) + 4 * (z / h % 2)
    (nth t.children i (.leaf 0)).stateAt k x y z

/-- The entry (i, j, k) of level `l` of a tree, with the version of its child group; `v` is the root's. -/
def Oct.entryAt : Nat → Nat → Nat → Nat → BitVec 32 → Oct → Option (BitVec 32 × Oct)
  | 0, _, _, _, v, t => some (v, t)
  | l + 1, i, j, k, _, .node b c0 c1 c2 c3 c4 c5 c6 c7 =>
    let h := 2 ^ l
    (nth [c0, c1, c2, c3, c4, c5, c6, c7] (i / h % 2 + 2 * (j / h % 2) + 4 * (k / h % 2)) (.leaf 0)).entryAt l i j k b
  | _ + 1, _, _, _, _, .leaf _ => none

/-! ### Cost maps (R404) -/

/-- Patch number of a cell within its shelf. -/
def patchOf (u v : Nat) : Nat := v / 32 * 32 + u / 32

def emptyPatch : Bytes := List.replicate 1024 0

def ShelfVersion.patch (x : ShelfVersion) (key : Nat) : Bytes := ((x.patches.find key).map (·.cells)).getD emptyPatch

/-- The version that wrote a patch; 0 for the clearing of R406. -/
def ShelfVersion.patchBorn (x : ShelfVersion) (key : Nat) : BitVec 32 := ((x.patches.find key).map (·.born)).getD 0

def ShelfVersion.putPatch (x : ShelfVersion) (key : Nat) (cells : Bytes) : ShelfVersion :=
  { x with patches := x.patches.put key { born := x.number, cells } }

/-- Sets a rectangle of cells (SHELF_RECT). -/
def ShelfVersion.setRect (x : ShelfVersion) (k x0 y0 x1 y1 : Nat) (cost : Byte) : ShelfVersion :=
  (List.range (y1 / 32 + 1 - y0 / 32)).foldl (fun x j =>
    (List.range (x1 / 32 + 1 - x0 / 32)).foldl (fun (x : ShelfVersion) i =>
      let pu := x0 / 32 + i
      let pv := y0 / 32 + j
      let key := k * 1024 + pv * 32 + pu
      x.putPatch key ((x.patch key).zipIdx.map fun c =>
        let u := pu * 32 + c.2 % 32
        let v := pv * 32 + c.2 / 32
        if x0 ≤ u ∧ u ≤ x1 ∧ y0 ≤ v ∧ v ≤ y1 then cost else c.1)) x) x

/-- Patches of the pool that live versions hold together (R404, R416): one for each patch of a version, more where
versions differ. -/
def livePatches (shelves : Nat) (vs : List ShelfVersion) : Nat :=
  let keys := (vs.flatMap fun v => v.patches.map (·.1)).eraseDups
  shelves * 1024 + (keys.map fun k =>
    ((vs.map fun v => (v.patches.find k).map (·.born)).eraseDups).length - 1).foldl (· + ·) 0

/-! ### World coordinates (R400, R404, R418) -/

def metres (mm : Nat) : F32 := F32.div (f32Nat mm) 0x447A0000

/-- Edge coordinate of tree index `i` at level `l` on an axis. -/
def treeEdge (desc : Image) (axis l i : Nat) : F32 :=
  F32.add (nth (ShelfDesc.origin desc) axis 0)
    (F32.mul (f32Nat (i * 2 ^ (ShelfDesc.depth desc - l))) (metres (ShelfDesc.leafMm desc)))

/-- The change box of a record (R418): x0, y0, z0, x1, y1, z1. -/
def changeBox (desc r : Image) : List F32 :=
  match MapRec.kind r with
  | 0 | 1 =>
    let l := MapRec.level r
    let (x1, y1, z1) := if MapRec.kind r = 0 then (MapRec.x0 r, MapRec.y0 r, MapRec.z0 r)
                        else (MapRec.x1 r, MapRec.y1 r, MapRec.z1 r)
    [treeEdge desc 0 l (MapRec.x0 r), treeEdge desc 1 l (MapRec.y0 r), treeEdge desc 2 l (MapRec.z0 r),
     treeEdge desc 0 l (x1 + 1), treeEdge desc 1 l (y1 + 1), treeEdge desc 2 l (z1 + 1)]
  | _ =>
    let s := ShelfDesc.shelf desc (MapRec.shelf r)
    let c := metres (ShelfRec.cellMm s)
    let (u1, v1) := if MapRec.kind r = 2 then (MapRec.x1 r, MapRec.y1 r) else (MapRec.x0 r + 31, MapRec.y0 r + 31)
    let ex (u : Nat) : F32 := F32.add (ShelfRec.originX s) (F32.mul (f32Nat u) c)
    let ey (v : Nat) : F32 := F32.add (ShelfRec.originY s) (F32.mul (f32Nat v) c)
    [ex (MapRec.x0 r), ey (MapRec.y0 r), ShelfRec.zmin s, ex (u1 + 1), ey (v1 + 1), ShelfRec.zmax s]

/-- The smallest box that holds two boxes. -/
def boxUnion (a b : List F32) : List F32 :=
  (List.range 6).map fun i => if i < 3 then F32.min (nth a i 0) (nth b i 0) else F32.max (nth a i 0) (nth b i 0)

/-- The boxes of a change-log entry (R417): box 15 takes in all from record 15 on. -/
def logBoxes (bs : List (List F32)) : List (List F32) :=
  if bs.length ≤ 16 then bs
  else match bs.drop 15 with
    | [] => bs.take 15
    | b :: r => bs.take 15 ++ [r.foldl boxUnion b]

/-! ### Batches (R408 to R412) -/

def batchRec (bs : Bytes) (i : Nat) : Image := imageAt bs (32 + 32 * i) 32

def batchRecs (bs : Bytes) : List Image := (List.range (MapHdr.records (imageAt bs 0 32))).map (batchRec bs)

/-- Payload `k` of a batch. -/
def batchPatch (bs : Bytes) (k : Nat) : Bytes := slice bs (32 + 32 * MapHdr.records (imageAt bs 0 32) + 1024 * k) 1024

/-- A record's coordinates lie in its grid, its ranges are ordered, and its payload exists (R411). -/
def mapRecOk (desc : Image) (patches : Nat) (r : Image) : Bool :=
  let l := MapRec.level r
  let g := 2 ^ l
  match MapRec.kind r with
  | 0 => l ≤ ShelfDesc.depth desc && MapRec.x0 r < g && MapRec.y0 r < g && MapRec.z0 r < g
  | 1 => l ≤ ShelfDesc.depth desc && MapRec.x0 r ≤ MapRec.x1 r && MapRec.y0 r ≤ MapRec.y1 r
      && MapRec.z0 r ≤ MapRec.z1 r && MapRec.x1 r < g && MapRec.y1 r < g && MapRec.z1 r < g
  | 2 => MapRec.shelf r < ShelfDesc.shelves desc && MapRec.x0 r ≤ MapRec.x1 r && MapRec.y0 r ≤ MapRec.y1 r
      && MapRec.x1 r < 1024 && MapRec.y1 r < 1024
  | 3 => MapRec.shelf r < ShelfDesc.shelves desc && MapRec.x0 r % 32 == 0 && MapRec.y0 r % 32 == 0
      && MapRec.x0 r < 1024 && MapRec.y0 r < 1024 && MapRec.payload r < patches
  | _ => false

/-- The refusals of R411 that the batch's own bytes show (log entry 43 for FMT_VER and a reserved STATE). -/
def checkBatch (desc : Image) (bs : Bytes) : Option Status :=
  let h := imageAt bs 0 32
  let n := MapHdr.records h
  let p := MapHdr.patches h
  let rs := batchRecs bs
  let treeKind (r : Image) : Bool := MapRec.kind r < 2
  if MapHdr.fmtVer h ≠ 1 ∨ !rsvdZero h MapHdr.rsvd ∨ rs.any (fun r => !rsvdZero r MapRec.rsvd)
    ∨ rs.any (fun r => treeKind r && MapRec.state r == 3) then some stReserved
  else if n = 0 ∨ 16384 < n ∨ 1024 < p ∨ bs.length < 32 + 32 * n + 1024 * p then some stLimit
  else if rs.any fun r => !mapRecOk desc p r then some stLimit
  else none

/-- Applies one record to the version being built (R410). -/
def ShelfVersion.applyRec (desc : Image) (bs : Bytes) (x : ShelfVersion) (r : Image) : ShelfVersion :=
  match MapRec.kind r with
  | 0 => let b : BoxRange := ⟨MapRec.x0 r, MapRec.y0 r, MapRec.z0 r, MapRec.x0 r, MapRec.y0 r, MapRec.z0 r⟩
         { x with tree := x.tree.setBox x.number (BitVec.ofNat 2 (MapRec.state r)) b (MapRec.level r) 0 0 0 }
  | 1 => let b : BoxRange := ⟨MapRec.x0 r, MapRec.y0 r, MapRec.z0 r, MapRec.x1 r, MapRec.y1 r, MapRec.z1 r⟩
         { x with tree := x.tree.setBox x.number (BitVec.ofNat 2 (MapRec.state r)) b (MapRec.level r) 0 0 0 }
  | 2 => x.setRect (MapRec.shelf r) (MapRec.x0 r) (MapRec.y0 r) (MapRec.x1 r) (MapRec.y1 r)
           (BitVec.ofNat 8 (MapRec.cost r))
  | 3 => x.putPatch (MapRec.shelf r * 1024 + patchOf (MapRec.x0 r) (MapRec.y0 r)) (batchPatch bs (MapRec.payload r))
  | _ => let _ := desc
         x

/-! ### Poisoned words (R427, R627) -/

/-- The word that an upset of the current or a pinned version spoils: by the place, with the version that wrote it. -/
def ShelfVersion.wordAt (x : ShelfVersion) : ShelfPlace → Option ShelfWord
  | .entry l i j k => (x.tree.entryAt l i j k x.number).map fun e => .node e.1 l i j k
  | .cells p w => some (.cells (x.patchBorn p) p w)

/-- A record writes every cell of a word of a patch. -/
def rewrites (r : Image) (patch word : Nat) : Bool :=
  let u := patch % 32 * 32 + word % 4 * 8
  let v := patch % 1024 / 32 * 32 + word / 4
  MapRec.shelf r == patch / 1024 &&
    match MapRec.kind r with
    | 2 => MapRec.x0 r ≤ u && u + 7 ≤ MapRec.x1 r && MapRec.y0 r ≤ v && v ≤ MapRec.y1 r
    | 3 => patchOf (MapRec.x0 r) (MapRec.y0 r) == patch % 1024
    | _ => false

/-- What a commit leaves of a poisoned word in the groups and patches that it copies: a word that it does not write again is copied with
its poison. -/
def carryPoison (old new : ShelfVersion) (rs : List Image) : ShelfWord → List ShelfWord
  | .node b l i j k =>
    match old.tree.entryAt l i j k old.number, new.tree.entryAt l i j k new.number with
    | some (a, t), some (c, u) => if a = b ∧ c ≠ b ∧ t = u then [.node c l i j k] else []
    | _, _ => []
  | .cells b p w =>
    if old.patchBorn p = b ∧ new.patchBorn p ≠ b ∧ !rs.any (fun r => rewrites r p w) then [.cells (new.patchBorn p) p w] else []

/-- The version after another (R412). -/
def nextVersion (v : BitVec 32) : BitVec 32 := if v = 0xFFFFFFFF then 1 else v + 1

/-- The live versions: the current one and those pinned (R416). -/
def ShelfState.live (x : ShelfState) : List ShelfVersion :=
  (x.current :: x.pins.filterMap id).eraseDups

/-- Builds and commits a batch, or refuses it (R411, R412, R417). -/
def ShelfState.commit (x : ShelfState) (desc : Image) (bs : Bytes) : ShelfState × Status :=
  match checkBatch desc bs with
  | some st => (x, st)
  | none =>
    let rs := batchRecs bs
    let v := rs.foldl (ShelfVersion.applyRec desc bs) { x.current with number := nextVersion x.current.number }
    let all := v :: x.live
    if 65536 < liveGroups (all.map (·.tree)) ∨ 16384 < livePatches (ShelfDesc.shelves desc) all then (x, stMapFull)
    else
      let e : ChangeEntry := { version := v.number, boxes := logBoxes (rs.map (changeBox desc)) }
      ({ x with current := v, log := (x.log ++ [e]).drop (x.log.length + 1 - 64)
                poison := x.poison ++ x.poison.flatMap (carryPoison x.current v rs) }, stOk)

/-! ### The queue (R407, R414) -/

def Device.shelf (d : Device) (f : ShelfState → ShelfState) : Device :=
  { d with eng := { d.eng with shelf := f d.eng.shelf } }

/-- Takes one waiting ring signal while the queue has space (R407). -/
def Device.admitMap (d : Device) : Device :=
  match d.eng.shelf.desc with
  | none => d
  | some desc =>
    if d.eng.shelf.queue.length < 16 then
      match d.takeHook .shelf (ShelfDesc.updateHook desc) 1 with
      | (d, true) => d.shelf fun x => { x with
          queue := x.queue ++ [{ drawer := none, slot := x.nextSlot, bytes := [] }]
          nextSlot := (x.nextSlot + 1) % max 1 (ShelfDesc.slots desc) }
      | (d, false) => d
    else d

/-- Takes the waiting ring signals that the queue has space for. -/
def Device.admitMaps (d : Device) : Device := (List.range 16).foldl (fun (d : Device) _ => d.admitMap) d

/-- A MAP_UPDATE's object joins the queue, behind the ring signals that wait for space (R407). -/
def Device.queueMap (d : Device) (n : Fin 64) (bs : Bytes) : Device :=
  let d := d.admitMaps
  if d.eng.shelf.desc.isNone then d.fail n stConfig
  else if d.eng.shelf.queue.length ≥ 16 then d.fail n stOverrun
  else d.shelf fun x => { x with queue := x.queue ++ [{ drawer := some n, slot := 0, bytes := bs }] }

/-- STATUS and VERSION of a processed batch (R414): to the Drawer, or into the slot and then by DONE_HOOK. -/
def Device.answerMap (d : Device) (b : Batch32) (st : Status) (v : BitVec 32) : Device :=
  match b.drawer with
  | some n => d.reply n st (natLE (mkImage [(0, 16, st.toNat), (32, 32, v.toNat)]) 8)
  | none =>
    match d.eng.shelf.desc with
    | none => d
    | some desc =>
      let a := ShelfDesc.ring desc + b.slot * (ShelfDesc.slotKib desc * 1024)
      let d := d.writeViewBytes d.eng.shelf.part (a + 2) (natLE st.toNat 2)
      let d := d.writeViewBytes d.eng.shelf.part (a + 8) (natLE v.toNat 4)
      d.signalHook .bureau (ShelfDesc.doneHook desc) 1

/-- The bytes of a batch at the head of the queue: a ring slot is read now (R414). -/
def Device.mapBytes (d : Device) (desc : Image) (b : Batch32) : Device × Bytes × Bool :=
  match b.drawer with
  | some _ => (d, b.bytes, false)
  | none =>
    let size := ShelfDesc.slotKib desc * 1024
    let a := ShelfDesc.ring desc + b.slot * size
    let (d, bad) := d.hubRead d.eng.shelf.part a size
    (d, d.readView d.eng.shelf.part a size, bad)

/-- Processes the batch at the head of the queue (R411 to R414). -/
def Device.shelfBatch (d : Device) : Device :=
  match d.eng.shelf.queue, d.eng.shelf.desc with
  | b :: rest, some desc =>
    let d := d.shelf fun x => { x with queue := rest }
    let (d, bs, bad) := d.mapBytes desc b
    let d := if bad then d.answerMap b stUncorrectable 0 else
      match d.eng.shelf.commit desc bs with
      | (x, st) =>
        let d := d.shelf fun _ => x
        d.answerMap b st (if st = stOk then x.current.number else 0)
    d.admitMaps
  | _, _ => d

/-- R406: a PLAN_ACTIVATE whose Shelf descriptor differs clears the Shelf; queued batches are answered ST_CONFIG. -/
def Device.installShelf (d : Device) (desc : Option Image) (part : Nat) : Device :=
  if d.eng.shelf.desc = desc then d
  else
    let d := (d.eng.shelf.queue.foldl (fun d b => d.answerMap b stConfig 0) d).forgetWaits .shelf
    d.shelf fun _ => { ShelfState.reset with desc, part }

/-- MAP_UPDATE (R407): arms the transfer of its batch. -/
def execMapUpdate (now : Time) (drawer : Fin 64) (s : State) : Host.Outcome State Fault Refusal :=
  s.drawerCommand now drawer 0x0501 fun d =>
    if d.eng.shelf.desc.isNone then d.fail drawer stConfig
    else d.armBulk drawer (fld (d.params drawer) 255 0) 1572896 none

/-- SHELF_UPDATE_SIGNAL (R407): the Shelf takes a signal of UPDATE_HOOK into its queue. -/
def execShelfUpdateSignal (now : Time) (s : State) : Host.Outcome State Fault Refusal :=
  s.onUp now Device.admitMaps

/-- SHELF_BATCH (R412). -/
def execShelfBatch (now : Time) (s : State) : Host.Outcome State Fault Refusal := s.onUp now Device.shelfBatch

/-! ### Pins (R415, R416) and the change test (R440) -/

/-- An instance pins the current version in place of what it held. -/
def Device.pin (d : Device) (inst : Fin 2) : Device :=
  d.shelf fun x => { x with pins := setAt x.pins inst.val (some x.current) }

def Device.unpin (d : Device) (inst : Fin 2) : Device :=
  d.shelf fun x => { x with pins := setAt x.pins inst.val none }

/-- The change-log entries of the commits after version `v`, when all of them are still in the log. -/
def ShelfState.changesSince (x : ShelfState) (v : BitVec 32) : Option (List ChangeEntry) :=
  let n := (x.current.number - v).toNat
  let n := if x.current.number < v then n - 1 else n
  if x.log.length < n then none else some (x.log.drop (x.log.length - n))

end Sys2Proof.Machine
end

