-- ==== Sys2Proof/Machine/Cleanup.lean ====
section
/-!
DEFINITION. How a period ends without its result, how its job is made clean, and how a job stops (R189, R550 to
R552, R558, R577).
-/

namespace Sys2Proof.Machine

/-! ### Ingest streams of a job (R261, R551) -/

/-- The ingest destination record of index `i` and its job: that of the first active Plan that holds the record
(log entry 46). -/
def Device.destOf (d : Device) (i : Nat) : Option (JobRef × Image) :=
  (d.activePlans.filterMap fun p => match planRec p.bytes 8 i with
    | some x => (d.job (BitVec.ofNat 16 (DestRec.jobId x))).map fun r => (r, x)
    | none => none).head?

/-- The destination of a stream's descriptor. -/
def Device.streamDest (d : Device) (desc : Image) : Option (JobRef × Image) := d.destOf (StreamDesc.destRef desc)

/-- A stream that can produce no further result of the old epoch acknowledges a mode change (R570). -/
def Device.ackStream (d : Device) (tag : BitVec 12) : Device :=
  { d with jobs := { d.jobs with parts := d.jobs.parts.map fun p => match p.mode with
      | some m => { p with mode := some { m with streams := m.streams.filter (· != tag) } }
      | none => p } }

/-- The sample of a group member has failed or is lost: the member is shown as missing (R314). -/
def GroupInstance.fail (g : GroupInstance) (tag : BitVec 12) (seq : BitVec 32) : GroupInstance :=
  { g with members := g.members.map fun (m : GroupMember) =>
      if m.tag = tag ∧ m.seq = seq then { m with failed := true } else m }

def Device.failMember (d : Device) (tag : BitVec 12) (seq : BitVec 32) : Device :=
  { d with ing := { d.ing with groups := d.ing.groups.mapVals fun _ (g : Group) =>
      { g with instances := g.instances.map fun (i : GroupInstance) => i.fail tag seq } } }

/-- A stream restarts (R551): its samples and batches are dropped and its positions return to 0. -/
def Device.restartStream (d : Device) (tag : Nat) (x : Stream) (dest : Image) : Device :=
  let t := BitVec.ofNat 12 tag
  let y : Stream := { x with samples := [], batches := [], nextSlot := 0, posted := [],
                             dropSeq := match x.samples.getLast? with
                               | some s => if s.whole then x.dropSeq else some s.seq
                               | none => x.dropSeq }
  let ing := { d.ing with
    streams := d.ing.streams.put tag y
    queue := d.ing.queue.filter fun q => q.1 != t
    decoders := d.ing.decoders.map fun q => match q with
      | some e => if e.1 = t then none else some e
      | none => none }
  let d := x.samples.foldl (fun (d : Device) (q : Sample) => if q.grouped then d.failMember t q.seq else d) { d with ing }
  ((d.initHook (DestRec.descHook dest) 0).initHook (DestRec.freeHook dest) (DestRec.slots dest)).ackStream t

/-- Restarts the streams whose DESC_HOOK belongs to a job (R551). -/
def Device.restartStreams (d : Device) (r : JobRef) : Device :=
  d.ing.streams.foldl (fun d e =>
    match e.2.desc with
    | none => d
    | some x => match d.streamDest x with
      | some (q, dest) => if q.id = r.id then d.restartStream e.1 e.2 dest else d
      | none => d) d

/-- The Hooks allocated to a job alone return to the Plan's counts (R189, R551). -/
def Device.resetJobHooks (d : Device) (j : BitVec 16) : Device :=
  d.hooks.alloc.foldl (fun d e => if e.2.job = some j then d.initHook e.1 e.2.init else d) d

/-! ### A period's end -/

/-- The engine gives up what it does for a period (R415, R494, R550). -/
def Device.dropEngineWork (d : Device) (r : JobRef) : Device :=
  let j := r.id.toNat
  match r.engine with
  | 1 => match d.eng.fin.find j with
    | some x => { d with eng := { d.eng with fin := d.eng.fin.put j { x with held := none } } }
    | none => d
  | 3 => match d.eng.plan.find j with
    | some x =>
      let d := match x.run with
        | some u => if u.pinned then d.unpin u.inst else d
        | none => d
      { d with eng := { d.eng with plan := d.eng.plan.put j { x with run := none } } }
    | none => d
  | 4 => match d.eng.solv.find j with
    | some x => { d with eng := { d.eng with solv := d.eng.solv.put j { x with solve := none } } }
    | none => d
  | _ => d

/-- A job acknowledges a mode change (R570). -/
def Device.ackJob (d : Device) (j : BitVec 16) : Device :=
  { d with jobs := { d.jobs with parts := d.jobs.parts.map fun p => match p.mode with
      | some m => { p with mode := some { m with waiting := m.waiting.filter (· != j) } }
      | none => p } }

/-- The count that a withheld period feeds (R568): LATE, DROPPED or FAILED. -/
def causeCount (st : Status) : Option Nat :=
  if st = stLate then some 2 else if st = stCancelled then some 3 else if isFailed st then some 4 else none

/-- Physical tiles of a job become free of it. -/
def Device.freeTiles (d : Device) (j : BitVec 16) : Device :=
  { d with tiles := d.tiles.mapVals fun _ (x : TileState) =>
      if x.t.job = some j then { x with t := { x.t with job := none, phase := .idle } } else x }

/-- A job that has stopped (R577): no longer started, its Hooks reset, its engine's state released. -/
def Device.jobStopped (d : Device) (j : BitVec 16) : Device :=
  match d.run j with
  | none => d
  | some x =>
    let d := d.setRun j { x with started := false, stopping := false, barred := false, period := none, phase := .idle,
                                 stopWait := [], waitS := none }
    let d := (((d.forgetWaits (.job j)).resetJobHooks j).ackJob j).monitorStopped (.job j)
    let d := match d.job j with
      | some r => d.dropEngineWork r
      | none => d
    let d := (List.finRange 64).foldl (fun (d : Device) n =>
      let w := d.drawer n
      if w.state = .busy ∧ w.going ∧ d.cmdOpcode n = 0x0202 ∧ fld (d.params n) 15 0 = j.toNat then d.reply n stOk []
      else d) d
    d.finishModes.settleDomains.settleStandby

/-- A job whose JOB_STOP stands and that has nothing left to end is stopped (R531, R577). -/
def Device.settleStop (d : Device) (j : BitVec 16) : Device :=
  match d.run j with
  | some x => if x.stopping ∧ x.period.isNone ∧ d.ceJobStopped j then d.jobStopped j else d
  | none => d

/-- A signal that a tile has sent for a job is on its way to the Hook array. -/
def Device.tileSignals (d : Device) (j : BitVec 16) : Bool :=
  d.hooks.flight.any fun o => match o with
    | .signal (.tile _) i _ _ => i == j
    | _ => false

/-- Ends a period that a cause has ended, once its tiles have stopped and their signals have landed (R165, R189): the record, the counts and the clean-up of
R551, which also stands for the withheld periods of R552. -/
def Device.cleanUp (d : Device) (j : BitVec 16) : Device :=
  match d.openPeriod j with
  | none => d
  | some (r, x, p) =>
    match p.cause with
    | none => d
    | some (st, t) =>
      if x.stopWait ≠ [] ∨ d.tileSignals j then d else
      let d := d.writeCompletion r p st t
      let d := match causeCount st with
        | some k => d.count (clientOf r) k 1
        | none => d
      let clean := st ≠ stCancelled
      let d := if clean then (d.resetJobHooks j).restartStreams r else d
      let d := ((d.dropEngineWork r).endStep j false).endChunks r p.seq
      let d := d.freeTiles j
      let d := match d.run j with
        | some y => d.setRun j { y with period := none, phase := .idle, prevStatus := st, lastEnd := d.hub
                                        inputsRestarted := y.inputsRestarted || decide clean }
        | none => d
      ((d.ackJob j).finishModes).settleStop j

/-- A running period is cancelled with a status, and ended at once when no tile of it is still stopping. -/
def Device.endWith (d : Device) (j : BitVec 16) (st : Status) : Device := (d.cancelPeriod j st).cleanUp j

end Sys2Proof.Machine
end

