-- ==== Sys2Proof/Machine/Estimate.lean ====
section
/-!
DEFINITION. Fusion's formulas (R374 to R380, R383 to R386, R392, R398) in FP32: frames, innovations, the ego state's step and the
tracks' constant-velocity model. A formula that the manual writes is computed operation by operation in the order written; a
result for which it writes none is a free value of Config (log entry 6).
-/

namespace Sys2Proof.Machine

/-! ### KINDs (R360) -/

def kImu : Nat := 0
def kWheel : Nat := 1
def kObject : Nat := 2
def kCamera : Nat := 3

/-! ### Vectors and matrices -/

def F32.dot (a b : List F32) : F32 := (a.zip b).foldl (fun acc p => F32.add acc (F32.mul p.1 p.2)) 0

def vecAdd (a b : List F32) : List F32 := (a.zip b).map fun p => F32.add p.1 p.2
def vecSub (a b : List F32) : List F32 := (a.zip b).map fun p => F32.sub p.1 p.2
def vecScale (k : F32) (a : List F32) : List F32 := a.map (F32.mul k)

/-- `n` values from place `o` on. -/
def cut (l : List F32) (o n : Nat) : List F32 := (l.drop o).take n

/-- A matrix by rows. -/
abbrev Mat := List (List F32)

def matVec (m : Mat) (v : List F32) : List F32 := m.map fun r => F32.dot r v

/-- The transpose of a matrix of `n` columns. -/
def transpose (n : Nat) (m : Mat) : Mat := (List.range n).map fun j => m.map fun r => nth r j 0

/-- `a` times `b`, where `b` has `n` columns. -/
def matMul (n : Nat) (a b : Mat) : Mat := a.map fun r => (transpose n b).map fun c => F32.dot r c

def matAdd (a b : Mat) : Mat := (a.zip b).map fun p => vecAdd p.1 p.2

/-- m p mᵀ, where m has `n` rows. -/
def sandwich (n k : Nat) (m p : Mat) : Mat := matMul n (matMul k m p) (transpose k m)

def diagonal (l : List F32) : Mat :=
  l.zipIdx.map fun e => (List.range l.length).map fun j => if j = e.2 then e.1 else 0

def squares (l : List F32) : List F32 := l.map fun v => F32.mul v v

/-- The rows of an n × n matrix stored row by row. -/
def rowsOf (n : Nat) (l : List F32) : Mat := (List.range n).map fun i => cut l (n * i) n

/-- The diagonal of an n × n matrix stored row by row. -/
def diagOf (n : Nat) (l : List F32) : List F32 := (List.range n).map fun i => nth l ((n + 1) * i) 0

/-- The rotation of a unit quaternion w, x, y, z. -/
def rotOf (q : List F32) : Mat :=
  let (w, x, y, z) := (nth q 0 0, nth q 1 0, nth q 2 0, nth q 3 0)
  let two (a b c d : F32) (minus : Bool) : F32 :=
    let (p, r) := (F32.mul a b, F32.mul c d)
    F32.mul 0x40000000 (if minus then F32.sub p r else F32.add p r)
  [[F32.sub f32One (two y y z z false), two x y w z true, two x z w y false],
   [two x y w z false, F32.sub f32One (two x x z z false), two y z w x true],
   [two x z w y true, two y z w x false, F32.sub f32One (two x x y y false)]]

def cross (a b : List F32) : List F32 :=
  let m (i j : Nat) : F32 := F32.sub (F32.mul (nth a i 0) (nth b j 0)) (F32.mul (nth a j 0) (nth b i 0))
  [m 1 2, m 2 0, m 0 1]

/-- νᵀ S⁻¹ ν of three components, through the adjugate (R379). -/
def quadForm (s : Mat) (v : List F32) : F32 :=
  let (a, b, c) := (nth s 0 [], nth s 1 [], nth s 2 [])
  let cof := [cross b c, cross c a, cross a b]
  F32.div (F32.dot v (matVec (transpose 3 cof) v)) (F32.dot a (cross b c))

/-- The free results of a tag, as Fusion holds them (R50, R55). -/
def freeNums (tag n : Nat) (args : List F32) : List F32 :=
  (List.range n).map fun i => F32.canon (Config.fusionNum tag args i)

/-- A difference of hub times in seconds (R352, R353). -/
def seconds (a b : Time) : F32 := f32r (FVal.div (.ofInt (timeDiff a b)) (.ofInt 1200000000))

/-- Gravity in the world frame, m/s² (R374). -/
def gravity : List F32 := [0, 0, F32.neg 0x411CE80A]

/-! ### Measurements in the body frame (R378, R380, R384) -/

/-- What a KIND measures, as a map from the sensor's values to the body frame: the gyro and acceleration turned by ROT; the velocity at
the sensor's origin carried to the body's by the yaw rate, and the yaw rate; the position turned and moved by TRANS. -/
def bodyMap (r : Image) (kind : Nat) : Mat :=
  let m := rotOf (SensRec.rot r)
  if kind = kImu then (m.map fun x => x ++ [0, 0, 0]) ++ m.map fun x => [0, 0, 0] ++ x
  else if kind = kWheel then
    let arm := cross (m.map fun x => nth x 2 0) (SensRec.trans r)
    ((m.zip arm).take 2).map (fun e => [nth e.1 0 0, nth e.1 1 0, F32.neg e.2]) ++ [[0, 0, nth (nth m 2 []) 2 0]]
  else m

/-- The standard deviations of a measurement, in the sensor's frame (R361, R366). -/
def sigmasOf (r : Image) (m : Meas) : List F32 :=
  let n := SensRec.noise r
  if m.kind = kImu then List.replicate 3 (nth n 0 0) ++ List.replicate 3 (nth n 1 0)
  else if m.kind = kWheel then n.take 3
  else (m.vals.drop 6).take 3

/-- Components of a measurement of a KIND. -/
def partsOf (kind : Nat) : Nat := if kind = kImu then 6 else 3

/-- A measurement in the body frame. -/
def bodyValues (r : Image) (m : Meas) : List F32 :=
  let v := matVec (bodyMap r m.kind) (m.vals.take (partsOf m.kind))
  if m.kind = kObject then vecAdd v (SensRec.trans r) else v

/-- R of a measurement in the body frame. -/
def bodyNoise (r : Image) (m : Meas) : Mat :=
  sandwich (partsOf m.kind) (partsOf m.kind) (bodyMap r m.kind) (diagonal (squares (sigmasOf r m)))

/-- Body-frame components of a measurement and their σ² (R380). -/
def bodyParts (r : Image) (m : Meas) : List F32 × List F32 :=
  (bodyValues r m, (bodyNoise r m).zipIdx.map fun e => nth e.1 e.2 0)

/-! ### The ego state (R374 to R378) -/

def Ego.pos (e : Ego) : List F32 := e.num.take 3
def Ego.vel (e : Ego) : List F32 := cut e.num 3 3
def Ego.orient (e : Ego) : List F32 := cut e.num 6 4
/-- The last accepted rates and accelerations, bias-corrected. -/
def Ego.rates (e : Ego) : List F32 := vecSub (e.imu.take 3) (cut e.num 10 3)
def Ego.accels (e : Ego) : List F32 := vecSub (e.imu.drop 3) (cut e.num 13 3)

/-- Cosine and sine of half an angle with the cosine and sine given, the angle in (-π, π]. -/
def halfAngle (c s : FVal) : FVal × FVal :=
  let half (v : FVal) : FVal := (FVal.div v (.fin false 2 0)).sqrt
  let rest (v : FVal) : FVal := FVal.div s (v.mul (.fin false 2 0))
  match c with
  | .fin true m e =>
    let k := half (FVal.add (.fin false 1 0) (.fin false m e))
    match s with
    | .fin t n g => (FVal.div (.fin false n g) (k.mul (.fin false 2 0)), if t then k.mul (.fin true 1 0) else k)
    | v => (v, v)
  | v => let k := half (FVal.add (.fin false 1 0) v)
         (k, rest k)

/-- R375: the orientation with yaw 0 whose roll and pitch align a body-frame acceleration with +z. Where the acceleration leaves the roll
undetermined, a free value. -/
def alignUp (a : List F32) : List F32 :=
  let sq (v : F32) : FVal := (f32v v).mul (f32v v)
  let (x, y, z) := (nth a 0 0, nth a 1 0, nth a 2 0)
  let h := (FVal.add (sq y) (sq z)).sqrt
  let n := (FVal.add (FVal.add (sq x) (sq y)) (sq z)).sqrt
  if F32.isZero y ∧ F32.isZero z then freeNums 0 4 a
  else
    let (cr, sr) := halfAngle (FVal.div (f32v z) h) (FVal.div (f32v y) h)
    let (cp, sp) := halfAngle (FVal.div h n) (FVal.div (f32v (F32.neg x)) n)
    [f32r (cr.mul cp), f32r (sr.mul cp), f32r (cr.mul sp), f32r ((sr.mul sp).mul (.fin true 1 0))]

/-- R375: the start of the ego state from an accepted IMU record. -/
def Ego.begin (r : Image) (m : Meas) : Ego :=
  let n := SensRec.noise r
  let imu := bodyValues r m
  let dev : List F32 := List.replicate 3 0x3A83126F ++ List.replicate 3 0x3DCCCCCD ++ [0x3D4CCCCD, 0x3D4CCCCD, 0x3A83126F]
    ++ List.replicate 3 (nth n 0 0) ++ List.replicate 3 (nth n 1 0)
  { num := List.replicate 6 0 ++ alignUp (imu.drop 3) ++ List.replicate 6 0
    cov := (diagonal (squares dev)).flatten
    imu, noise := n, time := m.time, noUpdate := 0 }

/-- R377: strapdown integration with the values held, up to a time, and the covariance of the error state with NOISE. What the rotated
accelerations add to velocity and position, the new orientation and the covariance are free; gravity and the velocity's part are
computed, and the biases stand. -/
def Ego.advance (e : Ego) (t : Time) : Ego :=
  if t = e.time then e else
  let dt := seconds t e.time
  let args := dt :: e.rates ++ e.accels ++ e.orient
  let step := freeNums 1 10 args
  let fall := vecScale dt gravity
  let vel := vecAdd e.vel (vecAdd (step.take 3) fall)
  let pos := vecAdd e.pos (vecAdd (vecScale dt e.vel) (vecAdd (cut step 3 3) (vecScale 0x3F000000 (vecScale dt fall))))
  { e with num := pos ++ vel ++ step.drop 6 ++ e.num.drop 10
           cov := freeNums 4 225 (args ++ e.noise ++ e.cov), time := t }

/-- An accepted IMU record: the state advances to its time with its values (R377). -/
def Ego.accept (e : Ego) (r : Image) (m : Meas) : Ego :=
  { { e with imu := bodyValues r m, noise := SensRec.noise r }.advance m.time with time := m.time }

/-- A WHEEL record against its prediction (R378, R379): ν, S and d². The measurement matrix is free, for the error state's form is not
given. -/
structure Innovation where
  nu : List F32
  s : Mat
  distance : F32
  deriving DecidableEq, Repr

def Innovation.of (z zhat : List F32) (hph r : Mat) : Innovation :=
  let nu := vecSub z zhat
  let s := matAdd hph r
  { nu, s, distance := quadForm s nu }

def Ego.wheel (e : Ego) (r : Image) (m : Meas) : Innovation :=
  let back := transpose 3 (rotOf e.orient)
  let zhat := (matVec back e.vel).take 2 ++ [nth e.rates 2 0]
  let h := rowsOfWidth 15 (freeNums 3 45 (e.orient ++ e.vel))
  Innovation.of (bodyValues r m) zhat (sandwich 3 15 h (rowsOf 15 e.cov)) (bodyNoise r m)
where
  /-- Three rows of a width. -/
  rowsOfWidth (n : Nat) (l : List F32) : Mat := (List.range 3).map fun i => cut l (n * i) n

/-- The update by an accepted WHEEL record (R378). -/
def Ego.update (e : Ego) (v : Innovation) : Ego :=
  let o := freeNums 2 241 (v.nu ++ v.s.flatten ++ e.num ++ e.cov)
  { e with num := o.take 16, cov := o.drop 16 }

/-- Standard deviations of the first `n` of the errors whose covariance is k × k. -/
def deviations (n k : Nat) (cov : List F32) : List F32 := ((diagOf k cov).take n).map F32.sqrt

/-! ### Tracks (R376, R383 to R386) -/

def Track.pos (t : Track) : List F32 := t.num.take 3
def Track.vel (t : Track) : List F32 := t.num.drop 3

/-- A track under the constant-velocity model with process noise ACCEL_NOISE (R383). -/
def Track.predict (t : Track) (accel : F32) (a b : Time) : Track :=
  if a = b then t else
  let dt := seconds b a
  let f : Mat := (diagonal (List.replicate 6 f32One)).zipIdx.map fun e =>
    if e.2 < 3 then setAt e.1 (e.2 + 3) dt else e.1
  let q := rowsOf 6 (freeNums 5 36 [dt, accel])
  { t with num := vecAdd t.pos (vecScale dt t.vel) ++ t.vel
           cov := (matAdd (sandwich 6 6 f (rowsOf 6 t.cov)) q).flatten }

/-- A position in the world frame and its R, through an ego state where one exists (R376, R384). -/
def toWorld (e : Option Ego) (r : Image) (m : Meas) : List F32 × Mat :=
  let z := bodyValues r m
  let n := bodyNoise r m
  match e with
  | none => (z, n)
  | some e => let w := rotOf e.orient
              (vecAdd (matVec w z) e.pos, sandwich 3 3 w n)

/-- A position measurement against a predicted track (R379, R384). -/
def Track.innovation (t : Track) (z : List F32) (r : Mat) : Innovation :=
  Innovation.of z t.pos ((rowsOf 6 t.cov).take 3 |>.map fun x => x.take 3) r

/-- The update of a predicted track (R384). -/
def Track.update (t : Track) (v : Innovation) : Track :=
  let o := freeNums 6 42 (v.nu ++ v.s.flatten ++ t.num ++ t.cov)
  { t with num := o.take 6, cov := o.drop 6 }

/-- The position of a track that a measurement opens is the measurement's (R385); velocity and covariance are free. -/
def openedNums (z : List F32) (r : Mat) : List F32 × List F32 :=
  let o := freeNums 7 39 (z ++ r.flatten)
  (z ++ o.take 3, o.drop 3)

/-- A covariance of position and velocity in a turned frame. -/
def turnCov (w : Mat) (cov : List F32) : List F32 :=
  let m : Mat := (w.map fun r => r ++ [0, 0, 0]) ++ w.map fun r => [0, 0, 0] ++ r
  (sandwich 6 6 m (rowsOf 6 cov)).flatten

/-- A track through the starting ego state into the new world frame (R376). -/
def Track.intoWorld (t : Track) (e : Ego) : Track :=
  let w := rotOf e.orient
  { t with num := vecAdd (matVec w t.pos) e.pos ++ vecAdd (matVec w t.vel) e.vel, cov := turnCov w t.cov }

/-- A track back into the body frame (R376); whether its velocity is then relative to the body is free. -/
def Track.intoBody (t : Track) (e : Ego) : Track :=
  let w := transpose 3 (rotOf e.orient)
  { t with num := matVec w (vecSub t.pos e.pos) ++ freeNums 8 3 (t.num ++ e.num ++ e.imu), cov := turnCov w t.cov }

/-! ### Cameras (R397, R398) -/

/-- A world-frame point in a camera's frame. -/
def cameraPoint (e : Option Ego) (r : Image) (p : List F32) : List F32 :=
  let b := match e with
    | none => p
    | some e => matVec (transpose 3 (rotOf e.orient)) (vecSub p e.pos)
  matVec (transpose 3 (rotOf (SensRec.rot r))) (vecSub b (SensRec.trans r))

/-- 0.1 m. -/
def nearPlane : F32 := 0x3DCCCCCD

/-- The corners of a track's box, with edges along the axes of the track's frame (log entry 6). -/
def Track.corners (t : Track) : List (List F32) :=
  let half := vecScale 0x3F000000 t.size
  (List.range 8).map fun k =>
    ((t.pos.zip half).zipIdx).map fun e => if k / 2 ^ e.2 % 2 = 1 then F32.add e.1.1 e.1.2 else F32.sub e.1.1 e.1.2

/-- The interval that corners span on one axis, as least and greatest pixel; none for an edge at the frame border. Each corner comes
with its z, its coordinate on the axis and its projection. -/
def spanOf (cs : List (F32 × F32 × F32)) : Option F32 × Option F32 :=
  let front := (cs.filter fun c => F32.gt c.1 nearPlane).map fun c => c.2.2
  let behind := (cs.filter fun c => !F32.gt c.1 nearPlane).map fun c => c.2.1
  (if behind.any fun x => F32.lt x 0 then none else front.foldl (fun b v => some (b.elim v (F32.min v))) none,
   if behind.any fun x => !F32.lt x 0 then none else front.foldl (fun b v => some (b.elim v (F32.max v))) none)

/-- R398: the spans, on x and on y, of the pinhole projections of a box's corners. -/
def projectBox (e : Option Ego) (r : Image) (t : Track) : (Option F32 × Option F32) × (Option F32 × Option F32) :=
  let cs := t.corners.map (cameraPoint e r)
  let axis (k : Nat) := spanOf (cs.map fun c =>
    let z := nth c 2 0
    (z, nth c k 0, F32.add (F32.div (F32.mul (nth (SensRec.intrinsics r) k 0) (nth c k 0)) z) (nth (SensRec.intrinsics r) (k + 2) 0)))
  (axis 0, axis 1)

end Sys2Proof.Machine
end

