-- ==== Sys2Proof/Machine/Fusion.lean ====
section
/-!
DEFINITION. Fusion (R359 to R398): measurements, cycles, contradictions, the ego state, the tracks, results and region
tables. The formulas stand in Estimate; what decides which measurement is used, and every count and record, is here.
-/

namespace Sys2Proof.Machine

def Device.fus (d : Device) (f : FusionState → FusionState) : Device :=
  { d with eng := { d.eng with fus := f d.eng.fus } }

/-! ### Sensors and counts (R360, R363, R396) -/

/-- The sensor records of the calibration set, by SENSOR_ID. -/
def Device.calSensors (d : Device) : Tbl Nat := d.calRecs 0

def SensorCounts.zero : SensorCounts := { late := 0, gated := 0, nonfinite := 0, timeRange := 0, corrupt := 0, unused := 0 }

/-- Changes a sensor's counts, saturating. -/
def FusionState.tally (x : FusionState) (s : Nat) (f : SensorCounts → SensorCounts) : FusionState :=
  let c := f (x.counts.getD s SensorCounts.zero)
  let t : SensorCounts :=
    { late := sat32 c.late, gated := sat32 c.gated, nonfinite := sat32 c.nonfinite, timeRange := sat32 c.timeRange,
      corrupt := sat32 c.corrupt, unused := sat32 c.unused }
  { x with counts := x.counts.put s t }

def FusionState.sensor (x : FusionState) (s : Nat) : Option Image := x.sensors.find s

/-- A measurement dropped against its stream (R368). -/
def FusionState.drop (x : FusionState) (tag : Option Nat) : FusionState :=
  let k := tag.getD 0xFFFF
  { x with dropped := x.dropped.put k (sat32 (x.dropped.getD k 0 + 1)) }

/-- A sensor's gate for a measurement of `m` components (R369): of six, the 99 % point of χ² to three decimals as for the others. -/
def gateOf (rec' : Image) (m : Nat) : F32 :=
  let g := SensRec.gate rec'
  if !F32.isZero g then g
  else match m with
    | 1 => 0x40D451EC
    | 2 => 0x41135C29
    | 3 => 0x4135851F
    | _ => 0x41867EFA

/-! ### Arrival (R364 to R368, R372, R388) -/

/-- A sensor record admits a measurement (R364, R366). -/
def RawMeas.admitted (m : RawMeas) (r : Image) : Bool :=
  SensRec.kind r == m.kind && m.tag.all fun t => SensRec.tag r == t

/-- The hub time of a time before LATENCY in a domain (R365, R366). -/
def Device.measTime (d : Device) (dom latency : Nat) (base : Time) : Option Time :=
  if isDomain dom then d.toHub dom (base - BitVec.ofNat 48 latency) else none

/-- Late at its arrival (R388): its record in force, its values and its time are good, and its cycle has closed. -/
def FusionState.lateNow (x : FusionState) (m : RawMeas) : Bool :=
  match x.sensor m.sensor, m.hub, x.closedTau with
  | some r, some t, some tau =>
    m.admitted r && !m.corrupt && m.vals.all F32.isFinite && m.latency == SensRec.latency r && decide (timeDiff t tau ≤ 0)
  | _, _, _ => false

/-- A measurement arrives: late, or waiting for its cycle (R372, R388). Its time is converted with the LATENCY in force now; the close
converts again where it finds another (R363). -/
def Device.receive (d : Device) (m : RawMeas) : Device :=
  let latency := ((d.eng.fus.sensor m.sensor).map SensRec.latency).getD 0
  let m := { m with latency, hub := d.measTime m.dom latency m.base }
  d.fus fun x =>
    if x.lateNow m then x.tally m.sensor fun c => { c with late := c.late + 1 }
    else { x with waiting := x.waiting ++ [{ m with order := x.nextOrder }], nextOrder := x.nextOrder + 1 }

/-- One record of an inertial or odometry packet (R364, R365). -/
def Device.inertial (d : Device) (p : Pkt) (tag kind : Nat) (r : Image) : Device :=
  let dom := 0x10 + p.port.val
  d.receive
    { sensor := InertRec.sensor r, kind, tag := some tag, dom, base := p.portTime - BitVec.ofNat 48 (InertRec.age r)
      arrival := (d.toHub dom p.portTime).getD d.hub
      corrupt := fld r 31 16 != 0 || (kind == kWheel && fld r 255 160 != 0)
      order := 0, cls := 0, vals := if kind = kImu then InertRec.a r ++ InertRec.b r else InertRec.a r
      latency := 0, hub := none }

/-- INERTIAL_PACKET (R364): IMU and WHEEL records of data type 0x34. -/
def execInertialPacket (now : Time) (p : Pkt) (s : State) : Host.Outcome State Fault Refusal :=
  s.onUp now fun d =>
    if p.dt ≠ 0x34 then d else
    match d.arrive p with
    | (d, .ok h) =>
      let kind := StrHdr.kind h
      let tag := StrHdr.tag h
      if kind ≠ 0x10 ∧ kind ≠ 0x11 then d
      else if !d.feedbackBound p tag then d.countUnbound p.port
      else
        let body := p.payload.drop 16
        if body.length % 32 ≠ 0 ∨ StrHdr.isPartial h then
          d.fus fun x => x.sensors.foldl (fun x e =>
            if SensRec.tag e.2 = tag ∧ SensRec.kind e.2 = kind - 0x10 then
              x.tally e.1 fun c => { c with corrupt := c.corrupt + 1 }
            else x) x
        else if !d.eng.fus.running then d
        else (List.range (body.length / 32)).foldl (fun d i => d.inertial p tag (kind - 0x10) (imageAt body (32 * i) 32)) d
    | (d, _) => d

/-- The Fusion job with its descriptor, where one is installed. -/
def Device.fusionJob (d : Device) : Option (JobRef × Image) :=
  match d.eng.fus.job, d.eng.fus.desc with
  | some j, some x => (d.job j).map fun r => (r, x)
  | _, _ => none

/-- The measurement that a record of the ring gives, read with an error or not (R366, R367). -/
def ringMeas (m : Image) (bad : Bool) (now : Time) : RawMeas :=
  { sensor := MeasRec.sensor m, kind := kObject, tag := none, dom := MeasRec.domain m, base := BitVec.ofNat 48 (MeasRec.time m)
    arrival := now, corrupt := bad || !rsvdZero m MeasRec.rsvd, order := 0, cls := MeasRec.cls m
    vals := MeasRec.pos m ++ MeasRec.size m ++ MeasRec.sigma m, latency := 0, hub := none }

/-- MEASUREMENT_TAKE (R366, R367): Fusion takes one signalled record of the measurement ring. -/
def Device.takeMeasurement (d : Device) : Device :=
  match d.fusionJob with
  | none => d
  | some (r, desc) =>
    if !d.eng.fus.running then d else
    match d.takeHook (.job r.id) (FusDesc.measHook desc) 1 with
    | (d, false) => d
    | (d, true) =>
      let a := FusDesc.measRing desc + d.eng.fus.measNext * 64
      let d := d.fus fun x => { x with measNext := (x.measNext + 1) % max 1 (FusDesc.measRecords desc) }
      let (d, bad) := d.hubRead r.part a 64
      d.receive (ringMeas (leNat (d.readView r.part a 64)) bad d.hub)

def execMeasurementTake (now : Time) (s : State) : Host.Outcome State Fault Refusal := s.onUp now Device.takeMeasurement

/-! ### Ticks (R370) -/

/-- A tick at hub time `t` opens the next cycle. -/
def Device.openCycle (d : Device) (desc : Image) (t : Time) : Device :=
  let close := addT t (usHub (FusDesc.hold desc))
  let d := d.fus fun x => { x with
    last := t, first := false, due := x.due.tail, cycle := x.cycle + 1
    cycles := x.cycles ++ [{ number := x.cycle, tau := t, closeAt := close,
                             emitAt := addT close (usHub (FusDesc.emitDelay desc)), closed := false, epoch := 0,
                             conflict := false, full := false, ego := none, tracks := [], energyNj := 0 }] }
  match d.fusionJob with
  | none => d
  | some (r, _) =>
    let d := d.count (clientOf r) 0 1
    if d.monitored (.job r.id) then d.token (.start (.job r.id) d.hub) else d

/-- FUSION_TICK (R370): a free generator ticks every FUSE_PERIOD from the job's start; a locked one at each edge. -/
def execFusionTick (now : Time) (s : State) : Host.Outcome State Fault Refusal :=
  s.onUp now fun d =>
    match d.fusionJob with
    | none => d
    | some (r, desc) =>
      let x := d.eng.fus
      if !x.running ∨ !d.engineOk .fusion then d else
      let at_ : Option Time :=
        if FusDesc.lockEn desc then x.due.head?
        else some (if x.first then x.last else addT x.last (usHub (FusDesc.period desc)))
      match at_ with
      | some t =>
        if !reached d.hub t then d
        else if d.inBoundary r.part then
          -- R574: not started, and counted as DROPPED
          (d.fus fun x => { x with last := t, first := false, due := x.due.tail }).count (clientOf r) 3 1
        else d.openCycle desc t
      | none => d

/-! ### Contradictions (R380 to R382) -/

/-- The components that two kinds share in the body frame: for each, the index in the first and in the second. -/
def sharedParts (a b : Nat) : List (Nat × Nat) :=
  if a = b then (if a = kImu then (List.range 6).map fun i => (i, i) else if a = kWheel ∨ a = kObject then [(0, 0), (1, 1), (2, 2)] else [])
  else if a = kImu ∧ b = kWheel then [(2, 2)] else if a = kWheel ∧ b = kImu then [(2, 2)] else []

/-- Σ (z_A − z_B)² ÷ σ², with the σ² of one of the two. -/
def distSq (ps : List (Nat × Nat)) (za zb s : List F32) (first : Bool) : F32 :=
  ps.foldl (fun acc p =>
    let e := F32.sub (nth za p.1 0) (nth zb p.2 0)
    let g := nth s (if first then p.1 else p.2) 0
    F32.add acc (F32.div (F32.mul e e) g)) 0

/-- Two measurements contradict flatly (R380). -/
def contradicts (ra rb : Image) (a b : Meas) : Bool :=
  let ps := sharedParts a.kind b.kind
  let (za, sa) := bodyParts ra a
  let (zb, sb) := bodyParts rb b
  !ps.isEmpty && F32.gt (distSq ps za zb sb false) (gateOf rb (partsOf b.kind))
    && F32.gt (distSq ps za zb sa true) (gateOf ra (partsOf a.kind))

/-- The measurement nearest in time, the earlier one on a tie (R380). -/
def nearest (m : Meas) (l : List Meas) : Option Meas :=
  l.foldl (fun (b : Option Meas) x => match b with
    | none => some x
    | some y =>
      let dx := (timeDiff x.time m.time).natAbs
      let dy := (timeDiff y.time m.time).natAbs
      if dx < dy ∨ (dx = dy ∧ timeDiff x.time y.time < 0) then some x else some y) none

/-- What checking one pair of sensors finds: whether measurements met within CO_WIN, and the contradicting ones. -/
def checkPair (ra rb : Image) (win : Nat) (as bs : List Meas) : Bool × List Nat :=
  as.foldl (fun (r : Bool × List Nat) a =>
    match nearest a bs with
    | some b =>
      if (timeDiff a.time b.time).natAbs ≤ win then
        (true, if contradicts ra rb a b then r.2 ++ [a.order, b.order] else r.2)
      else r
    | none => r) (false, [])

/-- The count of a pair after a cycle (R382), and whether the Lectern is told now. -/
def PairCount.after (c : PairCount) (met bad : Bool) (limit : Nat) : PairCount × Bool :=
  if bad then
    let n := c.count + 1
    let tell := limit ≤ n && !c.told
    ({ count := n, told := c.told || tell }, tell)
  else if met then ({ count := 0, told := false }, false)
  else (c, false)

/-- All pairs of sensors of one QGROUP (R380 to R382): the state, and the orders of the excluded measurements. -/
def Device.conflicts (d : Device) (desc : Image) (inputs : List Meas) : Device × List Nat :=
  let x := d.eng.fus
  let win := usHub (FusDesc.coWin desc)
  let prs := x.sensors.flatMap fun a => (x.sensors.filter fun b =>
    a.1 < b.1 && SensRec.qgroup a.2 != 0 && SensRec.qgroup a.2 == SensRec.qgroup b.2).map fun b => (a, b)
  prs.foldl (fun (r : Device × List Nat) ab =>
    let (a, b) := ab
    let (met, ex) := checkPair a.2 b.2 win (inputs.filter (·.sensor == a.1)) (inputs.filter (·.sensor == b.1))
    let key := a.1 * 512 + b.1
    let old := r.1.eng.fus.pairs.getD key { count := 0, told := false }
    let (c, tell) := old.after met (!ex.isEmpty) (FusDesc.nConflict desc)
    let d := r.1.fus fun x => { x with pairs := x.pairs.put key c }
    let src := BitVec.ofNat 16 a.1
    let d := if tell then d.notify stSensorConflict srcSensor src
             else if old.told ∧ !c.told then d.notifyAgain stSensorConflict srcSensor src else d
    (d, r.2 ++ ex)) (d, [])

/-! ### The close (R374 to R386) -/

/-- The working state of a close. -/
structure CloseWork where
  x : FusionState
  wheel : Bool
  /-- An IMU record has been accepted. -/
  imuSeen : Bool
  /-- Pairs (track index, sensor) taken in this cycle (R384). -/
  taken : List (Nat × Nat)
  full : Bool
  deriving DecidableEq, Repr

/-- An accepted IMU record (R375 to R377). -/
def CloseWork.imu (w : CloseWork) (r : Image) (m : Meas) : CloseWork :=
  match w.x.ego with
  | none =>
    let e := Ego.begin r m
    { w with imuSeen := true
             x := { w.x with ego := some e, tracks := w.x.tracks.mapVals fun _ (t : Track) => t.intoWorld e } }
  | some e => { w with imuSeen := true, x := { w.x with ego := some (e.accept r m) } }

/-- An excluded IMU record (R377): the state advances with the last accepted values. -/
def CloseWork.skipImu (w : CloseWork) (m : Meas) : CloseWork :=
  { w with x := { w.x with ego := w.x.ego.map fun e => e.advance m.time } }

/-- A WHEEL record (R376, R378, R379). -/
def CloseWork.wheelRec (w : CloseWork) (r : Image) (m : Meas) : CloseWork :=
  match w.x.ego with
  | none => { w with x := w.x.tally m.sensor fun c => { c with unused := c.unused + 1 } }
  | some e =>
    let v := e.wheel r m
    if F32.gt v.distance (gateOf r 3) then { w with x := w.x.tally m.sensor fun c => { c with gated := c.gated + 1 } }
    else { w with wheel := true, x := { w.x with ego := some (e.update v) } }

/-- The lowest free entry of the track table (R385). -/
def freeTrack (ts : Tbl Track) : Option Nat := (List.range 1024).find? fun i => (ts.find i).isNone

/-- TRACK_ID after another (R383). -/
def nextTrackId (n : BitVec 32) : BitVec 32 := if n = 0xFFFFFFFF then 1 else n + 1

/-- An update of a track counts, and confirms it after CONFIRM of them (R386, R394). -/
def Track.hit (t : Track) (desc : Image) (m : Meas) : Track :=
  { t with size := (m.vals.drop 3).take 3, hits := min 65535 (t.hits + 1), lastSensor := m.sensor, lastTime := m.time
           confirmed := t.confirmed || FusDesc.confirm desc ≤ t.hits + 1 }

/-- A measurement that updates no track opens a TENTATIVE one (R385). -/
def CloseWork.openTrack (w : CloseWork) (m : Meas) (z : List F32) (r : Mat) : CloseWork :=
  match freeTrack w.x.tracks with
  | none => { w with full := true, x := { w.x with trackFull := sat32 (w.x.trackFull + 1) } }
  | some i =>
    let (num, cov) := openedNums z r
    let t : Track := { id := w.x.nextTrack, cls := m.cls, confirmed := false, num, cov, size := (m.vals.drop 3).take 3
                       hits := 0, lastSensor := m.sensor, lastTime := m.time }
    { w with taken := (i, m.sensor) :: w.taken
             x := { w.x with tracks := w.x.tracks.put i t, nextTrack := nextTrackId w.x.nextTrack } }

/-- An OBJECT record (R379, R384 to R386), with the ego state at the last IMU step not later than it. -/
def CloseWork.object (w : CloseWork) (pose : Option Ego) (desc r : Image) (m : Meas) : CloseWork :=
  let (z, noise) := toWorld pose r m
  let same := (w.x.tracks.filter fun t => t.2.cls == m.cls).map fun t =>
    let t' := t.2.predict (FusDesc.accelNoise desc) t.2.lastTime m.time
    (t.1, t', t'.innovation z noise)
  let near := sortBy (fun a b => F32.lt a.2.2.distance b.2.2.distance
      || (!F32.lt b.2.2.distance a.2.2.distance && decide (a.1 ≤ b.1)))
    (same.filter fun t => !F32.gt t.2.2.distance (gateOf r 3))
  match near.find? fun t => !w.taken.contains (t.1, m.sensor) with
  | some (i, t, v) =>
    { w with taken := (i, m.sensor) :: w.taken, x := { w.x with tracks := w.x.tracks.put i ((t.update v).hit desc m) } }
  | none =>
    let x := if !same.isEmpty ∧ near.isEmpty then w.x.tally m.sensor fun c => { c with gated := c.gated + 1 } else w.x
    { w with x }.openTrack m z noise

/-- The ego state after the IMU records of the same instant that are still to come (R384). -/
def poseAfter (x : FusionState) (t : Time) (rest : List (Meas × Bool)) : Option Ego :=
  x.ego.map fun e => (rest.takeWhile fun n => n.1.time == t).foldl (fun (e : Ego) n =>
    if n.1.kind ≠ kImu then e else if n.2 then e.advance t
    else match x.sensor n.1.sensor with
      | some r => e.accept r n.1
      | none => e) e

/-- The measurements of a cycle in order (R371), each with whether a contradiction excludes it (R381). -/
def CloseWork.takeAll (desc : Image) : CloseWork → List (Meas × Bool) → CloseWork
  | w, [] => w
  | w, (m, out) :: rest =>
    let w := match w.x.sensor m.sensor with
      | none => w
      | some r =>
        if m.kind = kImu then (if out then w.skipImu m else w.imu r m)
        else if out then w
        else if m.kind = kWheel then w.wheelRec r m
        else w.object (poseAfter w.x m.time rest) desc r m
    CloseWork.takeAll desc w rest

/-- The ego state at τ (R370, R392). -/
def CloseWork.egoAt (w : CloseWork) (tau : Time) : Option Ego :=
  w.x.ego.map fun e => { e.advance tau with noUpdate := if w.wheel then 0 else min 65535 (e.noUpdate + 1) }

/-- The end of a close at τ: without an accepted IMU record the state stands at τ from now on, otherwise at its last IMU step
(R377, R384); old tracks go (R386). -/
def CloseWork.finish (w : CloseWork) (desc : Image) (tau : Time) : CloseWork :=
  let atTau := w.egoAt tau
  let ego := if w.imuSeen then w.x.ego.map fun (e : Ego) => { e with noUpdate := (atTau.map (·.noUpdate)).getD 0 } else atTau
  let miss := usHub (FusDesc.missTime desc * 1000)
  { w with x := { w.x with ego, tracks := w.x.tracks.filter fun t => timeDiff tau t.2.lastTime < miss } }

/-- The records of the calibration set come into force; without an IMU record the ego state goes (R363, R375, R376). -/
def Device.renewSensors (d : Device) : Device :=
  let ss := d.calSensors
  d.fus fun x =>
    let x := { x with sensors := ss }
    match x.ego with
    | some e =>
      if ss.any fun s => SensRec.kind s.2 == kImu then x
      else { x with ego := none, tracks := x.tracks.mapVals fun _ (t : Track) => t.intoBody e }
    | none => x

/-- The order of R371. -/
def measBefore (a b : Meas) : Bool :=
  decide (timeDiff a.time b.time < 0) || (a.time == b.time && (decide (a.sensor < b.sensor)
    || (a.sensor == b.sensor && decide (a.order ≤ b.order))))

/-- What the close of a cycle makes of a waiting measurement under the records in force (R363, R368, R372, R388). -/
inductive Sorted where
  | waits
  | input (m : Meas)
  | dropped
  | counted (f : SensorCounts → SensorCounts)

def Device.sortMeas (d : Device) (c : FusionCycle) (m : RawMeas) : Sorted :=
  let after := decide (0 < timeDiff m.arrival c.closeAt)
  match d.eng.fus.sensor m.sensor with
  | none => if after then .waits else .dropped
  | some r =>
    if !m.admitted r then (if after then .waits else .dropped)
    else if m.corrupt then .counted fun k => { k with corrupt := k.corrupt + 1 }
    else if !m.vals.all F32.isFinite then .counted fun k => { k with nonfinite := k.nonfinite + 1 }
    else
      match if m.latency = SensRec.latency r then m.hub else d.measTime m.dom (SensRec.latency r) m.base with
      | none => .counted fun k => { k with timeRange := k.timeRange + 1 }
      | some t =>
        if 0 < timeDiff t c.tau then .waits
        else if after ∨ d.eng.fus.closedTau.any fun p => timeDiff t p ≤ 0 then .counted fun k => { k with late := k.late + 1 }
        else .input { sensor := m.sensor, kind := m.kind, time := t, order := m.order, cls := m.cls, vals := m.vals }

/-- The input set of a cycle (R370, R371): the state without what it takes or drops, and the inputs in order. -/
def Device.collect (d : Device) (c : FusionCycle) : Device × List Meas :=
  let (x, ins) := d.eng.fus.waiting.foldl (fun (r : FusionState × List Meas) m =>
    match d.sortMeas c m with
    | .waits => ({ r.1 with waiting := r.1.waiting ++ [m] }, r.2)
    | .input n => (r.1, r.2 ++ [n])
    | .dropped => (r.1.drop m.tag, r.2)
    | .counted f => (r.1.tally m.sensor f, r.2)) ({ d.eng.fus with waiting := [] }, [])
  (d.fus fun _ => x, sortBy measBefore ins)

/-- The close of the oldest open cycle (R370 to R390). -/
def Device.closeCycle (d : Device) (r : JobRef) (desc : Image) (c : FusionCycle) : Device :=
  let (d, ins) := d.renewSensors.collect c
  let (d, ex) := d.conflicts desc ins
  let w := CloseWork.takeAll desc { x := d.eng.fus, wheel := false, imuSeen := false, taken := [], full := false }
    (ins.map fun m => (m, ex.contains m.order))
  let atTau := w.egoAt c.tau
  let w := w.finish desc c.tau
  let c' := { c with closed := true, epoch := (d.part r.part).epoch, conflict := !ex.isEmpty, full := w.full, ego := atTau
                     tracks := w.x.tracks.mapVals fun _ (t : Track) => t.predict (FusDesc.accelNoise desc) t.lastTime c.tau }
  let d := d.fus fun _ => { w.x with
    closedTau := some c.tau
    cycles := w.x.cycles.map fun o => if o.number = c.number then c' else o }
  (d.ackJob r.id).finishModes

/-- FUSION_CLOSE (R370): at τ + HOLD of the cycle that is open. -/
def execFusionClose (now : Time) (s : State) : Host.Outcome State Fault Refusal :=
  s.onUp now fun d =>
    match d.fusionJob, d.eng.fus.cycles.find? fun c => !c.closed with
    | some (r, desc), some c => if reached d.hub c.closeAt then d.closeCycle r desc c else d
    | _, _ => d

/-! ### Emission (R370, R373, R390 to R398) -/

def wordsLE (l : List F32) (n : Nat) : Bytes := ((l ++ List.replicate n 0).take n).flatMap fun (w : F32) => natLE w.toNat 4

/-- A cycle's estimates predicted to its emission (R392). -/
def FusionCycle.atEmission (c : FusionCycle) (desc : Image) : FusionCycle :=
  { c with ego := c.ego.map fun e => e.advance c.emitAt
           tracks := c.tracks.mapVals fun _ (t : Track) => t.predict (FusDesc.accelNoise desc) c.tau c.emitAt }

/-- The ego record's body (R393). -/
def egoBody (e : Ego) : Bytes :=
  wordsLE (e.num.take 10 ++ e.rates ++ deviations 9 15 e.cov) 22 ++ natLE e.noUpdate 8

/-- A track entry (R394). -/
def trackEntry (t : Track) : Bytes :=
  natLE (mkImage [(0, 32, t.id.toNat), (32, 16, t.cls), (48, 2, if t.confirmed then 2 else 1)]) 8
    ++ wordsLE t.num 6 ++ wordsLE t.size 3 ++ wordsLE (deviations 3 6 t.cov) 3 ++ natLE (t.hits + t.lastSensor * 65536) 8

/-- The track list's body (R394). -/
def trackBody (c : FusionCycle) : Bytes :=
  natLE (mkImage [(0, 16, c.tracks.length), (16, 1, c.full.toNat)]) 16 ++ c.tracks.flatMap fun t => trackEntry t.2

/-- Writes one result into its ring, signals its Hook and sends it (R390, R391). -/
def Device.putResult (d : Device) (r : JobRef) (c : FusionCycle) (kind base n size k hook stream : Nat) (body : Bytes) :
    Device :=
  let o := { mkRecord stream kind c.number c.epoch c.conflict body with safe := d.lect.safe }
  let o := { o with tag := BitVec.ofNat 12 stream }
  let d := d.writeLines r.part (ringAt base n size k) (streamHeader o false c.emitAt ++ body)
  let d := d.engineSignal r.id hook 1
  if stream = 0xFFFF then d else d.sendRecord o

/-- The region of a track in a camera's frame of a size (R398). -/
def trackRegion (e : Option Ego) (cam desc : Image) (width height : Nat) (t : Track) : Region :=
  let (x, y) := projectBox e cam t
  let q := regionOf (x.1.getD 0) (y.1.getD 0) (x.2.getD 0) (y.2.getD 0) (FusDesc.roiMargin desc)
  { x0 := if x.1.isSome then q.x0 else 0, y0 := if y.1.isSome then q.y0 else 0
    x1 := if x.2.isSome then q.x1 else width, y1 := if y.2.isSome then q.y1 else height }

/-- Region tables for the streams with ROI_SRC 2 (R397, R398), from the estimates at the emission. -/
def Device.fusionRegions (d : Device) (desc : Image) (c : FusionCycle) : Device :=
  d.ing.streams.foldl (fun d s =>
    match s.2.desc with
    | none => d
    | some sd =>
      match StreamDesc.roiSrc sd == 2, d.eng.fus.sensors.find? fun e => SensRec.tag e.2 == s.1 && SensRec.kind e.2 == kCamera with
      | true, some cam =>
        let ts := (c.tracks.filter fun t => t.2.confirmed).map fun t => (t.1, t.2, nth (cameraPoint c.ego cam.2 t.2.pos) 2 0)
        let ts := sortBy (fun a b => F32.lt a.2.2 b.2.2 || (!F32.lt b.2.2 a.2.2 && decide (a.1 ≤ b.1)))
          (ts.filter fun t => F32.gt t.2.2 nearPlane)
        d.commitRegions s.1 ((ts.take 16).map fun t =>
          trackRegion c.ego cam.2 desc (StreamDesc.srcWidth sd) (StreamDesc.srcHeight sd) t.2.1)
      | _, _ => d) d

/-- The completion record of a cycle and its counts (R537, R567, R568). -/
def Device.recordCycle (d : Device) (r : JobRef) (c : FusionCycle) (st : Status) : Device :=
  match d.run r.id with
  | none => d
  | some _ =>
    let p : Period := { s := c.tau, seq := c.number, variant := 0, epoch := c.epoch, left := [], cause := none,
                        nonfinite := false, preempted := false, energyNj := c.energyNj, adapterGen := 0, removed := 0,
                        done := none }
    let d := d.writeCompletion r p st d.hub
    let d := match causeCount st with
      | some k => d.count (clientOf r) k 1
      | none => d.count (clientOf r) 1 1
    if st = stOk ∧ d.monitored (.job r.id) then d.token (.result (.job r.id) c.number c.epoch st d.hub) else d

/-- The results of a finished cycle leave (R390 to R398). -/
def Device.emitCycle (d : Device) (r : JobRef) (desc : Image) (c : FusionCycle) : Device :=
  let x := d.eng.fus
  let c := c.atEmission desc
  let d := match c.ego with
    | some e =>
      let d := d.putResult r c 0x20 (FusDesc.egoRing desc) 16 112 x.egoRecords (FusDesc.egoHook desc)
        (FusDesc.egoStream desc) (egoBody e)
      d.fus fun x => { x with egoRecords := x.egoRecords + 1 }
    | none => d
  let d := d.putResult r c 0x21 (FusDesc.trackRing desc) 4 65568 x.trackLists (FusDesc.trackHook desc)
    (FusDesc.trackStream desc) (trackBody c)
  let d := d.fus fun x => { x with trackLists := x.trackLists + 1 }
  (d.fusionRegions desc c).recordCycle r c stOk

/-- The clean-up of R551 after a late cycle (R373): the Hooks allocated to the job alone are reset, and its streams restarted. The
measurement records whose signals go with MEAS_HOOK are lost, and Fusion's place in the ring passes them. -/
def Device.cleanFusion (d : Device) (r : JobRef) (desc : Image) : Device :=
  let before := (d.hook (FusDesc.measHook desc)).count
  let d := (d.resetJobHooks r.id).restartStreams r
  let lost := before - (d.hook (FusDesc.measHook desc)).count
  d.fus fun x => { x with measNext := (x.measNext + lost) % max 1 (FusDesc.measRecords desc) }

/-- FUSION_EMISSION (R370, R373): at close + EMIT_DELAY; a cycle that has not finished step 4 is discarded. -/
def execFusionEmission (now : Time) (finished : Bool) (s : State) : Host.Outcome State Fault Refusal :=
  s.onUp now fun d =>
    match d.fusionJob, d.eng.fus.cycles with
    | some (r, desc), c :: rest =>
      if c.closed ∧ reached d.hub c.emitAt then
        let d := d.fus fun x => { x with cycles := rest }
        if finished then d.emitCycle r desc c else (d.recordCycle r c stLate).cleanFusion r desc
      else d
    | _, _ => d

/-! ### Starting, stopping, installing (R383, R387, R577) -/

/-- JOB_START of the Fusion job: the generator starts. -/
def Device.startFusion (d : Device) : Device :=
  d.fus fun x => { x with running := true, last := d.hub, first := true, due := []
                          sensors := if x.sensors.isEmpty then d.calSensors else x.sensors }

/-- Fusion stops: cycles in progress end with ST_CANCELLED. -/
def Device.stopFusion (d : Device) : Device :=
  match d.fusionJob with
  | none => d.fus fun x => { x with running := false, cycles := [] }
  | some (r, _) =>
    let d := d.eng.fus.cycles.foldl (fun d c => d.recordCycle r c stCancelled) d
    d.fus fun x => { x with running := false, cycles := [] }

/-- R387: a PLAN_ACTIVATE that installs a different descriptor, or removes the job, clears Fusion. -/
def Device.installFusion (d : Device) (job : Option (BitVec 16)) (desc : Option Image) : Device :=
  if d.eng.fus.desc = desc ∧ d.eng.fus.job = job then d
  else
    let d := d.stopFusion
    let d := match d.eng.fus.desc with
      | some x => let h := d.hook (FusDesc.measHook x)
                  d.setHook (FusDesc.measHook x) { h with count := 0 }
      | none => d
    d.fus fun x => { FusionState.reset with job, desc, counts := x.counts, dropped := x.dropped, trackFull := x.trackFull, sensors := d.calSensors }

end Sys2Proof.Machine
end

