-- ==== Sys2Proof/Machine/Geometry.lean ====
section
/-!
DEFINITION. The Planner's geometry (R419 to R427, R440, R454): forward kinematics, displacement bounds, swept checks,
envelopes and COST. A formula is computed in FP32 in the order written; a distance is the exact one of the FP32 ends and edges,
rounded once (log entry 7).
-/

namespace Sys2Proof.Machine

/-! ### Exact distances -/

/-- The rational value of a finite FP32 word. -/
def F32.toRat (x : F32) : Rat :=
  match f32v x with
  | .fin s m e =>
    let v : Rat := if 0 ≤ e then (m : Rat) * (2 : Rat) ^ e.toNat else (m : Rat) / (2 : Rat) ^ (-e).toNat
    if s then -v else v
  | _ => 0

/-- The FP32 square root of a rational. -/
def F32.ofSquare (d : Rat) : F32 := f32r (FVal.sqrt (FVal.div (.ofInt d.num) (.ofInt d.den)))

/-- A capsule's axis in the world frame, and its radius. -/
structure Capsule where
  a : List F32
  b : List F32
  radius : F32
  deriving DecidableEq, Repr

def Capsule.finite (c : Capsule) : Bool := (c.radius :: c.a ++ c.b).all F32.isFinite

/-- A closed box by its lower and upper edges. -/
abbrev Box := List F32

def ratDot (a b : List Rat) : Rat := (a.zip b).foldl (fun s p => s + p.1 * p.2) 0
def ratSub (a b : List Rat) : List Rat := (a.zip b).map fun p => p.1 - p.2
def ratAlong (a d : List Rat) (t : Rat) : List Rat := (a.zip d).map fun p => p.1 + t * p.2

/-- The least of a nonempty list. -/
def leastRat : List Rat → Rat
  | [] => 0
  | x :: r => r.foldl min x

/-- Squared distance of a point from a box given by (low, high) on each axis. -/
def pointBox (p : List Rat) (box : List (Rat × Rat)) : Rat :=
  (p.zip box).foldl (fun s e => let g := max 0 (max (e.2.1 - e.1) (e.1 - e.2.2)); s + g * g) 0

/-- Squared distance of the segment from `a` along `d` from a box: on each part of the segment between two crossings of the box's
planes the squared distance is one parabola. -/
def segmentBox (a d : List Rat) (box : List (Rat × Rat)) : Rat :=
  let cuts := (0 : Rat) :: 1 :: ((a.zip (d.zip box)).flatMap fun e =>
    if e.2.1 = 0 then [] else [(e.2.2.1 - e.1) / e.2.1, (e.2.2.2 - e.1) / e.2.1]).filter fun t => 0 < t && t < 1
  let cuts := sortBy (fun (x y : Rat) => decide (x ≤ y)) cuts
  leastRat ((cuts.zip (cuts.drop 1)).flatMap fun e =>
    let mid := ratAlong a d ((e.1 + e.2) / 2)
    -- the axes on which the part lies outside, with the plane that it is outside of
    let out := (mid.zip (a.zip (d.zip box))).filterMap fun m =>
      let (p, q, v, lo, hi) := m
      if p < lo then some (q - lo, v) else if hi < p then some (q - hi, v) else none
    let slope : Rat := out.foldl (fun s o => s + o.2 * o.2) 0
    let best := if slope = 0 then e.1 else -(out.foldl (fun (s : Rat) o => s + o.1 * o.2) 0) / slope
    [pointBox (ratAlong a d (max e.1 (min e.2 best))) box])

/-- Squared distance of a point from a segment. -/
def pointSegment (p a d : List Rat) : Rat :=
  let w := ratSub p a
  let n := ratDot d d
  let t := if n = 0 then 0 else max 0 (min 1 (ratDot w d / n))
  let g := ratSub w (d.map fun x => t * x)
  ratDot g g

/-- Squared distance of two segments: at an end of one of them, or where both parameters lie inside. -/
def segmentSegment (a d b e : List Rat) : Rat :=
  let ends := [pointSegment a b e, pointSegment (ratAlong a d 1) b e, pointSegment b a d, pointSegment (ratAlong b e 1) a d]
  let w := ratSub a b
  let (dd, de, ee, dw, ew) := (ratDot d d, ratDot d e, ratDot e e, ratDot d w, ratDot e w)
  let det := dd * ee - de * de
  let inside := if det = 0 then [] else
    let s := (de * ew - ee * dw) / det
    let t := (dd * ew - de * dw) / det
    if 0 ≤ s ∧ s ≤ 1 ∧ 0 ≤ t ∧ t ≤ 1 then let g := ratSub (ratAlong a d s) (ratAlong b e t)
                                          [ratDot g g] else []
  leastRat (ends ++ inside)

def Capsule.start (c : Capsule) : List Rat := c.a.map F32.toRat
def Capsule.along (c : Capsule) : List Rat := ratSub (c.b.map F32.toRat) c.start

/-- The FP32 distance from a capsule's axis to a box (R424). -/
def Capsule.distance (c : Capsule) (box : Box) : F32 :=
  F32.ofSquare (segmentBox c.start c.along ((box.take 3).zip (box.drop 3) |>.map fun e => (F32.toRat e.1, F32.toRat e.2)))

/-- A capsule reaches a box: the distance from its axis is at most its radius plus half a leaf (R424). -/
def Capsule.reaches (c : Capsule) (halfLeaf : F32) (box : Box) : Bool :=
  F32.le (c.distance box) (F32.add c.radius halfLeaf)

/-- Two capsules reach each other. -/
def Capsule.meets (c o : Capsule) : Bool :=
  F32.le (F32.ofSquare (segmentSegment c.start c.along o.start o.along)) (F32.add c.radius o.radius)

/-- The smallest box that holds a capsule. -/
def Capsule.box (c : Capsule) : Box :=
  (List.range 6).map fun i =>
    if i < 3 then F32.sub (F32.min (nth c.a i 0) (nth c.b i 0)) c.radius
    else F32.add (F32.max (nth c.a (i - 3) 0) (nth c.b (i - 3) 0)) c.radius

/-- Two closed boxes intersect; boxes that touch count (R440). -/
def boxesTouch (x y : Box) : Bool :=
  (List.range 3).all fun i => F32.le (nth x i 0) (nth y (i + 3) 0) && F32.le (nth y i 0) (nth x (i + 3) 0)

/-! ### What a check reads (R400, R404, R422 to R425) -/

/-- Model, descriptor, query, Shelf descriptor and map version of a check, with the words of the Shelf's store that are poisoned
(R427, R627). -/
structure World where
  model : Image
  desc : Image
  query : Image
  shelf : Image
  map : ShelfVersion
  poison : List ShelfWord
  deriving DecidableEq, Repr

/-- A tree as words, in preorder. -/
def Oct.words : Oct → List Nat
  | .leaf s => [s.toNat]
  | .node _ c0 c1 c2 c3 c4 c5 c6 c7 =>
    4 :: (c0.words ++ c1.words ++ c2.words ++ c3.words ++ c4.words ++ c5.words ++ c6.words ++ c7.words)

/-- Everything that the samples of a search may depend on (R438), as words. -/
def World.words (w : World) : List Nat :=
  [w.model, w.desc, w.query, w.shelf] ++ w.map.tree.words ++ w.map.patches.flatMap fun p => [p.1, leNat p.2.cells]

/-! ### Kinematics (R419, R422) -/

/-- A frame: its axes and its origin. -/
structure Frame where
  rot : Mat
  pos : List F32
  deriving DecidableEq, Repr

def Frame.point (f : Frame) (p : List F32) : List F32 := vecAdd (matVec f.rot p) f.pos

def Frame.child (f g : Frame) : Frame := ⟨matMul 3 f.rot g.rot, f.point g.pos⟩

/-- The rotation about a unit axis by an angle: I + sin K + (1 - cos) K². -/
def turnAbout (axis : List F32) (angle : F32) : Mat :=
  let (s, c) := fixTurn (f32v angle).toFix
  let (s, c) := (f32r (.ofFix s), f32r (.ofFix c))
  let k : Mat := [[0, F32.neg (nth axis 2 0), nth axis 1 0], [nth axis 2 0, 0, F32.neg (nth axis 0 0)],
                  [F32.neg (nth axis 1 0), nth axis 0 0, 0]]
  matAdd (matAdd (diagonal [f32One, f32One, f32One]) (k.map (vecScale s)))
    ((matMul 3 k k).map (vecScale (F32.sub f32One c)))

/-- A joint's own motion at a value: a turn about AXIS, or a move along it. -/
def jointMotion (x : Image) (q : F32) : Frame :=
  if JointRec.type x = 0 then ⟨turnAbout (JointRec.axis x) q, [0, 0, 0]⟩
  else ⟨diagonal [f32One, f32One, f32One], vecScale q (JointRec.axis x)⟩

/-- The frame of every joint's child link in the world at a configuration. -/
def World.links (w : World) (q : List F32) : List Frame :=
  let base : Frame := ⟨rotOf (Query.baseRot w.query), Query.basePos w.query⟩
  (List.range (RobotHdr.dof w.model)).foldl (fun (fs : List Frame) j =>
    let x := Robot.joint w.model j
    let parent := if JointRec.parent x = 0xFF then base else nth fs (JointRec.parent x) base
    fs ++ [(parent.child ⟨rotOf (JointRec.rot x), JointRec.origin x⟩).child (jointMotion x (nth q j 0))]) []

/-- A body's capsule at a configuration, its radius inflated. -/
def World.capsule (w : World) (q : List F32) (body : Nat) (inflate : F32) : Capsule :=
  let x := Robot.body w.model body
  let base : Frame := ⟨rotOf (Query.baseRot w.query), Query.basePos w.query⟩
  let f := if BodyRec.link x = 0xFF then base else nth (w.links q) (BodyRec.link x) base
  { a := f.point (BodyRec.p0 x), b := f.point (BodyRec.p1 x), radius := F32.add (BodyRec.radius x) inflate }

/-! ### Displacement and substeps (R423) -/

def F32.abs (x : F32) : F32 := if F32.lt x 0 then F32.neg x else x

/-- The joints of a chain from a link to the base. -/
def chainOf (model : Image) : Nat → Nat → List Nat
  | 0, _ => []
  | n + 1, j => if RobotHdr.dof model ≤ j then [] else j :: chainOf model n (JointRec.parent (Robot.joint model j))

def norm (v : List F32) : F32 := F32.sqrt (F32.dot v v)

/-- ρ_(j,b): 1 for a prismatic joint; the largest distance of the body from a revolute joint's axis, radius included. With other joints
between the two, it is taken over their ranges, which is free. -/
def reachOf (model : Image) (j body : Nat) : F32 :=
  let x := Robot.joint model j
  let b := Robot.body model body
  if JointRec.type x ≠ 0 then f32One
  else if BodyRec.link b = j then
    let off (p : List F32) : F32 := norm (cross (JointRec.axis x) p)
    F32.add (F32.max (off (BodyRec.p0 b)) (off (BodyRec.p1 b))) (BodyRec.radius b)
  else F32.canon (Config.jointReach model j body)

/-- Δ_b of a body over a segment (R423). -/
def World.displacement (w : World) (body : Nat) (a b : List F32) : F32 :=
  (chainOf w.model (RobotHdr.dof w.model) (BodyRec.link (Robot.body w.model body))).reverse.foldl (fun s j =>
    F32.add s (F32.mul (F32.abs (F32.sub (nth b j 0) (nth a j 0))) (reachOf w.model j body))) 0

/-- Substeps of a segment (R423). -/
def World.substeps (w : World) (a b : List F32) : Nat :=
  let big := ((List.range (RobotHdr.bodies w.model)).map fun i => w.displacement i a b).foldl F32.max 0
  max 1 ((FVal.ceil (f32v (F32.div big (PlanDesc.sweepTol w.desc)))).getD 1).toNat

/-- The configuration at which substep `k` of `n` starts. -/
def substepAt (a b : List F32) (n k : Nat) : List F32 :=
  List.zipWith (fun x y => F32.add x (F32.mul (F32.sub y x) (F32.div (f32Nat k) (f32Nat n)))) a b

/-- A body's inflated capsule in substep `k` of the `n` of a segment (R424). -/
def World.swept (w : World) (a b : List F32) (n k body : Nat) : Capsule :=
  w.capsule (substepAt a b n k) body (F32.div (w.displacement body a b) (f32Nat n))

/-! ### Checks (R424, R427) -/

/-- Half a leaf edge. -/
def World.halfLeaf (w : World) : F32 := F32.mul f32Half (metres (ShelfDesc.leafMm w.shelf))

/-- A node box of this state blocks a body (R424). -/
def World.blocks (w : World) (s : BitVec 2) : Bool := s == 2 || (s == 0 && !PlanDesc.unknownFree w.desc)

/-- The box of the node (i, j, k) at level `l` (R400). -/
def nodeBox (desc : Image) (l i j k : Nat) : Box :=
  [treeEdge desc 0 l i, treeEdge desc 1 l j, treeEdge desc 2 l k,
   treeEdge desc 0 l (i + 1), treeEdge desc 1 l (j + 1), treeEdge desc 2 l (k + 1)]

/-- The boxes of a tree that block a body, and those whose entry is poisoned (R424, R427). -/
def Oct.blocked (desc : Image) (blocks : BitVec 2 → Bool) (bad : BitVec 32 → Nat → Nat → Nat → Nat → Bool) :
    BitVec 32 → Nat → Nat → Nat → Nat → Oct → List Box
  | v, l, i, j, k, .leaf s => if blocks s || bad v l i j k then [nodeBox desc l i j k] else []
  | v, l, i, j, k, .node b c0 c1 c2 c3 c4 c5 c6 c7 =>
    (if bad v l i j k then [nodeBox desc l i j k] else [])
      ++ c0.blocked desc blocks bad b (l + 1) (2 * i) (2 * j) (2 * k)
      ++ c1.blocked desc blocks bad b (l + 1) (2 * i + 1) (2 * j) (2 * k)
      ++ c2.blocked desc blocks bad b (l + 1) (2 * i) (2 * j + 1) (2 * k)
      ++ c3.blocked desc blocks bad b (l + 1) (2 * i + 1) (2 * j + 1) (2 * k)
      ++ c4.blocked desc blocks bad b (l + 1) (2 * i) (2 * j) (2 * k + 1)
      ++ c5.blocked desc blocks bad b (l + 1) (2 * i + 1) (2 * j) (2 * k + 1)
      ++ c6.blocked desc blocks bad b (l + 1) (2 * i) (2 * j + 1) (2 * k + 1)
      ++ c7.blocked desc blocks bad b (l + 1) (2 * i + 1) (2 * j + 1) (2 * k + 1)
termination_by structural _ _ _ _ _ t => t

/-- The blocking boxes of the tree of a check's version. -/
def World.treeBoxes (w : World) : List Box :=
  w.map.tree.blocked w.shelf w.blocks (fun v l i j k => w.poison.contains (.node v l i j k)) w.map.number 0 0 0 0

/-- The box of cell (u, v) of a shelf (R404). -/
def cellBox (s : Image) (u v : Nat) : Box :=
  let c := metres (ShelfRec.cellMm s)
  let ex (u : Nat) : F32 := F32.add (ShelfRec.originX s) (F32.mul (f32Nat u) c)
  let ey (v : Nat) : F32 := F32.add (ShelfRec.originY s) (F32.mul (f32Nat v) c)
  [ex u, ey v, ShelfRec.zmin s, ex (u + 1), ey (v + 1), ShelfRec.zmax s]

/-- The box of place `i` of a patch of a check's shelves. -/
def World.placeBox (w : World) (patch i : Nat) : Box :=
  cellBox (ShelfDesc.shelf w.shelf (patch / 1024)) (patch % 32 * 32 + i % 32) (patch % 1024 / 32 * 32 + i / 32)

/-- The cells of a cost that `p` admits, as (shelf, box, cost). -/
def World.cells (w : World) (p : Byte → Bool) : List (Nat × Box × Byte) :=
  w.map.patches.flatMap fun e => e.2.cells.zipIdx.filterMap fun c =>
    if p c.1 then some (e.1 / 1024, w.placeBox e.1 c.2, c.1) else none

/-- The cells that count as LETHAL: those of cost 255, and those of a poisoned word (R404, R427). -/
def World.lethal (w : World) : List Box :=
  (w.cells (· == 255)).map (·.2.1) ++ w.poison.flatMap fun x => match x with
    | .cells born patch word =>
      if w.map.patchBorn patch = born then (List.range 8).map fun i => w.placeBox patch (8 * word + i) else []
    | .node .. => []

/-- A capsule overlaps the z band of a cell box. -/
def Capsule.inBand (c : Capsule) (box : Box) : Bool :=
  F32.le (nth c.box 2 0) (nth box 5 0) && F32.le (nth box 2 0) (nth c.box 5 0)

/-- A capsule reaches a point outside the tree's cube, which counts as UNKNOWN (R400). -/
def World.leavesCube (w : World) (c : Capsule) : Bool :=
  let g := F32.add c.radius w.halfLeaf
  let root := nodeBox w.shelf 0 0 0 0
  (List.range 3).any fun i =>
    F32.le (F32.sub (F32.min (nth c.a i 0) (nth c.b i 0)) (nth root i 0)) g
      || F32.le (F32.sub (nth root (i + 3) 0) (F32.max (nth c.a i 0) (nth c.b i 0))) g

/-- The check of one body over substep `k` of the `n` substeps of a segment (R424); a body that the kinematics cannot place counts as
colliding (R59). -/
def World.bodyHit (w : World) (a b : List F32) (n k body : Nat) : Bool :=
  let c := w.swept a b n k body
  !c.finite || w.treeBoxes.any (c.reaches w.halfLeaf) || (w.blocks 0 && w.leavesCube c)
    || w.lethal.any (fun e => c.inBand e && c.reaches w.halfLeaf e)
    || (List.range (RobotHdr.bodies w.model)).any fun o =>
        let g := BodyRec.group (Robot.body w.model body)
        let h := BodyRec.group (Robot.body w.model o)
        g != 0 && h != 0 && g != h && c.meets (w.swept a b n k o)

/-- The first substep of a segment in which a body collides (R423, R424). -/
def World.sweptHit (w : World) (a b : List F32) : Option Nat :=
  let n := w.substeps a b
  (List.range n).find? fun k => (List.range (RobotHdr.bodies w.model)).any (w.bodyHit a b n k)

/-- R422: a coordinate outside its joint's limits, or non-finite. -/
def outsideLimits (model : Image) (q : List F32) : Bool :=
  (List.range (RobotHdr.dof model)).any fun j =>
    let v := nth q j f32NaN
    let x := Robot.joint model j
    !(F32.isFinite v && F32.le (JointRec.lo x) v && F32.le v (JointRec.hi x))

/-- A configuration check: one substep without inflation (R422, R425). -/
def World.configHit (w : World) (q : List F32) : Bool :=
  outsideLimits w.model q || (List.range (RobotHdr.bodies w.model)).any (w.bodyHit q q 1 0)

/-- First colliding substep of a segment. -/
def World.segHit (w : World) (a b : List F32) : Option Nat :=
  if outsideLimits w.model a then some 0 else if outsideLimits w.model b then some (w.substeps a b - 1) else w.sweptHit a b

/-- Consecutive pairs. -/
def pairsOf {α : Type} : List α → List (α × α)
  | a :: b :: r => (a, b) :: pairsOf (b :: r)
  | _ => []

/-- The capsules of every body in every substep of a segment. -/
def World.capsules (w : World) (a b : List F32) : List (Nat × Capsule) :=
  let n := w.substeps a b
  (List.range n).flatMap fun k => (List.range (RobotHdr.bodies w.model)).map fun i => (i, w.swept a b n k i)

/-- The envelope of a segment: the smallest box that holds every inflated body of every substep (after R427). -/
def World.envelope (w : World) (a b : List F32) : Option Box :=
  match (w.capsules a b).map fun c => c.2.box with
  | [] => none
  | x :: r => some (r.foldl boxUnion x)

/-- A change box intersects the envelope of a segment (R440). -/
def World.touches (w : World) (s : List F32 × List F32) (box : Box) : Bool :=
  (w.envelope s.1 s.2).any fun e => boxesTouch e box

/-! ### COST (R454) -/

/-- The largest cost of a shelf under a body: cells whose rectangle the capsule reaches from above, where it overlaps the shelf's band. -/
def costUnder (cs : List (Nat × Box × Byte)) (shelf : Nat) (c : Capsule) : Nat :=
  let flat (p : List F32) : List F32 := p.take 2 ++ [0]
  let c' : Capsule := { c with a := flat c.a, b := flat c.b }
  (cs.filter fun e => e.1 == shelf && c.inBand e.2.1 && c'.reaches 0 (setAt (setAt e.2.1 2 0) 5 0)).foldl
    (fun m e => max m e.2.2.toNat) 0

/-- The shelf term of a path's COST. -/
def World.shelfTerm (w : World) (path : List (List F32)) : F32 :=
  let cs := w.cells (· != 0)
  (List.range (ShelfDesc.shelves w.shelf)).foldl (fun s k =>
    let sum := (pairsOf path).foldl (fun s e =>
      let n := f32Nat (w.substeps e.1 e.2)
      (w.capsules e.1 e.2).foldl (fun s c =>
        F32.add s (F32.mul (f32Nat (costUnder cs k c.2)) (F32.div (w.displacement c.1 e.1 e.2) n))) s) 0
    F32.add s (F32.mul (PlanDesc.wShelf w.desc k) sum)) 0

/-- COST of a path (R454). -/
def World.cost (w : World) (path : List (List F32)) : F32 :=
  F32.add ((pairsOf path).foldl (fun s e => F32.add s (norm (vecSub e.2 e.1))) 0) (w.shelfTerm path)

end Sys2Proof.Machine
end

