-- ==== Sys2Proof/Machine/Planner.lean ====
section
/-!
DEFINITION. The Planner (R415, R428 to R454): instances, queries, the hold check, what a search may come to, acceptance and repair of
candidates, and the trajectory records. The samples and steps of a search are what the model leaves open (log entry 7).
-/

namespace Sys2Proof.Machine

/-! ### Plans (R434, R443) -/

/-- Largest |Δq_j| ÷ LIMIT_j over the joints, `lim` reading a joint record. -/
def maxRatio (model : Image) (lim : Image → F32) (a b : List F32) : F32 :=
  (List.range (RobotHdr.dof model)).foldl (fun m j =>
    F32.max m (F32.div (F32.abs (F32.sub (nth b j 0) (nth a j 0))) (lim (Robot.joint model j)))) 0

/-- Waypoint times on acceptance (R443): zero-length segments go. -/
def timeWaypoints (model : Image) : F32 → List F32 → List (List F32) → List Waypoint
  | t, q, r =>
    ⟨t, false, q⟩ :: match r with
      | [] => []
      | p :: rest =>
        if p = q then (timeWaypoints model t p rest).tail
        else timeWaypoints model (F32.add t (maxRatio model JointRec.vmax q p)) p rest
termination_by structural _ _ r => r

/-- Plan time of hub time `t` in a plan that starts at `start`, in seconds (R443). -/
def planTime (start t : Time) : F32 := seconds t start

/-- The point between two waypoints at plan time `t` (R443). -/
def lerp (t : F32) (a b : Waypoint) : List F32 :=
  let u := F32.div (F32.sub t a.t) (F32.sub b.t a.t)
  List.zipWith (fun x y => F32.add x (F32.mul u (F32.sub y x))) a.q b.q

/-- The rest of a plan from plan time `t` on, with times counted from there. -/
def restFrom (t : F32) : List Waypoint → List Waypoint
  | [] => []
  | [a] => [⟨0, a.stop, a.q⟩]
  | a :: b :: r =>
    if F32.le t a.t then ⟨0, a.stop, a.q⟩ :: (b :: r).map fun w => { w with t := F32.sub w.t a.t }
    else if F32.lt t b.t then ⟨0, a.stop, lerp t a b⟩ :: (b :: r).map fun w => { w with t := F32.sub w.t t }
    else restFrom t (b :: r)

/-- The point of a path at plan time `t`. -/
def pointAt (t : F32) (ws : List Waypoint) : List F32 := ((restFrom t ws).head?.map (·.q)).getD []

/-- The remaining part of a plan at a hub time (R434, R444). -/
def Traj.rest (p : Traj) (t : Time) : List Waypoint := restFrom (planTime p.start t) p.points

/-! ### The stop profile (R448) -/

/-- T_s of a path's start: largest |v_j| ÷ AMAX_j. -/
def stopTime (model : Image) : List Waypoint → F32
  | a :: b :: _ => F32.div (maxRatio model JointRec.amax a.q b.q) (F32.sub b.t a.t)
  | _ => 0

/-- 5 ms in FP32. -/
def f32FiveMs : F32 := 0x3BA3D70A

/-- The spacing: 5 ms, doubled as often as needed for at most 256 waypoints. -/
def stopSpacing (ts : F32) : Nat → F32 → F32
  | 0, dt => dt
  | n + 1, dt => if F32.le ts (F32.mul (f32Nat 255) dt) then dt else stopSpacing ts n (F32.add dt dt)

/-- The path time at time `t` of a stop profile of length `ts`: the speed falls linearly to zero (R448). -/
def stopPath (ts t : F32) : F32 := F32.sub t (F32.div (F32.mul t t) (F32.mul 0x40000000 ts))

/-- The time at which a stop profile comes to path time `cut`. -/
def stopAt (ts cut : F32) : F32 :=
  F32.mul ts (F32.sub f32One (F32.sqrt (F32.sub f32One (F32.div (F32.mul 0x40000000 cut) ts))))

/-- The stop profile along a path, ended at path time `cut` when it would pass it: waypoints and STOP_SHORT. -/
def stopProfile (model : Image) (ws : List Waypoint) (cut : F32) : List Waypoint × Bool :=
  let ts := stopTime model ws
  if !F32.gt ts 0 then ([⟨0, true, pointAt 0 ws⟩], false)
  else
    let short := F32.lt cut (stopPath ts ts)
    let stop := if short then stopAt ts cut else ts
    let dt := stopSpacing stop 64 f32FiveMs
    let times := ((List.range 255).map fun i => F32.mul (f32Nat i) dt).filter fun t => F32.lt t stop
    (times.map (fun t => ⟨t, true, pointAt (stopPath ts t) ws⟩)
      ++ [⟨stop, true, pointAt (if short then cut else stopPath ts ts) ws⟩], short)

/-! ### Records (R450 to R453) -/

def Waypoint.bytes (w : Waypoint) : Bytes :=
  natLE (mkImage ([(0, 32, w.t.toNat), (32, 1, w.stop.toNat)]
    ++ (w.q.take 32).zipIdx.map fun v => (64 + 32 * v.2, 32, v.1.toNat))) 144

/-- What a record reports besides the run itself. -/
structure TrajOutcome where
  status : Status
  points : List Waypoint
  kept : Bool
  truncated : Bool
  stopShort : Bool
  checks : Nat
  deriving DecidableEq, Repr

def trajRecord (q : Image) (p : Period) (u : PlanRun) (o : TrajOutcome) (checked : BitVec 32) (cost : F32) : Bytes :=
  natLE (mkImage [(0, 4, 1), (16, 16, o.status.toNat), (32, 32, Query.seq q), (64, 16, p.epoch.toNat),
    (80, 16, o.points.length), (96, 1, o.kept.toNat), (97, 1, o.truncated.toNat), (98, 1, o.stopShort.toNat),
    (99, 1, u.startBad.toNat), (100, 1, u.goalBad.toNat), (101, 1, u.repaired.toNat), (128, 32, u.mapVersion.toNat),
    (160, 32, checked.toNat), (192, 48, u.startTime.toNat), (256, 32, cost.toNat), (288, 32, o.checks)]) 64
    ++ o.points.flatMap Waypoint.bytes

/-! ### State of a job -/

def PlannerJob.fresh : PlannerJob :=
  { queryNext := 0, lastQuery := none, current := none, records := 0, superseded := 0,
    roadmap := { vertices := [], edges := [] }, run := none }

def Device.planJob (d : Device) (j : BitVec 16) : PlannerJob := d.eng.plan.getD j.toNat PlannerJob.fresh
def Device.setPlanJob (d : Device) (j : BitVec 16) (x : PlannerJob) : Device :=
  { d with eng := { d.eng with plan := d.eng.plan.put j.toNat x } }

def JobRef.model (r : JobRef) (desc : Image) : Image := (r.record 0xC (PlanDesc.modelRef desc)).getD 0

/-- The version that a run's checks use: the one that its instance pins. -/
def Device.pinned (d : Device) (i : Fin 2) : ShelfVersion := (nth d.eng.shelf.pins i.val none).getD d.eng.shelf.current

/-- What a check reads for a query with a map version. -/
def Device.world (d : Device) (r : JobRef) (desc query : Image) (map : ShelfVersion) : World :=
  ⟨r.model desc, desc, query, d.eng.shelf.desc.getD 0, map, d.eng.shelf.poison⟩

/-- Domain of a Planner instance (R579). -/
def plannerDom (i : Fin 2) : Nat := 0x34 + i.val

/-! ### Queries (R432, R433) -/

/-- A query that R433 drops with ST_LIMIT. -/
def badQuery (dof : Nat) (q : Image) : Bool :=
  !rsvdZero q Query.rsvd || (Query.start q ++ Query.goal q ++ Query.basePos q ++ Query.baseRot q).any (fun v => !F32.isFinite v)
    || offUnitNorm (Query.baseRot q) || ((Query.start q).drop dof ++ (Query.goal q).drop dof).any (· != 0)
    || (Query.hasGuess q && (Query.guessCount q < 2 || 64 < Query.guessCount q))

/-- Takes every query signalled since the last period (R433): the newest one's image, when there is one that may be
used; true when its bytes were poisoned, or lie outside the view. -/
def Device.takeQueries (d : Device) (r : JobRef) (desc : Image) : Device × Option Nat × Option Status :=
  let h := d.hook (PlanDesc.queryHook desc)
  let x := d.planJob r.id
  if h.count = 0 then (d, none, none)
  else
    let d := d.setHook (PlanDesc.queryHook desc) { h with count := 0 }
    let a := PlanDesc.queryRing desc + (x.queryNext + h.count - 1) % max 1 (PlanDesc.queryRecords desc) * 320
    let d := d.setPlanJob r.id { x with queryNext := x.queryNext + h.count
                                        superseded := sat32 (x.superseded + (h.count - 1)) }
    if !d.inView r.part a 320 then (d, none, some stAccess)
    else
      let (d, bad) := d.hubRead r.part a 320
      if bad then (d, none, some stUncorrectable)
      else
        let q := leNat (d.readView r.part a 320)
        (d, if badQuery (RobotHdr.dof (r.model desc)) q then none else some q, none)

/-! ### Ending a period (R444 to R450) -/

/-- Writes the record of a period, signals, sends, and ends the run; the trajectory becomes the current plan. -/
def Device.writeTraj (d : Device) (r : JobRef) (desc : Image) (p : Period) (u : PlanRun) (o : TrajOutcome) : Device :=
  let j := r.id
  let cost := (d.world r desc u.query (d.pinned u.inst)).cost (o.points.map (·.q))
  let bs := trajRecord u.query p u o d.eng.shelf.current.number cost
  let x := d.planJob j
  let a := ringAt (PlanDesc.outRing desc) 4 36928 x.records
  let d := if u.pinned then d.unpin u.inst else d
  let d := d.setPlanJob j { x with run := none, records := x.records + 1
                                   current := some { start := u.startTime, points := o.points } }
  if !d.inView r.part a bs.length then d.withholdStop j stAccess
  else
    let d := d.writeLines r.part a bs
    let d := d.engineSignal j (PlanDesc.outHook desc) 1
    let d := if PlanDesc.outStream desc = 0xFFFF then d else
      d.sendRecord (mkRecord (PlanDesc.outStream desc) 0x30 (BitVec.ofNat 32 (Query.seq u.query)) p.epoch false bs)
    d.markDone j o.status

/-- The first colliding place of the held plan: the hold check's, or a segment that a later change touches (R445). -/
def Device.heldHit (d : Device) (w : World) (u : PlanRun) (rest : List Waypoint) : Option (Nat × Nat) :=
  let ch := d.eng.shelf.changesSince u.mapVersion
  let hits := (pairsOf rest).zipIdx.filterMap fun s =>
    let touched := match ch with
      | none => true
      | some es => es.any fun e => e.boxes.any fun b => w.touches (s.1.1.q, s.1.2.q) b
    if touched then some (s.2, 0) else match u.holdHit with
      | some (i, k) => if i = s.2 then some (i, k) else none
      | none => none
  hits.head?

/-- The period ends without an accepted plan (R445 to R449). -/
def Device.failSearch (d : Device) (r : JobRef) (desc : Image) (p : Period) (u : PlanRun) : Device :=
  let model := r.model desc
  let w := d.world r desc u.query (d.pinned u.inst)
  let d := d.bump
  let base : TrajOutcome :=
    { status := stNoPath, points := [⟨0, false, u.start⟩], kept := false, truncated := false, stopShort := false,
      checks := Config.plannerChecks d.clk.nonce }
  let held := u.holdFrom.map (·.1)
  let cutAt (ws : List Waypoint) (t : F32) : TrajOutcome :=
    let (pts, short) := stopProfile model ws t
    { base with points := pts, truncated := true, stopShort := short }
  let o := match held with
    | none => if u.startBad then { base with truncated := true, points := [⟨0, true, u.start⟩] } else base
    | some ws =>
      if u.startBad then cutAt ws 0
      else match d.heldHit w u ws with
        | none => { base with status := stPlanKept, points := ws.take 256, kept := true }
        | some (i, k) =>
          match (pairsOf ws)[i]? with
          | none => cutAt ws 0
          | some (a, b) =>
            let n := w.substeps a.q b.q
            cutAt ws (F32.add a.t (F32.mul (F32.sub b.t a.t) (F32.div (f32Nat k) (f32Nat n))))
  d.writeTraj r desc p u o

/-! ### START (R415, R433, R434, R437, R444, R449) -/

/-- The point at a joint-space length along a path (R437). -/
def alongPath : F32 → List (List F32) → List F32
  | _, [] => []
  | _, [a] => a
  | x, a :: b :: r =>
    let l := norm (vecSub b a)
    if F32.le x l then (if F32.isZero l then a else vecAdd a (vecScale (F32.div x l) (vecSub b a)))
    else alongPath (F32.sub x l) (b :: r)

/-- `n` waypoints evenly along a path in joint-space arc length, with its ends at START and GOAL (R437). -/
def resample (n : Nat) (start goal : List F32) (path : List (List F32)) : List (List F32) :=
  let total := (pairsOf path).foldl (fun s e => F32.add s (norm (vecSub e.2 e.1))) 0
  start :: ((List.range (n - 2)).map fun i =>
    alongPath (F32.div (F32.mul (f32Nat (i + 1)) total) (f32Nat (n - 1))) path) ++ [goal]

/-- The guess of a query in the job's view (R432): its waypoints, or the status of a read that fails. -/
def Device.readGuess (d : Device) (r : JobRef) (dof : Nat) (q : Image) : Device × Option Status × List (List F32) :=
  let n := 128 * Query.guessCount q
  let a := Query.guessAddr q
  if !d.inView r.part a n then (d, some stAccess, [])
  else
    let (d, bad) := d.hubRead r.part a n
    if bad then (d, some stUncorrectable, [])
    else (d, none, (List.range (Query.guessCount q)).map fun i =>
      (f32s (leNat (d.readView r.part (a + 128 * i) 128)) 0 32).take dof)

/-- The path from which TRAJ_OPT starts (R437), and the status of a guess that cannot be read. -/
def Device.firstGuess (d : Device) (r : JobRef) (desc q : Image) (start goal : List F32) (rest : Option (List Waypoint)) :
    Device × Option Status × List (List F32) :=
  if PlanDesc.mode desc ≠ 2 then (d, none, [])
  else
    let (d, st, path) :=
      if Query.hasGuess q then d.readGuess r (RobotHdr.dof (r.model desc)) q
      else (d, none, (rest.map fun ws => ws.map (·.q)).getD [start, goal])
    (d, st, resample (PlanDesc.waypoints desc) start goal path)

/-- A period starts on an instance. -/
def Device.startPlanner (d : Device) (r : JobRef) (desc : Image) (p : Period) (i : Fin 2) : Device :=
  let j := r.id
  let model := r.model desc
  match d.takeQueries r desc with
  | (d, _, some st) => d.withholdStop j st
  | (d, new, none) =>
    let x := d.planJob j
    match new, x.lastQuery, x.current with
    | none, none, _ => d.markDone j stNoPath
    | none, some _, none => d.markDone j stNoPath
    | new, last, cur =>
      let q := (new <|> last).getD 0
      let startTime := if new.isSome then BitVec.ofNat 48 (Query.startTime q) else p.s
      let start := if new.isSome then (Query.start q).take (RobotHdr.dof model)
                   else match cur with
                     | some c => pointAt (planTime c.start p.s) c.points
                     | none => []
      let goal := (Query.goal q).take (RobotHdr.dof model)
      let d := d.pin i
      let v := d.eng.shelf.current
      let w := d.world r desc q v
      let rest := if Query.usePrev q then cur.map fun c => c.rest startTime else none
      let hit := rest.bind fun ws =>
        ((pairsOf ws).zipIdx.filterMap fun s => (w.segHit s.1.1.q s.1.2.q).map fun k => (s.2, k)).head?
      match d.firstGuess r desc q start goal rest with
      | (d, some st, _) => (d.unpin i).withholdStop j st
      | (d, none, guess) =>
      let startBad := w.configHit start
      let goalBad := !startBad && w.configHit goal
      let u : PlanRun :=
        { inst := i, query := q, start, startTime, snapshot := v.number, mapVersion := v.number, pinned := true,
          rounds := 0, repaired := false, pieces := [], guess, checks := 0, holdFrom := rest.map fun ws => (ws, startTime), holdHit := hit,
          startBad, goalBad }
      let d := d.setPlanJob j { x with lastQuery := some q, run := some u }
      if startBad || goalBad then d.failSearch r desc p u else d

/-- Planner jobs whose period waits for an instance, in the order of R565: class, then earliest S, then JOB_ID. -/
def Device.waitingPlans (d : Device) : List (JobRef × Period) :=
  let ws := d.activeJobs.filterMap fun r =>
    if r.engine = engPlanner then match d.working r.id with
      | some (_, _, p) => if (d.planJob r.id).run.isNone then some (r, p) else none
      | none => none
    else none
  sortBy (fun a b => decide (a.1.cls < b.1.cls) || (a.1.cls == b.1.cls &&
    (decide (timeDiff a.2.s b.2.s < 0) || (a.2.s == b.2.s && decide (a.1.id ≤ b.1.id))))) ws

/-- The period that holds an instance. -/
def Device.holder (d : Device) (i : Fin 2) : Option (BitVec 16) :=
  (d.eng.plan.find? fun e => match e.2.run with
    | some u => u.inst == i
    | none => false).map fun e => BitVec.ofNat 16 e.1

/-- Gives waiting periods their instances (R428, R559, R565, R579). -/
def Device.startPlanners (d : Device) : Device :=
  d.waitingPlans.foldl (fun d e =>
    let (r, p) := e
    match r.desc with
    | none => d
    | some desc =>
      let free (i : Fin 2) : Bool := (d.holder i).isNone
      match [(0 : Fin 2), 1].find? fun i => free i && d.engineFree (.planner i) with
      | some i => d.startPlanner r desc p i
      | none =>
        match [(0 : Fin 2), 1].find? fun i => free i && !(d.test (.engine (.planner i))).failed with
        | some i => d.needDom (plannerDom i)
        | none =>
          let low (i : Fin 2) : Bool := match (d.holder i).bind d.job with
            | some q => q.background
            | none => false
          if r.background then d else
          match [(0 : Fin 2), 1].find? low with
          | none => d
          | some i => match d.holder i with
            | none => d
            | some j => (d.endWith j stCancelled).startPlanner r desc p i) d

/-! ### Candidates (R439 to R442) -/

/-- The run of a job whose budget has not ended, with what it needs. -/
def Device.searching (d : Device) (j : BitVec 16) : Option (JobRef × Image × Period × PlanRun) :=
  match d.working j with
  | some (r, _, p) => match r.desc, (d.planJob j).run with
    | some desc, some u => some (r, desc, p, u)
    | _, _ => none
  | none => none

/-- The runs of consecutive failing segments, as first and last segment. -/
def failingRuns (fs : List Bool) : List (Nat × Nat) :=
  fs.zipIdx.foldl (fun (acc : List (Nat × Nat)) e =>
    if !e.1 then acc
    else match acc with
      | (a, b) :: r => if b + 1 = e.2 then (a, e.2) :: r else (e.2, e.2) :: acc
      | [] => [(e.2, e.2)]) []

/-- The repair span of each failing run, as first and last waypoint: both valid (R441). -/
def repairSpans (valid : List Bool) (fs : List Bool) : List (Nat × Nat) :=
  let ok (i : Nat) : Bool := nth valid i false
  (failingRuns fs).map fun r =>
    (((List.range (r.1 + 1)).reverse.find? ok).getD 0,
     ((List.range valid.length).find? fun i => r.2 + 1 ≤ i && ok i).getD (valid.length - 1))

/-- What is left of a candidate's waypoints outside the repair spans, as runs (R441). -/
def piecesOf (spans : List (Nat × Nat)) : Nat → List (List F32) → List (List (List F32))
  | _, [] => []
  | i, q :: r =>
    let rest := piecesOf spans (i + 1) r
    if spans.any fun s => s.1 < i && i < s.2 then rest
    else match rest with
      | [] => [[q]]
      | p :: ps => if spans.any fun s => s.1 ≤ i && i < s.2 then [q] :: p :: ps else (q :: p) :: ps

/-! ### What a search may come to (R435 to R438) -/

/-- ∞-norm of a difference. -/
def maxNorm (a b : List F32) : F32 := (vecSub b a).foldl (fun m v => F32.max m (F32.abs v)) 0

def World.free (w : World) (s : List F32 × List F32) : Bool := (w.segHit s.1 s.2).isNone

/-- Greedy shortening (R435): from each kept waypoint on to the farthest later one whose direct segment passes. -/
def World.shorten (w : World) : Nat → List (List F32) → List (List F32)
  | 0, l => l
  | _, [] => []
  | n + 1, q :: r =>
    match ((List.range r.length).reverse.find? fun i => w.free (q, nth r i [])) with
    | some i => q :: w.shorten n (r.drop i)
    | none => q :: r

/-- A path of the two trees: its ends, its steps, its checks and the trees' size (R435). -/
def World.treePath (w : World) (s g : List F32) (x : SearchWork) : Bool :=
  x.path.head? == some s && x.path.getLast? == some g && x.path.all (fun q => q.length == RobotHdr.dof w.model)
    && (pairsOf x.path).all (fun e => F32.le (maxNorm e.1 e.2) (PlanDesc.step w.desc) && w.free e)
    && x.path.length ≤ x.steps && x.steps ≤ PlanDesc.maxNodes w.desc

/-- TRAJ_OPT's objective (R437). -/
def World.objective (w : World) (path : List (List F32)) : F32 :=
  let bend := (path.zip ((path.drop 1).zip (path.drop 2))).foldl (fun s e =>
    let v := vecAdd (vecSub e.2.2 (vecScale 0x40000000 e.2.1)) e.1
    F32.add s (F32.dot v v)) 0
  let near := (pairsOf path).foldl (fun s e => (w.capsules e.1 e.2).foldl (fun s c =>
    match w.treeBoxes.map c.2.distance with
    | [] => s
    | d :: ds =>
      let g := F32.max 0 (F32.sub (F32.add c.2.radius w.halfLeaf) (ds.foldl F32.min d))
      F32.add s (F32.mul g g)) s) 0
  F32.add (F32.add (F32.mul (PlanDesc.wSmooth w.desc) bend) (w.shelfTerm path)) (F32.mul (PlanDesc.wColl w.desc) near)

/-- 10⁻⁴ in FP32. -/
def f32TenthMilli : F32 := 0x38D1B717

/-- An iterate that TRAJ_OPT may hand over (R437): its size and ends, a falling objective that has changed by less than 10⁻⁴ of its
value, its full check; the first step starts at the guess. -/
def World.optimised (w : World) (guess : List (List F32)) (s g : List F32) (x : SearchWork) : Bool :=
  let fits (p : List (List F32)) : Bool := p.length == PlanDesc.waypoints w.desc && p.head? == some s && p.getLast? == some g
    && p.all fun q => q.length == RobotHdr.dof w.model
  let now := w.objective x.path
  fits x.path && fits x.before && 1 ≤ x.steps && x.steps ≤ PlanDesc.optIters w.desc
    && (x.steps != 1 || guess.isEmpty || x.before == guess)
    && F32.le now (w.objective x.before)
    && F32.lt (F32.abs (F32.sub (w.objective x.before) now)) (F32.mul f32TenthMilli (F32.abs now))
    && (pairsOf x.path).all w.free

/-! ### The roadmap (R436) -/

/-- The `k` vertices nearest to a configuration in ∞-norm. -/
def nearestK (k : Nat) (vs : List (List F32)) (q : List F32) : List Nat :=
  ((sortBy (fun (a b : Nat × F32) => F32.lt a.2 b.2 || (!F32.lt b.2 a.2 && decide (a.1 ≤ b.1)))
    (vs.zipIdx.map fun v => (v.2, maxNorm q v.1))).take k).map (·.1)

/-- One round of relaxing every link, both ways: for each node the least COST found and the way to it, last node first. -/
def relax (cost : Nat → Nat → F32) (links : List (Nat × Nat)) (best : List (Option (F32 × List Nat))) :
    List (Option (F32 × List Nat)) :=
  let step (best : List (Option (F32 × List Nat))) (a b : Nat) : List (Option (F32 × List Nat)) :=
    match nth best a none, nth best b none with
    | some (c, way), old =>
      let c' := F32.add c (cost a b)
      if old.all fun o => F32.lt c' o.1 then setAt best b (some (c', b :: way)) else best
    | none, _ => best
  links.foldl (fun best l => step (step best l.1 l.2) l.2 l.1) best

/-- The path of least COST between two nodes of a graph of `n` nodes. -/
def leastPath (cost : Nat → Nat → F32) (links : List (Nat × Nat)) (n src dst : Nat) : Option (List Nat) :=
  let first := setAt (List.replicate n none) src (some ((0 : F32), [src]))
  ((nth ((List.range n).foldl (fun b _ => relax cost links b) first) dst none).map (·.2)).map List.reverse

/-- An edge may have changed since the version against which it was last checked (R436, R440). -/
def ShelfState.changedSince (x : ShelfState) (w : World) (v snapshot : BitVec 32) (s : List F32 × List F32) : Bool :=
  if v = snapshot then false else
  match x.changesSince v, x.changesSince snapshot with
  | some es, some later => (es.take (es.length - later.length)).any fun e => e.boxes.any (w.touches s)
  | _, _ => true

/-- The search of R436: the path of least COST whose edges pass; a failing edge is deleted, and a link of START or GOAL that fails is
left out. START is node n, GOAL node n + 1. -/
def searchRoad (x : ShelfState) (w : World) (s g : List F32) (vs : List (List F32)) :
    Nat → List (Nat × Nat × BitVec 32) → List (Nat × Nat) → List (Nat × Nat × BitVec 32) × Option (List (List F32))
  | 0, es, _ => (es, none)
  | fuel + 1, es, ends =>
    let at_ (i : Nat) : List F32 := nth (vs ++ [s, g]) i []
    match leastPath (fun a b => w.cost [at_ a, at_ b]) (es.map (fun e => (e.1, e.2.1)) ++ ends) (vs.length + 2) vs.length
        (vs.length + 1) with
    | none => (es, none)
    | some way =>
      let same (l : Nat × Nat) (a b : Nat) : Bool := l == (a, b) || l == (b, a)
      let known (l : Nat × Nat) : Option (Nat × Nat × BitVec 32) := es.find? fun e => same l e.1 e.2.1
      let passes (l : Nat × Nat) : Bool :=
        let seg := (at_ l.1, at_ l.2)
        (match known l with
          | some e => !x.changedSince w e.2.2 w.map.number seg
          | none => false) || w.free seg
      match (pairsOf way).find? fun l => !passes l with
      | some l => searchRoad x w s g vs fuel (es.filter fun e => !same l e.1 e.2.1) (ends.filter fun e => !same l e.1 e.2)
      | none => (es.map fun e => if (pairsOf way).any (fun l => same l e.1 e.2.1) then (e.1, e.2.1, w.map.number) else e,
                 some (way.map at_))

/-- What ROADMAP finds for a span with the vertices and edges that it samples when no path exists (R436). -/
def World.roadPath (w : World) (x : ShelfState) (m : Roadmap) (s g : List F32) (work : SearchWork) :
    Roadmap × Option (List (List F32)) :=
  let find (m : Roadmap) : Roadmap × Option (List (List F32)) :=
    let k := PlanDesc.kNeigh w.desc
    let n := m.vertices.length
    let ends := (nearestK k m.vertices s).map (fun i => (n, i)) ++ (nearestK k m.vertices g).map fun i => (n + 1, i)
    let r := searchRoad x w s g m.vertices (m.edges.length + ends.length + 1) m.edges ends
    ({ m with edges := r.1 }, r.2)
  match find m with
  | (m, some p) => (m, some p)
  | (m, none) =>
    let vs := m.vertices ++ (work.vertices.filter fun q => !outsideLimits w.model q)
    if PlanDesc.maxNodes w.desc < vs.length then (m, none)
    else
      let es := (work.edges.filter fun e => e.1 < vs.length && e.2 < vs.length && e.1 != e.2 && w.free (nth vs e.1 [], nth vs e.2 [])).map
        fun e => (e.1, e.2, w.map.number)
      find { vertices := vs, edges := m.edges ++ es }

/-! ### A search's outcome -/

/-- The ends of the spans that a search plans: START and GOAL, or the ends of each repair span (R441). -/
def PlanRun.spans (u : PlanRun) (dof : Nat) : List (List F32 × List F32) :=
  if u.pieces.isEmpty then [(u.start, (Query.goal u.query).take dof)]
  else (pairsOf u.pieces).map fun p => (p.1.getLast?.getD [], p.2.headD [])

/-- The pieces of a candidate with the new paths between them (R441). -/
def splice : List (List (List F32)) → List (List (List F32)) → List (List F32)
  | p :: ps, s :: ss => p ++ (s.drop 1).dropLast ++ splice ps ss
  | p :: _, [] => p
  | [], s :: _ => s
  | [], [] => []

/-- The path of one span by the job's MODE, with the roadmap that the search leaves. -/
def World.spanPath (w : World) (x : ShelfState) (m : Roadmap) (guess : List (List F32)) (e : List F32 × List F32)
    (work : SearchWork) : Roadmap × Option (List (List F32)) :=
  match PlanDesc.mode w.desc with
  | 0 => (m, if w.treePath e.1 e.2 work then some (w.shorten work.path.length work.path) else none)
  | 1 => w.roadPath x m e.1 e.2 work
  | _ => (m, if w.optimised guess e.1 e.2 work then some work.path else none)

/-- With a fixed SEED, what the search comes to is a function of the seed, of what it reads and of the checks completed (R438). -/
def World.repeats (w : World) (m : Roadmap) (u : PlanRun) (c : Candidate) : Bool :=
  let flat (l : List (List F32)) : List Nat := l.flatMap fun q => q.length :: q.map fun (v : F32) => v.toNat
  PlanDesc.seed w.desc == 0 ||
    c.spans.map (fun s => (s.path, s.before, s.vertices, s.edges, s.steps)) ==
      Config.search (w.words ++ flat [u.start] ++ flat u.pieces.flatten ++ flat u.guess ++ flat m.vertices
        ++ m.edges.flatMap fun e => [e.1, e.2.1]) (u.checks + c.checks)

/-- The waypoints of a candidate and the roadmap after its search; none where no search of the job's MODE comes to it. -/
def World.found (w : World) (x : ShelfState) (m : Roadmap) (u : PlanRun) (c : Candidate) :
    Option (Roadmap × List (List F32)) :=
  let ends := u.spans (RobotHdr.dof w.model)
  if ends.length ≠ c.spans.length ∨ !w.repeats m u c then none
  else
    let guess := if u.pieces.isEmpty then u.guess else []
    (ends.zip c.spans).foldl (fun (r : Option (Roadmap × List (List (List F32)))) e =>
      r.bind fun r => match w.spanPath x r.1 guess e.1 e.2 with
        | (m, some p) => some (m, r.2 ++ [p])
        | (_, none) => none) (some (m, []))
    |>.map fun r => (r.1, splice u.pieces r.2)

/-- The words of the Shelf's store that a search's reads find uncorrectable: they count as collisions from then on, and each is reported
once (R427, R627). -/
def Device.spoilShelf (d : Device) (job : BitVec 16) (v : ShelfVersion) (c : Candidate) : Device :=
  (c.bad.filterMap v.wordAt).foldl (fun (d : Device) x =>
    if d.eng.shelf.poison.contains x then d
    else ((d.shelf fun s => { s with poison := s.poison ++ [x] }).chipCount 1 0 1).event stUncorrectable srcJob job 0)
    (d.chipCount 1 c.corrected 0)

/-- A completed candidate (R439 to R442): its waypoints and the checks run for it. -/
def Device.candidate (d : Device) (r : JobRef) (desc : Image) (p : Period) (u : PlanRun) (ws : List (List F32)) (checks : Nat) :
    Device :=
  let j := r.id
  let model := r.model desc
  if 256 < ws.length then d.failSearch r desc p u
  else
    let w := d.world r desc u.query (d.pinned u.inst)
    let accept (d : Device) (u : PlanRun) : Device :=
      d.writeTraj r desc p u
        { status := stOk, points := match ws with
            | [] => []
            | q :: rest => timeWaypoints model 0 q rest
          kept := false, truncated := false, stopShort := false, checks := u.checks + checks }
    let cur := d.eng.shelf.current
    let segs := pairsOf ws
    let hit (s : List F32 × List F32) : Bool := match d.eng.shelf.changesSince u.snapshot with
      | none => true
      | some es => es.any fun e => e.boxes.any (w.touches s)
    if cur.number = u.snapshot ∨ !segs.any hit then accept d u
    else if u.rounds ≥ PlanDesc.rounds desc then d.failSearch r desc p u
    else
      let d := d.pin u.inst
      let w' := d.world r desc u.query cur
      let fs := segs.map fun s => hit s && !w'.free s
      let valid := ws.map fun q => !w'.configHit q
      let u' := { u with snapshot := cur.number, checks := u.checks + checks }
      if !fs.any id then accept d { u' with checks := u.checks }
      else if !(valid.headD false) ∨ !(valid.getLast?.getD false) then d.failSearch r desc p u'
      else
        let pieces := piecesOf (repairSpans valid fs) 0 ws
        d.setPlanJob j { d.planJob j with run := some { u' with rounds := u.rounds + 1, repaired := true, pieces } }

/-- CANDIDATE_COMPLETE (R427, R435 to R442). -/
def execCandidateComplete (now : Time) (job : BitVec 16) (cand : Candidate) (s : State) :
    Host.Outcome State Fault Refusal :=
  s.onUp now fun d =>
    match d.searching job with
    | some (r, desc, p, u) =>
      if reached d.hub (addT p.s (usHub (PlanDesc.budget desc))) then d
      else
        let d := d.spoilShelf job (d.pinned u.inst) cand
        let x := d.planJob job
        match (d.world r desc u.query (d.pinned u.inst)).found d.eng.shelf x.roadmap u cand with
        | some (m, ws) =>
          ((d.setPlanJob job { x with roadmap := m }).candidate r desc p u ws cand.checks).startPlanners
        | none => d
    | none => d

/-- PLANNER_BUDGET_END (R445). -/
def execPlannerBudgetEnd (now : Time) (job : BitVec 16) (s : State) : Host.Outcome State Fault Refusal :=
  s.onUp now fun d =>
    match d.searching job with
    | some (r, desc, p, u) =>
      if reached d.hub (addT p.s (usHub (PlanDesc.budget desc))) then (d.failSearch r desc p u).startPlanners else d
    | none => d

/-- SEARCH_FAILS (R445): a full tree, a full roadmap or the last optimisation step without a candidate. -/
def execSearchFails (now : Time) (job : BitVec 16) (s : State) : Host.Outcome State Fault Refusal :=
  s.onUp now fun d =>
    match d.searching job with
    | some (r, desc, p, u) => (d.failSearch r desc p u).startPlanners
    | none => d

end Sys2Proof.Machine
end

