-- ==== Sys2Proof/Machine/Qp.lean ====
section
/-!
DEFINITION. The Solver's quadratic programs (R455 to R466, R478 to R488): structures with their symbolic factorisation, iterates and
their residuals, equilibration, the factorisation, and one predictor-corrector step. A formula is computed in FP32 in the order of the
stored entries (log entry 8); the right-hand sides and the slacks' and multipliers' part of a step are free.
-/

namespace Sys2Proof.Machine

/-! ### Structures (R458 to R466) -/

/-- Elements before each array of R459: P_COLPTR, P_ROWIDX, A_COLPTR, A_ROWIDX, P_VAL, Q, A_VAL, L, U, ORDER. -/
def SStruct.starts (x : Image) : List Nat :=
  let n := SStruct.n x
  let m := SStruct.m x
  let p := SStruct.nnzP x
  let a := SStruct.nnzA x
  (([n + 1, p, n + 1, a, p, n, a, m, m].foldl (fun (s : List Nat × Nat) k => (s.1 ++ [s.2 + k], s.2 + k)) ([0], 0))).1

/-- Elements of each array. -/
def SStruct.size (x : Image) (k : Nat) : Nat :=
  nth [SStruct.n x + 1, SStruct.nnzP x, SStruct.n x + 1, SStruct.nnzA x, SStruct.nnzP x, SStruct.n x, SStruct.nnzA x,
       SStruct.m x, SStruct.m x, if SStruct.orderGiven x then SStruct.n x + SStruct.m x else 0] k 0

/-- Array `k` of R459 as 32-bit words. -/
def SStruct.array (x : Image) (k : Nat) : List Nat :=
  let s := nth (SStruct.starts x) k 0
  (List.range (SStruct.size x k)).map fun i => fld x (512 + 32 * (s + i) + 31) (512 + 32 * (s + i))

/-- The values of a structure record: P_VAL, Q, A_VAL, L_BOUND, U_BOUND. -/
def SStruct.values (x : Image) : List (List F32) :=
  [4, 5, 6, 7, 8].map fun k => (SStruct.array x k).map (BitVec.ofNat 32)

/-- R460. -/
def SStruct.kktNnz (x : Image) : Nat := SStruct.nnzP x + SStruct.nnzA x + SStruct.m x

/-- The SIGNATURE (R466). -/
def SStruct.signature (x : Image) : Nat :=
  let w := [SStruct.n x, SStruct.m x, SStruct.nnzP x, SStruct.nnzA x] ++ SStruct.array x 0 ++ SStruct.array x 1
    ++ SStruct.array x 2 ++ SStruct.array x 3
  leNat ((sha256 (w.flatMap (natLE · 4))).take 8)

/-- Positions of the stored entries of a compressed column form, as (row, column). -/
def cscEntries (ptr rows : List Nat) : List (Nat × Nat) :=
  (List.range (ptr.length - 1)).flatMap fun j =>
    ((rows.drop (nth ptr j 0)).take (nth ptr (j + 1) 0 - nth ptr j 0)).map fun r => (r, j)

def isPerm (n : Nat) (l : List Nat) : Bool := l.length == n && (List.range n).all fun i => l.contains i

/-- The elimination order (R462). -/
def SStruct.order (x : Image) : List Nat :=
  let n := SStruct.n x + SStruct.m x
  if SStruct.orderGiven x then SStruct.array x 9
  else
    let o := Config.amdOrder ([SStruct.n x, SStruct.m x] ++ SStruct.array x 0 ++ SStruct.array x 1 ++ SStruct.array x 2
      ++ SStruct.array x 3)
    if isPerm n o then o else List.range n

/-- Rows below the diagonal of each column of L, in elimination order (R462, R463). -/
def SStruct.columns (x : Image) : List (List Nat) :=
  let nn := SStruct.n x
  let ord := SStruct.order x
  let es := (cscEntries (SStruct.array x 0) (SStruct.array x 1))
    ++ (cscEntries (SStruct.array x 2) (SStruct.array x 3)).map fun e => (nn + e.1, e.2)
  let ps := es.map fun e =>
    let a := ord.idxOf e.1
    let b := ord.idxOf e.2
    (max a b, min a b)
  (List.range ord.length).foldl (fun (cols : List (List Nat)) k =>
    let own := (ps.filter fun e => e.2 == k && e.1 != k).map (·.1)
    let kids := (cols.filter fun c => c.head? == some k).flatMap List.tail
    cols ++ [((own ++ kids).eraseDups).mergeSort]) []

/-- What SOLVER_INFO reports of a factorisation (R465, R498). -/
structure Symbolic where
  lnnz : Nat
  phi : Nat
  h : Nat
  s : Nat
  deriving DecidableEq, Repr

/-- Supernodes: maximal runs of at most 64 columns, each the parent of the one before with one entry fewer. -/
def supernodes : List (List Nat) → Nat → Nat → Nat
  | [], _, _ => 0
  | [_], _, _ => 1
  | c :: d :: r, k, len =>
    if c.head? = some (k + 1) ∧ d.length + 1 = c.length ∧ len < 64 then supernodes (d :: r) (k + 1) (len + 1)
    else 1 + supernodes (d :: r) (k + 1) 1

def symbolicOf (cols : List (List Nat)) : Symbolic :=
  let depth := cols.zipIdx.reverse.foldl (fun (t : Tbl Nat) c =>
    t.put c.2 (1 + match c.1.head? with
      | some p => t.getD p 0
      | none => 0)) []
  { lnnz := (cols.map (·.length)).foldl (· + ·) 0
    phi := (cols.map fun c => c.length * (c.length + 1)).foldl (· + ·) 0
    h := (depth.map (·.2)).foldl max 0
    s := supernodes cols 0 1 }

def SStruct.symbolic (x : Image) : Symbolic := symbolicOf (SStruct.columns x)

/-- C_I of R498. -/
def iterationCycles (x : Image) (y : Symbolic) (refine : Bool) : Nat :=
  let n := SStruct.n x
  let m := SStruct.m x
  let k := SStruct.kktNnz x
  let solve := ceilDiv (2 * y.lnnz + n + m) 64 + 4 * y.h
  let cs := if refine then solve + ceilDiv k 16 + 64 + solve else solve
  (ceilDiv k 64 + 100) + (ceilDiv y.phi 256 + 14 * y.h + 48 * y.s) + 2 * cs + 2 * (ceilDiv (n + 4 * m) 16 + 100)
    + (ceilDiv (2 * SStruct.nnzP x + 2 * SStruct.nnzA x + n + m) 32 + 200)

/-! ### Iterates (R478, R479, R485 to R488) -/

/-- The bounds of row `i`: whether each side is present. -/
def hasLow (vals : List (List F32)) (i : Nat) : Bool := F32.isFinite (nth (nth vals 3 []) i 0)
def hasHigh (vals : List (List F32)) (i : Nat) : Bool := F32.isFinite (nth (nth vals 4 []) i 0)

/-- An array over the rows of one side, +0 where the side is absent. -/
def sideArray (vals : List (List F32)) (low : Bool) (f : Nat → F32) : List F32 :=
  (List.range (nth vals 3 []).length).map fun i => if (if low then hasLow vals i else hasHigh vals i) then f i else 0

def Iterate.raw (x : Iterate) : List F32 := x.x ++ x.sl ++ x.su ++ x.ll ++ x.lu

/-- An iterate from its arrays, its residuals still open. -/
def Iterate.ofArrays (x sl su ll lu : List F32) : Iterate :=
  { x, sl, su, ll, lu, rPrim := 0, rDual := 0, mu := 0, rho := 0 }

/-- R485. -/
def coldIterate (n : Nat) (vals : List (List F32)) : Iterate :=
  let one (low : Bool) : List F32 := sideArray vals low fun _ => f32One
  Iterate.ofArrays (List.replicate n 0) (one true) (one false) (one true) (one false)

/-- 10⁻⁴ in FP32. -/
def f32WarmFloor : F32 := 0x38D1B717

/-- The arrays of a result record (R495). -/
def recArray (rec' : Bytes) (start n : Nat) : List F32 :=
  (List.range n).map fun i => BitVec.ofNat 32 (imageAt rec' (64 + 4 * (start + i)) 4)

/-- The warm start from a source (R486, R488): none when it is rejected. -/
def warmIterate (st : Image) (vals : List (List F32)) (src : Bytes) : Option Iterate :=
  let n := SStruct.n st
  let m := SStruct.m st
  let h := imageAt src 0 64
  let arr (k : Nat) : List F32 := recArray src (n + m + k * m) m
  let x := recArray src 0 n
  let all := x ++ arr 0 ++ arr 1 ++ arr 2 ++ arr 3
  if ResRec.sig h ≠ SStruct.signature st ∨ ResRec.n h ≠ n ∨ ResRec.m h ≠ m ∨ all.any fun v => !F32.isFinite v then none
  else
    let lift (low : Bool) (k : Nat) : List F32 := sideArray vals low fun i =>
      let v := nth (arr k) i 0
      if F32.lt v f32WarmFloor then f32WarmFloor else v
    some (Iterate.ofArrays x (lift true 0) (lift false 1) (lift true 2) (lift false 3))

/-- Whether row `i` has both bounds infinite (R456). -/
def inactive (vals : List (List F32)) (i : Nat) : Bool := !hasLow vals i && !hasHigh vals i

/-- The scale factors of R484, column by column of [[P, Aᵀ], [A, 0]]. -/
def scaleFactors (st : Image) (vals : List (List F32)) : List F32 :=
  let n := SStruct.n st
  let pe := (cscEntries (SStruct.array st 0) (SStruct.array st 1)).zip (nth vals 0 [])
  let ae := ((cscEntries (SStruct.array st 2) (SStruct.array st 3)).zip (nth vals 2 [])).filter fun e =>
    !inactive vals e.1.1
  let mag (v : F32) : F32 := v &&& 0x7FFFFFFF
  (List.range (n + SStruct.m st)).map fun j =>
    let vs := (pe.filter fun e => e.1.1 == j || e.1.2 == j).map (·.2)
      ++ (ae.filter fun e => n + e.1.1 == j || e.1.2 == j).map (·.2)
    let big := (vs.map mag).foldl F32.max 0
    if F32.isZero big then f32One else F32.div f32One (F32.sqrt big)

/-- The number of finite bounds (R479). -/
def finiteBounds (vals : List (List F32)) : Nat :=
  ((nth vals 3 [] ++ nth vals 4 []).filter F32.isFinite).length

/-- The combined multipliers y (R478). -/
def Iterate.y (x : Iterate) : List F32 := List.zipWith F32.sub x.lu x.ll

/-- R490, R491: a value of the iterate or of its residuals is not finite. -/
def Iterate.broken (x : Iterate) : Bool :=
  (x.raw ++ x.y ++ [x.rPrim, x.rDual, x.mu]).any fun v => !F32.isFinite v

/-! ### Residuals (R479, R495) -/

/-- A value at the position of each stored entry: (row, column, value) of P's lower triangle, and of A's active rows (R456). -/
def pEntries (st : Image) (vals : List (List F32)) : List (Nat × Nat × F32) :=
  ((cscEntries (SStruct.array st 0) (SStruct.array st 1)).zip (nth vals 0 [])).map fun e => (e.1.1, e.1.2, e.2)

def aEntries (st : Image) (vals : List (List F32)) : List (Nat × Nat × F32) :=
  (((cscEntries (SStruct.array st 2) (SStruct.array st 3)).zip (nth vals 2 [])).map fun e => (e.1.1, e.1.2, e.2)).filter
    fun e => !inactive vals e.1

/-- A sum of products over entries that `f` gives for place `i`, in their order. -/
def gather (es : List (Nat × Nat × F32)) (f : Nat × Nat × F32 → Option F32) : F32 :=
  es.foldl (fun s e => match f e with
    | some v => F32.add s (F32.mul e.2.2 v)
    | none => s) 0

/-- (Px)_j over the lower triangle (R455). -/
def timesP (ps : List (Nat × Nat × F32)) (x : List F32) (j : Nat) : F32 :=
  gather ps fun e => if e.1 = j then some (nth x e.2.1 0) else if e.2.1 = j then some (nth x e.1 0) else none

/-- (Ax)_i. -/
def timesA (as : List (Nat × Nat × F32)) (x : List F32) (i : Nat) : F32 :=
  gather as fun e => if e.1 = i then some (nth x e.2.1 0) else none

/-- (Aᵀy)_j. -/
def timesAT (as : List (Nat × Nat × F32)) (y : List F32) (j : Nat) : F32 :=
  gather as fun e => if e.2.1 = j then some (nth y e.1 0) else none

/-- Σ s·λ over the finite bounds ÷ B (R479). -/
def gapOf (vals : List (List F32)) (sl su ll lu : List F32) : F32 :=
  if finiteBounds vals = 0 then 0
  else F32.div (F32.add (F32.dot sl ll) (F32.dot su lu)) (F32.ofInt (finiteBounds vals))

/-- Residuals and ρ of an iterate of the unscaled problem (R479). -/
def Iterate.complete (desc st : Image) (vals : List (List F32)) (x : Iterate) : Iterate :=
  let as := aEntries st vals
  let ps := pEntries st vals
  let rPrim := (List.range (SStruct.m st)).foldl (fun m i =>
    if inactive vals i then m else
    let ax := timesA as x.x i
    let l := nth (nth vals 3 []) i 0
    let u := nth (nth vals 4 []) i 0
    F32.max m (F32.max (F32.sub l ax) (F32.sub ax u))) 0
  let rDual := (List.range (SStruct.n st)).foldl (fun m j =>
    let v := F32.add (F32.add (timesP ps x.x j) (nth (nth vals 1 []) j 0)) (timesAT as x.y j)
    F32.max m (if F32.lt v 0 then F32.neg v else v)) 0
  let mu := gapOf vals x.sl x.su x.ll x.lu
  { x with rPrim, rDual, mu
           rho := F32.max (F32.max (F32.div rPrim (SDesc.tolP desc)) (F32.div rDual (SDesc.tolD desc)))
             (F32.div mu (SDesc.tolGap desc)) }

/-- OBJECTIVE: ½xᵀPx + qᵀx (R495). -/
def objectiveOf (st : Image) (vals : List (List F32)) (x : List F32) : F32 :=
  let px := (List.range (SStruct.n st)).map (timesP (pEntries st vals) x)
  F32.add (F32.mul 0x3F000000 (F32.dot x px)) (F32.dot (nth vals 1 []) x)

/-! ### Equilibration (R484) -/

/-- The problem's values scaled by the factors of R484; empty factors scale nothing. -/
def scaleValues (st : Image) (scale : List F32) (vals : List (List F32)) : List (List F32) :=
  if scale.isEmpty then vals else
  let n := SStruct.n st
  let d (k : Nat) : F32 := nth scale k f32One
  let both (es : List (Nat × Nat)) (off : Nat) (vs : List F32) : List F32 :=
    (es.zip vs).map fun e => F32.mul (F32.mul e.2 (d (off + e.1.1))) (d e.1.2)
  let rows (off : Nat) (vs : List F32) : List F32 := vs.zipIdx.map fun v => F32.mul v.1 (d (off + v.2))
  [both (cscEntries (SStruct.array st 0) (SStruct.array st 1)) 0 (nth vals 0 []), rows 0 (nth vals 1 []),
   both (cscEntries (SStruct.array st 2) (SStruct.array st 3)) n (nth vals 2 []), rows n (nth vals 3 []), rows n (nth vals 4 [])]

/-- An iterate in the scaled problem, or back out of it. -/
def Iterate.rescale (scale : List F32) (back : Bool) (x : Iterate) : Iterate :=
  if scale.isEmpty then x else
  let up (off : Nat) (vs : List F32) : List F32 := vs.zipIdx.map fun v => F32.mul v.1 (nth scale (off + v.2) f32One)
  let down (off : Nat) (vs : List F32) : List F32 := vs.zipIdx.map fun v => F32.div v.1 (nth scale (off + v.2) f32One)
  let n := x.x.length
  let (primal, slack, mult) := if back then (up, down, up) else (down, up, down)
  Iterate.ofArrays (primal 0 x.x) (slack n x.sl) (slack n x.su) (mult n x.ll) (mult n x.lu)

/-! ### The KKT system (R456, R460, R480 to R483) -/

/-- W of a row that is not inactive (R480). -/
def Iterate.weight (vals : List (List F32)) (x : Iterate) (i : Nat) : F32 :=
  let l := nth (nth vals 3 []) i 0
  let u := nth (nth vals 4 []) i 0
  if F32.le l u && F32.le u l then 0
  else
    let part (s m : List F32) : F32 := F32.div (nth m i 0) (nth s i 0)
    F32.div f32One (match hasLow vals i, hasHigh vals i with
      | true, true => F32.add (part x.sl x.ll) (part x.su x.lu)
      | true, false => part x.sl x.ll
      | _, _ => part x.su x.lu)

/-- The assembled K by its stored lower triangle: (row, column, value) (R460). -/
def Iterate.kkt (st : Image) (vals : List (List F32)) (x : Iterate) : List (Nat × Nat × F32) :=
  let n := SStruct.n st
  pEntries st vals ++ (aEntries st vals).map (fun e => (n + e.1, e.2.1, e.2.2))
    ++ (List.range (SStruct.m st)).map fun i =>
      (n + i, n + i, F32.neg (if inactive vals i then f32One else x.weight vals i))

/-- A column of the factors: d, 1 ÷ d and the entries of L below the diagonal. -/
structure FactorCol where
  d : F32
  recip : F32
  below : List (Nat × F32)
  deriving DecidableEq, Repr

def FactorCol.at (c : FactorCol) (i : Nat) : Option F32 := (c.below.find? fun e => e.1 == i).map (·.2)

/-- K = LDLᵀ column by column in elimination order, without pivoting or any check (R481, R482): from K by elimination places. -/
def factorise (cols : List (List Nat)) (k : Nat → Nat → F32) : List FactorCol :=
  cols.zipIdx.foldl (fun (fs : List FactorCol) c =>
    let j := c.2
    let reduced (i : Nat) : F32 := fs.foldl (fun a f => match f.at i, f.at j with
      | some p, some q => F32.sub a (F32.mul (F32.mul p f.d) q)
      | _, _ => a) (k i j)
    let d := reduced j
    let recip := F32.div f32One d
    fs ++ [{ d, recip, below := c.1.map fun i => (i, F32.mul (reduced i) recip) }]) []

/-- Solves LDLᵀ v = b, in elimination places. -/
def backSolve (fs : List FactorCol) (b : List F32) : List F32 :=
  let y := fs.zipIdx.foldl (fun (b : List F32) f =>
    f.1.below.foldl (fun b e => setAt b e.1 (F32.sub (nth b e.1 0) (F32.mul e.2 (nth b f.2 0)))) b) b
  let z := (y.zip fs).map fun e => F32.mul e.1 e.2.recip
  fs.zipIdx.reverse.foldl (fun (v : List F32) f =>
    f.1.below.foldl (fun v e => setAt v f.2 (F32.sub (nth v f.2 0) (F32.mul e.2 (nth v e.1 0)))) v) z

/-- K·v. -/
def timesK (ks : List (Nat × Nat × F32)) (v : List F32) (j : Nat) : F32 :=
  gather ks fun e => if e.1 = j then some (nth v e.2.1 0) else if e.2.1 = j then some (nth v e.1 0) else none

/-- A KKT solve, refined once with REFINE (R480, R483). -/
def kktSolve (ord : List Nat) (ks : List (Nat × Nat × F32)) (fs : List FactorCol) (refine : Bool) (b : List F32) : List F32 :=
  let solve (b : List F32) : List F32 :=
    let v := backSolve fs (ord.map fun c => nth b c 0)
    (List.range b.length).map fun c => nth v (ord.idxOf c) 0
  let d := solve b
  if refine then vecAdd d (solve (vecSub b ((List.range b.length).map (timesK ks d)))) else d

/-- The pattern and order of a structure, on which alone the order of operations depends (R66, R480). -/
def SStruct.pattern (x : Image) : List Nat :=
  [SStruct.n x, SStruct.m x] ++ ((List.range 4).flatMap fun k => SStruct.array x k) ++ SStruct.order x

/-- The largest step of at most 1 that keeps every value at or above 0. -/
def boundaryStep (v dv : List F32) : F32 :=
  (v.zip dv).foldl (fun a e => if F32.lt e.2 0 then F32.min a (F32.div e.1 (F32.neg e.2)) else a) f32One

/-- 0.99 in FP32. -/
def f32Step : F32 := 0x3F7D70A4

/-- One iteration (R480): the assembled K and its factors, the predictor, σ, the corrector and the step. Right-hand sides, and what a
solution means for slacks and multipliers, are free. -/
def Iterate.next (desc st : Image) (vals : List (List F32)) (x : Iterate) : Iterate :=
  let n := SStruct.n st
  let m := SStruct.m st
  let ord := SStruct.order st
  let ks := x.kkt st vals
  let place (i j : Nat) : F32 :=
    let a := nth ord i 0
    let b := nth ord j 0
    ((ks.find? fun e => (e.1 == a && e.2.1 == b) || (e.1 == b && e.2.1 == a)).map fun e => e.2.2).getD 0
  let fs := factorise (SStruct.columns st) place
  let args := vals.flatten ++ x.raw
  let free (tag k : Nat) (more : List F32) : List F32 :=
    (List.range k).map fun i => F32.canon (Config.solverNum tag (SStruct.pattern st) (args ++ more) i)
  let solve (b : List F32) : List F32 := kktSolve ord ks fs (SDesc.refine desc) b
  -- a direction: x from the solution, and each existing slack and multiplier
  let direction (tag : Nat) (v : List F32) : List F32 :=
    let o := free tag (4 * m) v
    v.take n ++ ([(0, true), (1, false), (2, true), (3, false)].flatMap fun k => sideArray vals k.2 fun i => nth o (k.1 * m + i) 0)
  let sides := x.raw.drop n
  let aff := direction 1 (solve (free 0 (n + m) []))
  let a := boundaryStep sides (aff.drop n)
  let after := vecAdd sides (vecScale a (aff.drop n))
  let part (k : Nat) : List F32 := cut after (k * m) m
  let mu := gapOf vals x.sl x.su x.ll x.lu
  let ratio := F32.div (gapOf vals (part 0) (part 1) (part 2) (part 3)) mu
  let sigma := if F32.isZero mu then 0 else F32.mul (F32.mul ratio ratio) ratio
  let d := direction 3 (solve (free 2 (n + m) (aff ++ [sigma])))
  let a := F32.min f32One (F32.mul f32Step (boundaryStep sides (d.drop n)))
  let o := vecAdd x.raw (vecScale a d)
  let arr (k : Nat) : List F32 := cut o (n + k * m) m
  Iterate.ofArrays (o.take n) (arr 0) (arr 1) (arr 2) (arr 3)

end Sys2Proof.Machine
end

