-- ==== Sys2Proof/Machine/Solver.lean ====
section
/-!
DEFINITION. The Solvers (R464 to R477, R489 to R500): batches of value changes, solves, what an instance serves, and result records. A
problem's structure, its residuals and its iterations stand in Qp.
-/

namespace Sys2Proof.Machine

/-! ### State of a job -/

def SolverJob.fresh (inst : Nat) (vals : List (List F32)) : SolverJob :=
  { inst, vals, queue := [], nextSlot := 0, results := 0, prev := none, reload := false, reloaded := false, solve := none }

def JobRef.struct (r : JobRef) (desc : Image) : Image := (r.record 0xE (SDesc.structRef desc)).getD 0

def Device.solvJob (d : Device) (j : BitVec 16) : Option SolverJob := d.eng.solv.find j.toNat
def Device.setSolv (d : Device) (j : BitVec 16) (x : SolverJob) : Device :=
  { d with eng := { d.eng with solv := d.eng.solv.put j.toNat x } }

/-- A Solver job with its descriptor, its structure and its state. -/
def Device.solver (d : Device) (j : BitVec 16) : Option (JobRef × Image × Image × SolverJob) :=
  match d.job j, d.solvJob j with
  | some r, some x => if r.engine = engSolver then match r.desc with
    | some desc => some (r, desc, r.struct desc, x)
    | none => none
    else none
  | _, _ => none

/-! ### Batches (R470 to R476) -/

def deltaOf (bs : Bytes) (i : Nat) : Image := imageAt bs (32 + 8 * i) 8

/-- One entry is in range (R473): a status, or the values after it. -/
def applyDelta (vals : List (List F32)) (e : Image) : Except Status (List (List F32)) :=
  let t := Delta.target e
  let v := Delta.value e
  let i := Delta.index e
  if Delta.rsvd e ≠ 0 then .error stReserved
  else if 5 ≤ t ∨ (nth vals t []).length ≤ i then .error stLimit
  else if F32.isNaN v ∨ (t < 3 ∧ !F32.isFinite v) ∨ (t = 3 ∧ v = f32Inf) ∨ (t = 4 ∧ v = f32NegInf) then .error stLimit
  else .ok (setAt vals t (setAt (nth vals t []) i v))

/-- Applies a whole batch or refuses it (R473): reserved fields first. -/
def applyBatch (desc : Image) (vals : List (List F32)) (bs : Bytes) : List (List F32) × Status :=
  let h := imageAt bs 0 32
  let n := DeltaHdr.entries h
  let es := (List.range n).map (deltaOf bs)
  if DeltaHdr.fmtVer h ≠ 1 ∨ !rsvdZero h DeltaHdr.rsvd then (vals, stReserved)
  else if n = 0 ∨ 524288 < n ∨ SDesc.slotKib desc * 1024 < 32 + 8 * n ∨ bs.length < 32 + 8 * n then (vals, stLimit)
  else if es.any fun e => Delta.rsvd e != 0 then (vals, stReserved)
  else
    match es.foldl (fun (v : Except Status (List (List F32))) e => match v with
        | .ok v => applyDelta v e
        | .error s => .error s) (.ok vals) with
    | .error s => (vals, s)
    | .ok v =>
      if (List.zip (nth v 3 []) (nth v 4 [])).any fun b => F32.gt b.1 b.2 then (vals, stLimit) else (v, stOk)

/-- STATUS and SOLVE_SEQ of a processed batch (R476). -/
def Device.answerDelta (d : Device) (r : JobRef) (desc : Image) (b : Batch32) (st : Status) (seq : BitVec 32) : Device :=
  match b.drawer with
  | some n => d.reply n st (natLE (mkImage [(0, 16, st.toNat), (32, 32, seq.toNat)]) 8)
  | none =>
    let a := SDesc.updateRing desc + b.slot * (SDesc.slotKib desc * 1024)
    let d := d.writeViewBytes r.part (a + 2) (natLE st.toNat 2)
    let d := d.writeViewBytes r.part (a + 8) (natLE seq.toNat 4)
    d.engineSignal r.id (SDesc.updateDoneHook desc) 1

/-- Takes one waiting ring signal of a job while its queue has space (R470). -/
def Device.admitDelta (d : Device) (j : BitVec 16) : Device :=
  match d.solver j with
  | none => d
  | some (_, desc, _, x) =>
    if 16 ≤ x.queue.length then d
    else match d.takeHook (.job j) (SDesc.updateHook desc) 1 with
      | (d, true) => d.setSolv j { x with
          queue := x.queue ++ [{ drawer := none, slot := x.nextSlot, bytes := [] }]
          nextSlot := (x.nextSlot + 1) % max 1 (SDesc.slots desc) }
      | (d, false) => d

/-- Takes the waiting ring signals that a job's queue has space for. -/
def Device.admitDeltas (d : Device) (j : BitVec 16) : Device := (List.range 16).foldl (fun (d : Device) _ => d.admitDelta j) d

/-- Processes the batch at the head of a job's queue for the solve `seq` (R473, R475, R476). -/
def Device.applyHead (d : Device) (j : BitVec 16) (seq : BitVec 32) : Device :=
  match d.solver j with
  | none => d
  | some (r, desc, _, x) =>
    match x.queue with
    | [] => d
    | b :: rest =>
      let d := d.setSolv j { x with queue := rest }
      let size := SDesc.slotKib desc * 1024
      let a := SDesc.updateRing desc + b.slot * size
      let (d, bad) := match b.drawer with
        | some _ => (d, false)
        | none => d.hubRead r.part a size
      let bs := match b.drawer with
        | some _ => b.bytes
        | none => d.readView r.part a size
      let (vals, st) := if bad then (x.vals, stUncorrectable) else applyBatch desc x.vals bs
      let d := d.setSolv j { x with queue := rest, vals }
      (d.answerDelta r desc b st (if st = stOk then seq else 0)).admitDeltas j

/-- The SEQ of the job's next solve. -/
def Device.nextSolve (d : Device) (j : BitVec 16) : BitVec 32 := ((d.run j).map (·.nextSeq)).getD 0

/-- A SOLVER_UPDATE's object joins the queue, behind the ring signals that wait for space (R470). -/
def Device.queueDelta (d : Device) (n : Fin 64) (bs : Bytes) : Device :=
  let j := BitVec.ofNat 16 (fld (d.params n) 15 0)
  let d := d.admitDeltas j
  match d.solver j with
  | none => d.fail n stConfig
  | some (_, _, _, x) =>
    if 16 ≤ x.queue.length then d.fail n stOverrun
    else d.setSolv j { x with queue := x.queue ++ [{ drawer := some n, slot := 0, bytes := bs }] }

/-- SOLVER_UPDATE (R470): arms the transfer of its batch. -/
def execSolverUpdate (now : Time) (drawer : Fin 64) (s : State) : Host.Outcome State Fault Refusal :=
  s.drawerCommand now drawer 0x0502 fun d =>
    if (d.solver (BitVec.ofNat 16 (fld (d.params drawer) 15 0))).isNone then d.fail drawer stConfig
    else d.armBulk drawer (fld (d.params drawer) 383 128) 4194336 none

/-- SOLVER_UPDATE_SIGNAL (R470). -/
def execSolverUpdateSignal (now : Time) (job : BitVec 16) (s : State) : Host.Outcome State Fault Refusal :=
  s.onUp now fun d => d.admitDeltas job

/-- SOLVER_BATCH_APPLY (R475): while no solve of the job is running. -/
def execSolverBatchApply (now : Time) (job : BitVec 16) (s : State) : Host.Outcome State Fault Refusal :=
  s.onUp now fun d =>
    match d.solvJob job with
    | some x => if x.solve.isNone then d.applyHead job (d.nextSolve job) else d
    | none => d

/-- SOLVER_INFO (R465, R713). -/
def Device.solverInfo (d : Device) (n : Fin 64) : Device :=
  match d.solver (BitVec.ofNat 16 (fld (d.params n) 15 0)) with
  | none => d.fail n stConfig
  | some (_, desc, x, _) =>
    let y := SStruct.symbolic x
    d.reply n stOk (natLE (mkImage [(0, 64, SStruct.signature x), (64, 32, y.lnnz), (96, 64, y.phi), (160, 16, y.h),
      (176, 16, y.s), (192, 32, SStruct.kktNnz x), (224, 32, iterationCycles x y (SDesc.refine desc))]) 32)

/-- SOLVER_INFO (R713). -/
def execSolverInfo (now : Time) (drawer : Fin 64) (s : State) : Host.Outcome State Fault Refusal :=
  s.drawerCommand now drawer 0x0503 fun d => d.solverInfo drawer

/-! ### A solve (R477, R490 to R496) -/

def Solve.fresh : Solve :=
  { applied := false, iters := 0, cur := none, best := none, cold := false, warmStatus := stOk, scale := [] }

/-- START of a solve (R477, R500): the values are reloaded first where that is due. -/
def Device.startSolve (d : Device) (j : BitVec 16) : Device :=
  match d.solver j with
  | none => d
  | some (_, _, st, x) =>
    let x := if x.reload then { x with vals := SStruct.values st, reload := false, reloaded := true } else x
    d.setSolv j { x with solve := some Solve.fresh }

/-- The result record (R493, R495): the header, X, Y, SL, SU, LL, LU. -/
def resultRecord (desc st : Image) (p : Period) (x : SolverJob) (s : Solve) (status : Status)
    (it : Option (Nat × Iterate)) (cycles : Nat) : Bytes :=
  let n := SStruct.n st
  let m := SStruct.m st
  let inf := f32Inf.toNat
  let v : List Nat := match it with
    | some i => [i.2.rPrim.toNat, i.2.rDual.toNat, i.2.mu.toNat, i.2.rho.toNat,
                 (objectiveOf st x.vals i.2.x).toNat]
    | none => [inf, inf, inf, inf, inf]
  let body : List F32 := match it with
    | some i => i.2.x ++ i.2.y ++ i.2.sl ++ i.2.su ++ i.2.ll ++ i.2.lu
    | none => List.replicate (n + 5 * m) 0
  natLE (mkImage [(0, 4, 1), (4, 1, s.cold.toNat), (5, 1, (SDesc.refine desc).toNat), (6, 1, x.reloaded.toNat),
    (16, 16, status.toNat), (32, 16, s.warmStatus.toNat), (48, 8, s.iters), (56, 8, (it.map (·.1)).getD 0xFF),
    (64, 32, p.seq.toNat), (96, 16, p.epoch.toNat), (128, 64, SStruct.signature st), (192, 32, nth v 0 0),
    (224, 32, nth v 1 0), (256, 32, nth v 2 0), (288, 32, nth v 3 0), (320, 32, nth v 4 0), (352, 16, n), (368, 16, m),
    (384, 32, sat32 cycles)]) 64 ++ body.flatMap fun w => natLE w.toNat 4

/-- Ends a solve: the record is written and made visible, RESULT_HOOK signalled, the record sent, and the view of the
Control Engine renewed (R489, R490, R496, R515). -/
def Device.endSolve (d : Device) (j : BitVec 16) (status : Status) (it : Option (Nat × Iterate)) : Device :=
  match d.solver j, d.openPeriod j with
  | some (r, desc, st, x), some (_, _, p) =>
    match x.solve with
    | none => d
    | some s =>
      let bs := resultRecord desc st p x s status it (elapsedT d.hub p.s)
      let a := ringAt (SDesc.resultRing desc) 4 (64 + 4 * (SStruct.n st + 5 * SStruct.m st)) x.results
      let keep := status ≠ stNonfinite ∧ it.isSome
      let d := d.setSolv j { x with solve := none, results := x.results + 1, reloaded := false
                                    prev := if keep then some bs else x.prev }
      if !d.inView r.part a bs.length then d.withholdStop j stAccess
      else
        let d := d.writeLines r.part a bs
        let view : SolverView := { seq := p.seq, epoch := p.epoch, status, bestIter := (it.map (·.1)).getD 0xFF,
                                   x := match it with
                                     | some i => i.2.x
                                     | none => List.replicate (SStruct.n st) 0 }
        let d := { d with ce := { d.ce with solver := d.ce.solver.put j.toNat view } }
        let d := d.engineSignal j (SDesc.resultHook desc) 1
        let d := if SDesc.outStream desc = 0xFFFF then d else
          d.sendRecord (mkRecord (SDesc.outStream desc) 0x40 p.seq p.epoch false bs)
        d.markDone j status
  | _, _ => d

/-- A solve in progress whose period still works. -/
def Device.solving (d : Device) (j : BitVec 16) : Option (JobRef × Image × Image × SolverJob × Solve × Period) :=
  match d.solver j, d.working j with
  | some (r, desc, st, x), some (_, _, p) => match x.solve with
    | some s => some (r, desc, st, x, s, p)
    | none => none
  | _, _ => none

/-! ### What an instance serves (R497) -/

/-- The solves bound to an instance that are past their application point. -/
def Device.pendingSolves (d : Device) (inst : Nat) : List (JobRef × Period) :=
  d.eng.solv.filterMap fun e =>
    match d.solving (BitVec.ofNat 16 e.1) with
    | some (r, desc, _, _, s, p) => if s.applied && SDesc.inst desc == inst then some (r, p) else none
    | none => none

/-- The solve that an instance chooses at an iteration boundary: the highest class, then the earliest START, then the lowest JOB_ID. -/
def Device.chooseSolve (d : Device) (inst : Nat) : Option (BitVec 16) :=
  ((sortBy (fun (a b : JobRef × Period) => decide (a.1.cls < b.1.cls) || (a.1.cls == b.1.cls &&
    (decide (timeDiff a.2.s b.2.s < 0) || (a.2.s == b.2.s && decide (a.1.id ≤ b.1.id))))) (d.pendingSolves inst)).head?).map (·.1.id)

/-- The solve whose iteration an instance runs; it chooses anew when that solve has gone. -/
def Device.served (d : Device) (inst : Nat) : Option (BitVec 16) :=
  match d.eng.serving.find inst with
  | some j => if (d.pendingSolves inst).any fun e => e.1.id == j then some j else d.chooseSolve inst
  | none => d.chooseSolve inst

/-- Notes which solve an instance runs from now on. -/
def Device.serve (d : Device) (inst : Nat) (j : Option (BitVec 16)) : Device :=
  { d with eng := { d.eng with serving := match j with
      | some j => d.eng.serving.put inst j
      | none => d.eng.serving.del inst } }

/-- The end of a solve's BUDGET (R490, R492). -/
def budgetEnd (desc : Image) (p : Period) : Time := addT p.s (usHub (SDesc.budget desc))

/-- The warm source of a solve (R468, R488): the record's bytes, or why there is none. -/
def Device.warmSource (d : Device) (r : JobRef) (desc st : Image) (x : SolverJob) : Device × Option Bytes × Option Status :=
  let n := 64 + 4 * (SStruct.n st + 5 * SStruct.m st)
  match SDesc.warm desc with
  | 1 => (d, x.prev, none)
  | 2 =>
    if !d.inView r.part (SDesc.warmAddr desc) n then (d, none, some stAccess)
    else
      let (d, bad) := d.hubRead r.part (SDesc.warmAddr desc) n
      if bad then (d, none, some stUncorrectable) else (d, some (d.readView r.part (SDesc.warmAddr desc) n), none)
  | _ => (d, none, none)

/-- Forms iterate 0 (R477 step 4, R484 to R488). -/
def Device.formZero (d : Device) (j : BitVec 16) : Device :=
  match d.solving j with
  | none => d
  | some (r, desc, st, x, s, _) =>
    match d.warmSource r desc st x with
    | (d, _, some e) => d.withholdStop j e
    | (d, src, none) =>
      let cold := coldIterate (SStruct.n st) x.vals
      let (it, isCold, ws) : Iterate × Bool × Status := match src with
        | none => (cold, true, stOk)
        | some b => match warmIterate st x.vals b with
          | some w => (w, false, stOk)
          | none => (cold, true, stWarmRejected)
      let scale := if SDesc.equil desc then scaleFactors st x.vals else []
      d.setSolv j { x with solve := some { s with applied := true, cur := some it, cold := isCold, warmStatus := ws
                                                  scale } }

/-- Applies every batch then queued (R477 step 3), at most 16 (R470). -/
def Device.applyQueued (d : Device) (j : BitVec 16) (seq : BitVec 32) : Nat → Device
  | 0 => d
  | n + 1 => (d.applyHead j seq).applyQueued j seq n

/-- APPLICATION_POINT (R477): once IN_HOOK yields IN_COUNT. -/
def execApplicationPoint (now : Time) (job : BitVec 16) (s : State) : Host.Outcome State Fault Refusal :=
  s.onUp now fun d =>
    match d.solving job with
    | some (_, desc, _, x, v, p) =>
      if v.applied ∨ reached d.hub (budgetEnd desc p) ∨ !d.engineFree (.solver ⟨SDesc.inst desc % 4, Nat.mod_lt _ (by decide)⟩) then d
      else
        let inst := SDesc.inst desc
        let go (d : Device) : Device :=
          let running := d.served inst
          let d := (d.applyQueued job p.seq x.queue.length).formZero job
          d.serve inst (running <|> d.chooseSolve inst)
        if SDesc.inCount desc = 0 then go d
        else match d.takeHook (.job job) (SDesc.inHook desc) (SDesc.inCount desc) with
          | (d, true) => go d
          | (d, false) => d
    | none => d

/-- An iterate completes (R479, R490): the solve ends, or goes on with it. The iterations run on the scaled problem (R484). -/
def Device.iterate (d : Device) (j : BitVec 16) : Device :=
  match d.solving j with
  | none => d
  | some (_, desc, st, x, s, _) =>
    match s.cur with
    | none => d
    | some c =>
      let first := s.best.isNone
      let k := if first then 0 else s.iters + 1
      let inner := if first then c.rescale s.scale false else c.next desc st (scaleValues st s.scale x.vals)
      let it := (if first then c else inner.rescale s.scale true).complete desc st x.vals
      let best := match s.best with
        | some b => if F32.lt it.rho b.2.rho then (k, it) else b
        | none => (k, it)
      let d := d.setSolv j { x with solve := some { s with iters := k, cur := some inner, best := some best } }
      if it.broken then d.endSolve j stNonfinite (some (k, it))
      else if F32.le it.rho f32One then d.endSolve j stOk (some (k, it))
      else if SDesc.maxIter desc ≤ k then d.endSolve j stIterLimit (some best)
      else d

/-- R500: a word of the store with an uncorrectable error ends the solve; the values are to be reloaded. -/
def Device.solverStoreError (d : Device) (j : BitVec 16) (inst : Nat) (x : SolverJob) : Device :=
  let d := d.chipCount (2 + inst) 0 1
  (d.setSolv j { x with solve := none, reload := true }).endWith j stUncorrectable

/-- ITERATION_COMPLETE (R490 to R492, R497, R499, R500): up to the cycle in which BUDGET ends, of the solve that its instance runs;
`finding` is what its reads of the store met. -/
def execIterationComplete (now : Time) (job : BitVec 16) (finding : ScrubFinding) (s : State) :
    Host.Outcome State Fault Refusal :=
  s.onUp now fun d =>
    match d.solving job with
    | some (_, desc, _, x, v, p) =>
      let inst := SDesc.inst desc
      if !v.applied ∨ 0 < timeDiff d.hub (budgetEnd desc p) ∨ d.served inst ≠ some job then d
      else
        let d := match finding with
          | .clean => d.iterate job
          | .corrected => (d.chipCount (2 + inst) 1 0).iterate job
          | .uncorrectable => d.solverStoreError job inst x
        d.serve inst (d.chooseSolve inst)
    | none => d

/-- SOLVE_BUDGET_EXPIRY (R490): the best iterate, or none before iterate 0. -/
def execSolveBudgetExpiry (now : Time) (job : BitVec 16) (s : State) : Host.Outcome State Fault Refusal :=
  s.onUp now fun d =>
    match d.solving job with
    | some (_, desc, _, _, v, p) =>
      if reached d.hub (budgetEnd desc p) then d.endSolve job stSolveBudget v.best else d
    | none => d

end Sys2Proof.Machine
end

