-- ==== Sys2Proof/Machine/Dispatcher.lean ====
section
/-!
DEFINITION. The dispatcher (R540 to R559, R600 to R603): the choice of a variant, the start of a period, pre-emption,
completion, and the commands on jobs and modes.
-/

namespace Sys2Proof.Machine

/-! ### The choice of a variant (R540, R600, R601) -/

/-- Effective power limit in µW (R590). -/
def Governor.pEff (g : Governor) : Int :=
  let p : Int := g.limits.pLimitW * 1000000
  if g.limits.iLimitMa = 0 then p else min p (g.limits.iLimitMa * g.vBatt.toNat : Nat)

/-- P_1ms: the mean of the last 500 estimates, in µW (R600). -/
def Governor.p1ms (g : Governor) : Int := roundDiv (g.history.foldl (· + ·) 0) g.history.length

/-- A job's share of the last millisecond, in µW (R606): nJ over the interval of 2 µs each. -/
def Device.pJob (d : Device) (j : BitVec 16) : Int :=
  let l := d.pow.energy.shares
  let nj := (l.map fun s => ((s.filter fun e => e.1 == j).map (·.2)).foldl (· + ·) 0).foldl (· + ·) 0
  roundDiv (nj * 1000 : Nat) (2 * l.length)

/-- The job's headroom H in µW (R600). -/
def Device.headroom (d : Device) (j : BitVec 16) : Int := d.pow.gov.pEff - d.pow.gov.p1ms + d.pJob j

/-- E_v in units of 1/8 µJ: the mean of the last eight energies of a variant, or the Plan's estimate (R600). -/
def JobRun.energyOf (x : JobRun) (r : JobRef) (v : Nat) : Nat :=
  let es := ((x.energies.filter fun e => e.1 == v).map (·.2)).take 8
  if es.length < 8 then 8 * VarRec.energyUj (JobRec.variant r.image v) else es.foldl (· + ·) 0

/-- The mean of the last eight durations of a job's periods, in µs; 0 where there is none yet. -/
def JobRun.meanDuration (x : JobRun) : Nat := (roundDiv (x.durations.foldl (· + ·) 0) x.durations.length).toNat

/-- The time that stands for a job's period in the budget, in µs (R601, R602). -/
def JobRun.periodFor (x : JobRun) (r : JobRef) : Nat :=
  match JobRec.trigger r.image with
  | 0 => JobRec.periodUs r.image
  | 2 => 10000
  | _ => x.meanDuration

/-- E_v ÷ period is no more than H (R601, R602), E_v in 1/8 µJ, the period in µs and H in µW; a period of which nothing is known
yet asks for nothing. -/
def withinBudget (energy per : Nat) (h : Int) : Bool := per = 0 || decide ((energy * 1000000 : Nat) ≤ 8 * h * per)

/-- The time to the deadline that step 2 of R601 uses, in µs; 0 where nothing is known yet. -/
def JobRun.timeFor (x : JobRun) (r : JobRef) : Nat :=
  if JobRec.trigger r.image = 0 then
    (if JobRec.deadlineUs r.image = 0 then JobRec.periodUs r.image else JobRec.deadlineUs r.image)
  else x.meanDuration

/-- FMAX of the tile that serves an exposed id, in steps of 12.5 MHz (R117). -/
def Device.fmax (d : Device) (t : Nat) : Nat := 72 + (Config.fmaxCode ((d.serving t).getD t)).toNat

/-- The exposed tiles that started TRESTLE jobs of a class name in their variants (R592). -/
def Device.classTiles (d : Device) (c : Nat) : List Nat :=
  ((d.startedJobs.filter fun r => r.engine == engTrestle && r.cls == c).flatMap fun r =>
    (List.range (JobRec.variants r.image)).flatMap fun v => r.tiles v).eraseDups

/-- The class whose floor holds for an exposed tile: the highest of the started jobs that name it; none where no started
job occupies it. -/
def Device.tileClass (d : Device) (t : Nat) : Option Nat := (List.range 4).find? fun c => (d.classTiles c).contains t

/-- R595 is in force for the tiles of a fabric group: for its own die, or for the hub die. -/
def Device.hotGroup (d : Device) (g : Nat) : Bool :=
  [if g < 16 then 0 else 1, 2].any fun k => (nth d.pow.gov.heat k ⟨false, none⟩).emergency

/-- A fabric group of which every sensor is excluded is held at 300 MHz (R726). -/
def Governor.blind (g : Governor) (k : Nat) : Bool :=
  ((List.range 4).map (4 * k + ·)).all fun s => g.excluded.any fun e => e.val == s

/-- Floor of an exposed tile for a class, in steps: raised to the next step, and at most its FMAX (R589). -/
def Device.floorStep (d : Device) (c t : Nat) : Nat :=
  min (d.fmax t) (ceilDiv (2 * nth d.pow.gov.limits.floors c 300) 25)

/-- Cap of an exposed tile in steps of 12.5 MHz (R20, R592, R595, R726): 300 MHz where no started job occupies it; else what the
governor has set, never above its FMAX and never below the floor of its class. A tile that the governor has not yet adjusted runs
at its FMAX (log entry 49). -/
def Device.capOf (d : Device) (t : Nat) : Nat :=
  match d.tileClass t with
  | none => 24
  | some c =>
    if d.hotGroup (groupOf t) || d.pow.gov.blind (groupOf t) then 24
    else min (d.fmax t) (max (d.floorStep c t) (d.pow.gov.caps.getD t (d.fmax t)))

/-- The lowest cap among a variant's tiles. -/
def Device.variantCap (d : Device) (ts : List Nat) : Nat :=
  match ts.map d.capOf with
  | [] => 24
  | a :: r => r.foldl min a

/-- The hottest sensor of a fabric group that is not excluded, in 1/64 °C (R591, R726). -/
def Device.groupTemp (d : Device) (g : Nat) : Option Int :=
  let g' := d.pow.gov
  let ss := ((List.range 4).map (4 * g + ·)).filter fun s => !g'.excluded.any fun e => e.val == s
  (ss.filterMap fun s => g'.sensors[s]?).foldl (fun (m : Option Int) t => match m with
    | none => some t
    | some u => some (max u t)) none

/-- The variants that name no fenced tile without a serving spare (R128, R540). -/
def Device.allowedVariants (d : Device) (r : JobRef) : List Nat :=
  (List.range (JobRec.variants r.image)).filter fun v => (r.tiles v).all fun t => (d.serving t).isSome

/-- A job's next instant, when it is a PERIODIC job of the dispatcher that has started. -/
def Device.nextDue (d : Device) (r : JobRef) : Option Time :=
  match d.run r.id with
  | some x =>
    if !x.started ∨ x.stopping ∨ x.barred ∨ JobRec.trigger r.image ≠ 0 ∨ r.engine = engFusion ∨ r.engine = engControl
    then none
    else if JobRec.lockEn r.image then x.gen.due
    else some (if x.gen.first then x.gen.last else addT x.gen.last (usHub (JobRec.periodUs r.image)))
  | none => none

/-- A period of a job of another class is due to use some of the tiles before `T` µs after `s` (R601 step 1). -/
def Device.claimed (d : Device) (r : JobRef) (s : Time) (t : Nat) (ts : List Nat) : Bool :=
  d.activeJobs.any fun q =>
    q.cls != r.cls && q.engine == engTrestle &&
      ((List.range (JobRec.variants q.image)).any fun v => (q.tiles v).any ts.contains) &&
      ((match d.run q.id with
        | some x => x.period.isSome && x.phase != .saved
        | none => false) ||
       (match d.nextDue q with
        | some e => decide (timeDiff e s < usHub t)
        | none => false))

/-- Keeps the elements of `l` that `p` admits, or all of them when it admits none. -/
def keepIfAny {α : Type} (l : List α) (p : α → Bool) : List α := if (l.filter p).isEmpty then l else l.filter p

/-- The least element by `le`, the first on a tie. -/
def leastBy {α : Type} (le : α → α → Bool) : List α → Option α
  | [] => none
  | a :: r => match leastBy le r with
    | none => some a
    | some b => if le a b then some a else some b

/-- The variant chosen for a period that starts at `s` (R601). -/
def Device.chooseVariant (d : Device) (r : JobRef) (x : JobRun) (s : Time) : Option Nat :=
  let time := x.timeFor r
  let vs := keepIfAny (d.allowedVariants r) fun v => !d.claimed r s time (r.tiles v)
  let cyc (v : Nat) : Nat := VarRec.cycles (JobRec.variant r.image v)
  let cap (v : Nat) : Nat := d.variantCap (r.tiles v)
  let fits := vs.filter fun v => time = 0 || cyc v * 800 ≤ 9 * time * 1000 * cap v
  let vs := if fits.isEmpty then (leastBy (fun a b => decide (cyc a * cap b ≤ cyc b * cap a)) vs).toList else fits
  let hot (v : Nat) : Bool := (r.tiles v).any fun t => match d.groupTemp (groupOf t) with
    | some c => decide ((64 * (d.pow.gov.limits.tjTarget - d.pow.gov.limits.margin) : Nat) ≤ c)
    | none => false
  let vs := keepIfAny vs fun v => !hot v
  let h := d.headroom r.id
  let per := x.periodFor r
  leastBy (fun a b => decide (x.energyOf r a ≤ x.energyOf r b))
    (keepIfAny vs fun v => withinBudget (x.energyOf r v) per h)

/-! ### Tiles of a period (R191, R545, R547) -/

/-- The start word (R547). -/
def startWordOf (x : JobRun) (p : Period) (u : Option KvRun) : Nat :=
  mkImage [(0, 32, p.seq.toNat), (32, 16, x.prevStatus.toNat), (48, 1, x.inputsRestarted.toNat),
    (64, 16, p.epoch.toNat), (80, 2, p.variant), (82, 3, (u.map (·.bucket)).getD 0), (85, 8, (u.map (·.batch)).getD 0),
    (93, 9, (u.map (·.rows.length)).getD 0)]

/-- A segment as it stands in memory (R162): 64 commands. A command that holds a poisoned byte, of the offsets `bad`, is none. -/
def Segment.ofBytes (c : CodeImage) (k : Nat) (bs : Bytes) (bad : List Nat) : Segment :=
  { image := c, number := k
    words := (List.range 64).map fun i =>
      if bad.any fun a => a / 16 == i then none else some (BitVec.ofNat 128 (leNat ((bs.drop (16 * i)).take 16))) }

/-- Where the commands of a program set's tiles stand in memory: from IMAGE_BASE, in entry order, each in whole segments
(R738). -/
def codeBases (part : Nat) : Nat → List ProgTile → List (Nat × CodeImage)
  | _, [] => []
  | a, t :: r =>
    let n := ceilDiv t.commands.length 64
    (t.tile, { part, base := a, segments := n }) :: codeBases part (a + 1024 * n) r

/-- The program image of a tile id in a variant (R738). -/
def JobRef.codeImage (r : JobRef) (v id : Nat) : Option CodeImage :=
  let ref := VarRec.programRef (JobRec.variant r.image v)
  match (planRecords r.plan.bytes 3)[ref]? with
  | none => none
  | some (_, b) => ((codeBases r.part (ProgSet.imageBase (imageAt b 0 32)) (progTiles r.plan.bytes ref)).find? fun e =>
      e.1 == id).map (·.2)

/-- The program image that a tile's buffer is filled from before its first START: that of the first active job and its first
variant that name the id. -/
def Device.codeOf (d : Device) (id : Nat) : Option CodeImage :=
  d.activeJobs.findSome? fun r => if r.engine = engTrestle then
    (List.range (JobRec.variants r.image)).findSome? fun v => r.codeImage v id else none

/-- The Bureau reads a segment of a program image. -/
def Device.readSegment (d : Device) (c : CodeImage) (k : Nat) : Segment :=
  let a := c.base + 1024 * k
  Segment.ofBytes c k (d.readView c.part a 1024)
    ((List.range 64).filterMap fun i => if d.viewBad c.part (a + 16 * i) 16 then some (16 * i) else none)

/-- The Bureau fills a tile's command buffer from command 0 (R162). -/
def Device.fillBuffer (d : Device) (s : Nat) (c : Option CodeImage) : Device :=
  let x := d.tile s
  let segs := match c with
    | some c => (List.range (min 8 c.segments)).map (d.readSegment c)
    | none => []
  d.setTile s { t := { x.t with program := c }, r := { x.r with segments := segs } }

/-- Before a period, the halo Hooks of the job are set (R191). -/
def Device.setHalos (d : Device) (r : JobRef) : Device :=
  (planImages r.plan.bytes 7).foldl (fun d h =>
    if HaloRec.jobId h = r.id.toNat then (d.initHook (HaloRec.dataHook h) 0).initHook (HaloRec.creditHook h) (HaloRec.h h)
    else d) d

/-- The physical tiles that serve a variant. -/
def Device.variantTiles (d : Device) (r : JobRef) (v : Nat) : List (Fin 4160) :=
  (r.tiles v).filterMap fun t => (d.serving t).bind finTile

/-- A tile is free for a job: nobody's period occupies it. -/
def Device.tileFree (d : Device) (t : Fin 4160) : Bool :=
  (d.tile t).t.job.isNone && (d.tile t).t.phase == .idle && !d.inSlice (.tile t)

/-- The fabric groups of a job's tiles, and the domain of its engine, are needed (R579). -/
def Device.needJob (d : Device) (r : JobRef) : Device :=
  match r.engine with
  | 0 => (((List.range (JobRec.variants r.image)).flatMap fun v => (r.tiles v).map groupOf).eraseDups).foldl Device.needDom d
  | 1 => d.needDom 0x3B
  | 2 => d.needDom 0x3B
  | 4 => match r.desc with
    | some x => d.needDom (0x30 + SDesc.inst x)
    | none => d
  | 5 => (d.jobSlots r.id).foldl (fun d c =>
      let d := d.needDom (if CeDesc.slot c < 128 then 0x36 else 0x37)
      if r.cls = 0 then d.needDom 0x37 else d) d
  | _ => d

/-- The Bureau sends START to the tiles of the chosen variant (R545); they accept it in the row START. R191 sets the halo Hooks
before any tile of the job starts a period; where a period runs its tiles several times, a run for each batch of a step, they
are set again before every run (DESIGN CHOICE, log entry 45). -/
def Device.sendStarts (d : Device) (r : JobRef) (x : JobRun) (p : Period) : Device :=
  let j := r.id
  let ts := d.variantTiles r p.variant
  let w := startWordOf x p (d.kvRun j)
  let d := (d.setHalos r).needJob r
  let d := ts.foldl (fun d t =>
    let y := d.tile t
    d.setTile t { y with t := { y.t with
      phase := .starting, job := some j, startWord := w, program := y.t.serves.bind fun id => r.codeImage p.variant id.val } }) d
  d.setRun j { x with phase := .running, inputsRestarted := false, period := some { p with left := ts } }

/-! ### Pre-emption (R554 to R558) -/

/-- A tile stops for a save (R555): transfers and waits that have not finished are marked to run again whole. -/
def TileState.beginSave (x : TileState) : TileState :=
  let back (unit : Nat) (cs : List QEntry) (qs : List (List QEntry)) : List (List QEntry) :=
    setAt qs unit (cs ++ nth qs unit [])
  let qs := back 2 (x.r.sends.map (·.cmd)) x.t.queues
  let qs := back 3 (x.r.dmas.map (·.cmd)) qs
  { t := { x.t with phase := .saving, queues := qs }
    r := { x.r with sends := [], dmas := [],
                    waits := x.r.waits.map fun w => if w.released then w else { w with sent := false } } }

/-- The dispatcher begins to save a running BACKGROUND period of the fabric (R554, R555). -/
def Device.beginSave (d : Device) (j : BitVec 16) : Device :=
  match d.openPeriod j with
  | none => d
  | some (r, x, p) =>
    if r.background ∧ r.engine = engTrestle ∧ x.phase = .running ∧ p.cause.isNone ∧ p.done.isNone then
      let ts := p.left
      let d := ts.foldl (fun d t =>
        let y := d.tile t
        { d.setTile t y.beginSave with hooks := d.hooks.forgetWaits (.tile t) }) d
      d.setRun j { x with phase := .saving, stopWait := ts }
    else d

/-- The saved contexts of a job are discarded (R558). -/
def Device.dropSaved (d : Device) (j : BitVec 16) : Device :=
  { d with saved := d.saved.filter fun e => e.1 / 8192 != j.toNat }

/-- BACKGROUND periods that occupy some of the tiles begin their saves (R554). -/
def Device.preemptFor (d : Device) (ts : List (Fin 4160)) : Device :=
  let js := (ts.filterMap fun (t : Fin 4160) => (d.tile t).t.job).eraseDups
  js.foldl (fun d j => match d.job j with
    | some r => if r.background then d.beginSave j else d
    | none => d) d

/-! ### Starting a period -/

/-- The run of a step that comes next is chosen: its bucket's variant (R232). -/
def Device.runVariant (d : Device) (r : JobRef) (v : Nat) : Nat :=
  match d.kvRun r.id with
  | some u => r.bucketVariant u.bucket
  | none => v

/-- The Bureau makes the step of a waiting period once no other running period is bound to a stream that the step names (R223,
R231). A step whose every sample was removed runs nothing and is complete (R234, R235). -/
def Device.takeStep (d : Device) (r : JobRef) (p : Period) : Device :=
  match r.pool, d.kvStep r.id with
  | some pool, none =>
    if !d.stepFree r pool p.seq then d else
    let d := d.buildStep r pool p.seq
    let (gone, none_) := match d.kvStep r.id with
      | some s => (s.removed.length, s.runs.isEmpty)
      | none => (0, false)
    let v := d.runVariant r p.variant
    let d := d.modPeriod r.id fun p => { p with removed := gone, variant := v }
    if none_ then
      (match d.run r.id with
       | some y => d.setRun r.id { y with phase := .running }
       | none => d).markDone r.id stOk
    else d
  | _, _ => d

/-- Whether the units of a period may start: its step is made, its chunks hold their slots (R245) and its tiles are free. -/
def Device.startReady (d : Device) (r : JobRef) (p : Period) : Bool :=
  (r.pool.isNone || (d.kvStep r.id).isSome) && d.chunksReady r p.seq && (d.variantTiles r p.variant).all d.tileFree

/-- The status that ends a period whose chunks have all left their slots: that of a chunk that was removed (R250), ST_CANCELLED
where all were withdrawn (DESIGN CHOICE, log entry 45). -/
def Device.goneStatus (d : Device) (r : JobRef) (seq : BitVec 32) : Status :=
  (r.slots.findSome? fun k => ((d.stSlot k).removed.find? fun e => e.1 == seq).map (·.2)).getD stCancelled

/-- Goes on with a period that waits for its step, its slots or its tiles (R223, R245, R247, R557). -/
def Device.settleStart (d : Device) (r : JobRef) : Device :=
  match d.openPeriod r.id with
  | some (_, x, p) =>
    if x.phase = .waiting ∧ p.cause.isNone then
      if d.chunksGone r p.seq then d.endWith r.id (d.goneStatus r p.seq)
      else
        let d := d.takeStep r p
        match d.openPeriod r.id with
        | some (_, x, p) =>
          if x.phase ≠ .waiting then d
          else if d.startReady r p then d.sendStarts r x p
          else if r.background then d else d.preemptFor (d.variantTiles r p.variant)
        | none => d
    else d
  | none => d

/-- Starts the tiles of periods that waited for steps, slots, tiles or a clean-up. -/
def Device.settleStarts (d : Device) : Device := d.activeJobs.foldl Device.settleStart d

/-- The tiles of a period start: at once, or run by run where the job takes steps; chunks go to their slots (R228, R231, R244). -/
def Device.launchTiles (d : Device) (r : JobRef) (p : Period) : Device :=
  ((d.queueChunks r p.seq).syncChunks r).settleStarts

/-- The engine of a job takes up the period that has begun (R537). -/
def Device.launch (d : Device) (r : JobRef) (p : Period) : Device :=
  match r.engine with
  | 0 => d.launchTiles r p
  | 3 => (d.needDom 0x34).startPlanners
  | 4 => (d.needJob r).startSolve r.id
  | _ => d.needJob r

/-- A period starts at S (R542 to R547): it is counted, its epoch is latched, its units are started. -/
def Device.startPeriod (d : Device) (r : JobRef) (x : JobRun) (s : Time) : Device :=
  let j := r.id
  match (if r.engine = engTrestle then d.chooseVariant r x s else some 0) with
  | none =>
    -- R128: no variant of the job can run
    let d := d.count (clientOf r) 3 1
    d.setRun j { x with barred := true, prevStatus := stTileFenced, gen := { x.gen with last := s, first := false, due := none } }
  | some v =>
    let p : Period := { s, seq := x.nextSeq, variant := v, epoch := (d.part r.part).epoch, left := [], cause := none,
                        nonfinite := false, preempted := false, energyNj := 0, adapterGen := d.adapterGen r, removed := 0,
                        done := none }
    let x := { x with
      phase := if r.engine = engTrestle then RunPhase.waiting else RunPhase.running
      period := some p, nextSeq := x.nextSeq + 1
      gen := { x.gen with last := s, first := false, due := none } }
    let d := (d.setRun j x).count (clientOf r) 0 1
    let d := if d.monitored (.job j) then d.token (.start (.job j) d.hub) else d
    let d := d.ackJob j
    let d := d.finishModes
    d.launch r p

/-- A job may start a period now. -/
def JobRun.idle (x : JobRun) : Bool :=
  x.started && !x.stopping && !x.barred && x.period.isNone && x.phase == .idle

/-- The deadline of an open period has been reached without its completion (R550). -/
def Device.isLate (d : Device) (r : JobRef) (p : Period) : Bool :=
  match r.deadline p, p.done with
  | some e, none => p.cause.isNone && reached d.hub e
  | some e, some (_, t) => p.cause.isNone && decide (0 < timeDiff t e)
  | none, _ => false

/-- A late period is cancelled with ST_LATE, and its job made clean as far as its tiles have stopped (R550, R551). -/
def Device.lateEnd (d : Device) (j : BitVec 16) : Device :=
  match d.openPeriod j with
  | some (r, _, p) =>
    if d.isLate r p then
      -- the instant of the cancellation is the deadline's cycle
      let d := d.cancelPeriod j stLate
      let d := match r.deadline p with
        | some e => d.modPeriod j fun q => { q with cause := some (stLate, e) }
        | none => d
      (((d.dropSaved j).cleanUp j).startPlanners).settleStarts
    else d
  | none => d

/-- DEADLINE_EXPIRY (R550). -/
def execDeadlineExpiry (now : Time) (job : BitVec 16) (s : State) : Host.Outcome State Fault Refusal :=
  s.onUp now fun d => d.lateEnd job

/-- A period that is due is not started (R568, R574, R593): the generator goes on. -/
def Device.dropDue (d : Device) (r : JobRef) (x : JobRun) (s : Time) : Device :=
  (d.setRun r.id { x with gen := { x.gen with last := s, first := false, due := none } }).count (clientOf r) 3 1

/-- A PERIODIC period falls due at S (R542, R543, R553): what is late ends first. -/
def Device.periodicDue (d : Device) (r : JobRef) (s : Time) : Device :=
  let d := d.lateEnd r.id
  match d.run r.id with
  | none => d
  | some x =>
    if d.inBoundary r.part then d.dropDue r x s
    else if r.background then
      if d.pow.gov.barred ∨ !x.idle then d.dropDue r x s
      else d.setRun r.id { x with phase := .waiting, waitS := some s, gen := { x.gen with last := s, first := false, due := none } }
    else if x.idle then d.startPeriod r x s
    else d

/-- PERIODIC_PERIOD_START (R542). A job that waits for its grant is not due again until the grant or the next instant. -/
def execPeriodicPeriodStart (now : Time) (job : BitVec 16) (s : State) : Host.Outcome State Fault Refusal :=
  s.onUp now fun d =>
    match d.job job with
    | none => d
    | some r => match d.nextDue r with
      | some t => if reached d.hub t then d.periodicDue r t else d
      | none => d

/-- A unit of the job is in a test slice: a grant waits until it ends (R676). A HOOK trigger starts its period, whose work waits
for the unit against its deadline. -/
def Device.unitInSlice (d : Device) (r : JobRef) : Bool :=
  match r.engine with
  | 1 => d.inSlice (.engine .fusion)
  | 3 => d.inSlice (.engine (.planner 0)) && d.inSlice (.engine (.planner 1))
  | 4 => match r.desc with
    | some x => d.inSlice (.engine (.solver ⟨SDesc.inst x % 4, Nat.mod_lt _ (by decide)⟩))
    | none => false
  | _ => false

/-- HOOK_TRIGGERED_START (R542, R544): the whole count is taken, and all but one unit of it dropped. -/
def Device.hookStart (d : Device) (r : JobRef) : Device :=
  match d.run r.id with
  | none => d
  | some x =>
    let h := JobRec.triggerHook r.image
    let k := (d.hook h).count
    if !x.idle ∨ k = 0 ∨ JobRec.trigger r.image ≠ 1 then d
    else
      let take (d : Device) : Device := d.setHook h { d.hook h with count := 0 }
      if d.inBoundary r.part then (take d).count (clientOf r) 3 k
      else if r.background then d.setRun r.id { x with phase := .waiting }
      else ((take d).count (clientOf r) 3 (k - 1)).startPeriod r x d.hub

/-- HOOK_TRIGGERED_START (R544); a unit that the job does not take yet holds a chunk of each of its slots (R245). -/
def execHookTriggeredStart (now : Time) (job : BitVec 16) (s : State) : Host.Outcome State Fault Refusal :=
  s.onUp now fun d =>
    match d.job job with
    | some r => (d.hookStart r).syncChunks r
    | none => d

/-! ### BACKGROUND grants and resumption (R556, R593, R602) -/

/-- The budget admits a BACKGROUND period of a variant (R602). -/
def Device.budgetOk (d : Device) (r : JobRef) (x : JobRun) (v : Nat) : Bool :=
  let per := if JobRec.trigger r.image = 2 then 10000 else x.periodFor r
  !d.pow.gov.barred && withinBudget (x.energyOf r v) per (d.headroom r.id)

/-- A BACKGROUND period starts by its job's TRIGGER (R538, R548). -/
def Device.startGranted (d : Device) (r : JobRef) (x : JobRun) : Device :=
  match JobRec.trigger r.image with
  | 1 =>
    let h := JobRec.triggerHook r.image
    let k := (d.hook h).count
    let d := d.setHook h { d.hook h with count := 0 }
    (d.count (clientOf r) 3 (k - 1)).startPeriod r x d.hub
  | 0 => d.startPeriod r x (x.waitS.getD d.hub)
  | _ => d.startPeriod r x d.hub

/-- One waiting BACKGROUND job is considered. -/
def Device.considerGrant (d : Device) (r : JobRef) : Device :=
  match d.run r.id with
  | none => d
  | some x =>
    let waits := x.started && !x.stopping && !x.barred && x.period.isNone
      && (x.phase == .waiting || (x.phase == .idle && JobRec.trigger r.image == 2))
    if !waits ∨ d.inBoundary r.part ∨ d.unitInSlice r then d
    else
      match (if r.engine = engTrestle then d.chooseVariant r x d.hub else some 0) with
      | none => d
      | some v =>
        if d.budgetOk r x v ∧ (d.variantTiles r v).all d.tileFree then d.startGranted r { x with phase := .idle } else d

/-- BACKGROUND_GRANT (R602): the waiting BACKGROUND periods, by ascending JOB_ID. -/
def execBackgroundGrant (now : Time) (s : State) : Host.Outcome State Fault Refusal :=
  s.onUp now fun d =>
    (sortBy (fun (a b : JobRef) => decide (a.id ≤ b.id)) (d.activeJobs.filter JobRef.background)).foldl
      Device.considerGrant d

/-- SAVE_BEGIN (R554, R557): the dispatcher begins a save early enough for a PERIODIC period that needs the tiles, for
the budget, or for the partition's boundary. -/
def execSaveBegin (now : Time) (job : BitVec 16) (s : State) : Host.Outcome State Fault Refusal :=
  s.onUp now fun d =>
    match d.openPeriod job with
    | some (r, _, p) =>
      let mine := p.left
      let waits (q : JobRef) : Bool := (d.run q.id).any fun x => x.period.isSome || x.phase == .waiting
      let needed := d.activeJobs.any fun q =>
        q.id != job && q.engine == engTrestle && ((d.nextDue q).isSome || waits q)
          && (List.range (JobRec.variants q.image)).any fun v => (d.variantTiles q v).any mine.contains
      if needed ∨ d.pow.gov.barred ∨ (d.part r.part).mode.isSome then d.beginSave job else d
    | none => d

/-- Bytes of a save image, of its store part and of its context (R555). -/
def saveImage : Nat := 143360
def saveStore : Nat := 131072
def saveContext : Nat := 12288

/-- First address of the start word (R546). -/
def startWordAddr : Nat := 0x1FFE0

/-- Position of a tile in the running variant. -/
def Device.savePos (d : Device) (r : JobRef) (p : Period) (t : Fin 4160) : Nat :=
  ((r.tiles p.variant).map d.serving).idxOf (some t.val)

/-! ### Completion (R535 to R537, R549) -/

/-- A tile's completion record reaches the Bureau (R164): with the last one, the next run of the step starts (R232,
R235), or the period has completed (R537). -/
def Device.tileDone (d : Device) (j : BitVec 16) (t : Fin 4160) (nonfinite : Bool) : Device :=
  match d.openPeriod j with
  | none => d
  | some (r, x, p) =>
    let p := { p with left := p.left.filter (· != t), nonfinite := p.nonfinite || nonfinite }
    let d := d.setRun j { x with period := some p }
    if p.left ≠ [] ∨ p.cause.isSome then d
    else match d.kvStep j with
      | some s =>
        if s.current + 1 < s.runs.length then
          let d := d.seqState fun q => { q with steps := q.steps.put j.toNat { s with current := s.current + 1 } }
          let p := { p with variant := d.runVariant r p.variant }
          let x := { x with period := some p, phase := RunPhase.waiting }
          ((d.freeTiles j).setRun j x).settleStarts
        else d.markDone j stOk
      | none => d.markDone j stOk

/-- The energies of the last eight periods of each variant, with a new one (R600). -/
def addEnergy (v e : Nat) (l : List (Nat × Nat)) : List (Nat × Nat) :=
  (((v, e) :: l.filter (fun (x : Nat × Nat) => x.1 == v)).take 8) ++ l.filter (fun (x : Nat × Nat) => x.1 != v)

/-- The job's record of its last period (R544, R554). -/
def Device.closePeriod (d : Device) (j : BitVec 16) (p : Period) (st : Status) (t : Time) : Device :=
  match d.run j with
  | some y => d.setRun j { y with
      period := none, phase := .idle, prevStatus := st, lastEnd := d.hub
      durations := (usBetween t p.s :: y.durations).take 8
      energies := addEnergy p.variant (energyUj p.energyNj) y.energies }
  | none => d

/-- The period is published (R549, R567, R568). -/
def Device.publish (d : Device) (r : JobRef) (p : Period) (st : Status) (t : Time) : Device :=
  let j := r.id
  let d := (d.writeCompletion r p st t).count (clientOf r) 1 1
  let d := if r.engine = engTrestle ∧ JobRec.resultHook r.image ≠ 0 then
      d.signalHook .bureau (JobRec.resultHook r.image) 1 else d
  let d := if d.monitored (.job j) then d.token (.result (.job j) p.seq p.epoch st d.hub) else d
  let d := if r.engine = engTrestle then d.publishAdapter r else d
  let d := (((d.endStep j true).endChunks r p.seq).freeTiles j).closePeriod j p st t
  (((d.ackJob j).finishModes).settleStop j).startPlanners.settleStarts

/-- A SIGNAL or TRY of the job is still on its way to the Hook array, which may yet withhold the result (R183, R185). -/
def Device.hookPending (d : Device) (j : BitVec 16) : Bool :=
  d.hooks.flight.any fun o => match o with
    | .signal _ i _ _ => i == j
    | .try (.tile t) _ _ => (d.tile t).t.job == some j
    | _ => false

/-- PERIOD_COMPLETE (R549): a period whose completion is on time is published once no Hook operation of the job that
could withhold it is on its way; one that a cause has ended is made clean once its tiles have stopped (R552). -/
def Device.periodComplete (d : Device) (j : BitVec 16) : Device :=
  match d.openPeriod j with
  | none => d
  | some (r, _, p) =>
    if p.cause.isSome then ((d.cleanUp j).startPlanners).settleStarts
    else match p.done with
      | none => d
      | some (st, t) =>
        if d.isLate r p then d.lateEnd j
        else if d.hookPending j then d
        else d.publish r p st t

/-- PERIOD_COMPLETE (R549). -/
def execPeriodComplete (now : Time) (job : BitVec 16) (s : State) : Host.Outcome State Fault Refusal :=
  s.onUp now fun d => d.periodComplete job

/-! ### State slots: what a change lets start (R245 to R250) -/

/-- SLOT_SWAP_OUT (R244). -/
def execSlotSwapOut (now : Time) (drawer : Fin 64) (s : State) : Host.Outcome State Fault Refusal :=
  s.drawerCommand now drawer 0x0405 fun d => d.slotSwapOut drawer

/-- SLOT_SWAP_IN (R249). -/
def execSlotSwapIn (now : Time) (drawer : Fin 64) (s : State) : Host.Outcome State Fault Refusal :=
  s.drawerCommand now drawer 0x0406 fun d => d.slotSwapIn drawer

/-- SLOT_WITHDRAW (R248). -/
def execSlotWithdraw (now : Time) (drawer : Fin 64) (s : State) : Host.Outcome State Fault Refusal :=
  s.drawerCommand now drawer 0x0407 fun d => (d.slotWithdraw drawer).settleStarts

/-- SWAP_OUT_DONE (R246). -/
def execSwapOutDone (now : Time) (found : SlotRead) (s : State) : Host.Outcome State Fault Refusal :=
  s.onUp now fun d => (d.swapOutDone found.slot.val found.tiles).settleStarts

/-- SWAP_IN_DONE (R247, R250). -/
def execSwapInDone (now : Time) (slot : Fin 4096) (uncorrectable : Bool) (s : State) :
    Host.Outcome State Fault Refusal :=
  s.onUp now fun d => (d.swapInDone slot.val uncorrectable).settleStarts

/-! ### JOB_START and JOB_STOP (R531, R577, R729) -/

def JobRun.fresh (plan : BitVec 16) : JobRun :=
  { plan, started := false, stopping := false, barred := false, phase := .idle, period := none, nextSeq := 0,
    prevStatus := stOk, inputsRestarted := false, gen := Generator.start 0, lastEnd := 0, durations := [], energies := [],
    stopWait := [], waitS := none }

/-- The Bureau seeds the generators of a job's tiles from its entropy source (R54): a running number names the seed. -/
def Device.seedTiles (d : Device) (r : JobRef) : Device :=
  if r.engine ≠ engTrestle then d else
  let d := d.bump
  (((List.range (JobRec.variants r.image)).flatMap r.tiles).eraseDups.filterMap d.serving).foldl (fun (d : Device) t =>
    let x := d.tile t
    d.setTile t { x with t := { x.t with regs := { x.t.regs with rngSeed := d.clk.nonce * 4160 + t, rngCount := 0 } } }) d

/-- A job starts (R531, R535, R542). -/
def Device.startJob (d : Device) (r : JobRef) : Device :=
  let j := r.id
  let x := (d.run j).getD (JobRun.fresh r.plan.handle)
  let d := d.setRun j { x with plan := r.plan.handle, started := true, stopping := false, barred := false, nextSeq := 0
                               prevStatus := stOk, inputsRestarted := false, gen := Generator.start d.hub
                               lastEnd := d.hub }
  let d := ((d.seedTiles r).needJob r).settleDomains
  match r.engine with
  | 2 => d.startFusion
  | 5 => (d.jobSlots j).foldl Device.startSlot d
  | _ => d

/-- A stop is accepted (R531, R577): the running period is cancelled, slots send their last frame. -/
def Device.stopJob (d : Device) (r : JobRef) : Device :=
  let j := r.id
  match d.run j with
  | none => d
  | some x =>
    if !x.started then d else
    let d := d.setRun j { x with stopping := true, phase := if x.period.isNone then .idle else x.phase }
    let d := match r.engine with
      | 2 => d.stopFusion
      | 5 => (d.jobSlots j).foldl (fun d c => d.stopSlot (CeDesc.slot c)) d
      | _ => ((d.dropSaved j).endWith j stCancelled).startPlanners
    (d.settleStop j).settleStarts

/-- A lower slot writes its outputs in the same cycle and has not written them yet: its frame leaves first (R523). -/
def Device.lowerSlotDue (d : Device) (s : Nat) (due : Time) : Bool :=
  d.ce.slots.any fun e => decide (e.1 < s) && e.2.running && (e.2.stage == 1 || e.2.stage == 2)
    && (match d.ceDesc e.1 with
        | some c => addT e.2.gen.last (CeDesc.outPhase c) == due
        | none => false)

/-- OUTPUT_WRITE (R522): in the cycle OUT_PHASE of the period, once a SAFETY slot's halves have been compared and the
lower slots that write in the same cycle have written (R523). A store
error stops the slot's job (R532), and a job whose last slot has stopped has stopped (R531). -/
def execOutputWrite (now : Time) (slot : Fin 256) (finding : ScrubFinding) (s : State) :
    Host.Outcome State Fault Refusal :=
  s.onUp now fun d =>
    match d.ceDesc slot.val with
    | none => d
    | some c =>
      let x := d.slot slot.val
      let ready := if d.slotSafety c then x.stage = 2 else x.stage = 1
      let due := addT x.gen.last (CeDesc.outPhase c)
      if x.running ∧ ready ∧ reached d.ceNow due ∧ !d.lowerSlotDue slot.val due then
        let d := d.writeSlot slot.val c finding
        match d.job (BitVec.ofNat 16 (CeDesc.jobId c)) with
        | some r => ((if finding = .uncorrectable then d.stopJob r else d).settleStop r.id).settleStarts
        | none => d
      else d

/-- JOB_START (R577, R578, R729): held while a stop of the job is in progress. -/
def Device.jobStart (d : Device) (n : Fin 64) : Device :=
  match d.job (BitVec.ofNat 16 (fld (d.params n) 15 0)) with
  | none => d.fail n stConfig
  | some r =>
    if d.enteringStandby.isSome then d.hold n
    else if r.engine = engControl ∧ !d.bur.win.outputsEnabled then d.fail n stBusy
    else match d.run r.id with
      | some x =>
        if x.stopping then d.hold n
        else if x.started ∧ !x.barred then d.reply n stOk []
        else if x.period.isSome then d.hold n
        else (d.startJob r).reply n stOk []
      | none => (d.startJob r).reply n stOk []

/-- JOB_START (R577). -/
def execJobStart (now : Time) (drawer : Fin 64) (s : State) : Host.Outcome State Fault Refusal :=
  s.drawerCommand now drawer 0x0201 fun d => d.jobStart drawer

/-- JOB_STOP (R531): DONE once the job has stopped. -/
def Device.jobStop (d : Device) (n : Fin 64) : Device :=
  match d.job (BitVec.ofNat 16 (fld (d.params n) 15 0)) with
  | none => d.fail n stConfig
  | some r => match d.run r.id with
    | none => d.reply n stOk []
    | some x => if x.started then (d.goOn n).stopJob r else d.reply n stOk []

/-- JOB_STOP (R531). -/
def execJobStop (now : Time) (drawer : Fin 64) (s : State) : Host.Outcome State Fault Refusal :=
  s.drawerCommand now drawer 0x0202 fun d => d.jobStop drawer

/-! ### MODE_CHANGE (R569 to R571) -/

/-- A unit of the partition still works under the old epoch (R570). -/
def Device.oldUnits (d : Device) (p : Nat) (n : Fin 64) : ModeChange :=
  let js := d.activeJobs.filter fun r => r.part == p
  let open_ := (js.filter fun r => (d.openPeriod r.id).isSome
    || (r.engine == engFusion && !d.eng.fus.cycles.isEmpty)).map JobRef.id
  let slots := (js.filter fun r => r.engine == engControl).flatMap fun r =>
    ((d.jobSlots r.id).map CeDesc.slot).filter fun s => (d.slot s).running
  let streams := d.ing.streams.filterMap fun e => match e.2.desc.bind d.streamDest with
    | some (q, _) => if q.part = p ∧ e.2.samples ≠ [] then some (BitVec.ofNat 12 e.1) else none
    | none => none
  { drawer := n, accepted := d.hub, waiting := open_
    slots := slots.map fun s => ⟨s % 256, Nat.mod_lt _ (by decide)⟩, streams }

/-- MODE_CHANGE (R569). -/
def Device.modeChange (d : Device) (n : Fin 64) : Device :=
  let q := d.params n
  let ps := (List.range 8).filter fun i => bitAt (fld q 7 0) i
  let e := BitVec.ofNat 16 (fld q 31 16)
  if ps.isEmpty ∨ ps.any fun p => (d.part p).record.isNone then d.fail n stConfig
  else if ps.any fun p => (d.part p).epoch == e then d.fail n stConfig
  else if ps.any fun p => (d.part p).mode.isSome then d.fail n stBusy
  else
    let d := d.goOn n
    let parts := d.jobs.parts.zipIdx.map fun (x : Partition × Nat) =>
      if ps.contains x.2 then { x.1 with epoch := e, mode := some (d.oldUnits x.2 n) } else x.1
    ({ d with jobs := { d.jobs with parts } }).finishModes

/-- MODE_CHANGE (R569). -/
def execModeChange (now : Time) (drawer : Fin 64) (s : State) : Host.Outcome State Fault Refusal :=
  s.drawerCommand now drawer 0x0203 fun d => d.modeChange drawer

/-! ### POWER_OVERRUN_PREEMPT (R593) -/

/-- Every exposed tile of started BACKGROUND jobs stands at its floor. -/
def Device.backgroundAtFloor (d : Device) : Bool :=
  (d.classTiles 3).all fun t => d.capOf t ≤ d.floorStep ((d.tileClass t).getD 3) t

/-- Pre-empts the running BACKGROUND periods on the fabric, the largest footprint first, and bars further ones. -/
def Device.overrunPreempt (d : Device) : Device :=
  let d := { d with pow := { d.pow with gov := { d.pow.gov with barred := true } } }
  let rs := d.activeJobs.filterMap fun r =>
    if r.background ∧ r.engine = engTrestle then (d.openPeriod r.id).map fun o => (r, o.2.2.left.length) else none
  (sortBy (fun (a b : JobRef × Nat) => decide (b.2 ≤ a.2)) rs).foldl (fun (d : Device) (e : JobRef × Nat) => d.beginSave e.1.id) d

/-- POWER_OVERRUN_PREEMPT (R593): P_est has exceeded P_eff for 50 µs with the BACKGROUND tiles at their floor. -/
def execPowerOverrunPreempt (now : Time) (s : State) : Host.Outcome State Fault Refusal :=
  s.onUp now fun d =>
    match d.pow.gov.overSince with
    | some t => if reached d.hub (addT t (usHub 50)) then d.overrunPreempt else d
    | none => d

end Sys2Proof.Machine
end

