-- ==== Sys2Proof/Machine/Fence.lean ====
section
/-!
DEFINITION. Partition boundaries, buckets, fencing and spares (R122 to R128, R574, R664 to R667).
-/

namespace Sys2Proof.Machine

def Device.setPart (d : Device) (p : Nat) (x : Partition) : Device :=
  { d with jobs := { d.jobs with parts := setAt d.jobs.parts p x } }

/-- The jobs of a partition. -/
def Device.partJobs (d : Device) (p : Nat) : List JobRef := d.activeJobs.filter fun r => r.part == p

/-- Steps 1 and 2 of R574: no further period of the partition's jobs starts, and BACKGROUND periods are cancelled and
not saved. A boundary in progress takes a repair in its stride (R666). -/
def Device.beginBoundary (d : Device) (p : Nat) (k : BoundaryKind) : Device :=
  let x := d.part p
  let b : Boundary := match x.boundary with
    | some b => { b with kind := if k = .repair then b.kind else k }
    | none => { kind := k, since := d.hub }
  let d := d.setPart p { x with boundary := some b }
  (d.partJobs p).foldl (fun d r => if r.background then (d.dropSaved r.id).endWith r.id stCancelled else d) d

/-- Step 3 of R574: every period of the partition's jobs has ended. Control Engine slots keep running. -/
def Device.quiet (d : Device) (p : Nat) : Bool :=
  (d.partJobs p).all fun r =>
    r.engine == engControl || (r.engine == engFusion && d.eng.fus.cycles.isEmpty) ||
      (match d.run r.id with
       | some x => r.engine != engFusion && x.period.isNone
       | none => true)

/-- The partition, with an active Plan, that holds a fabric group (R561). -/
def Device.partOfGroup (d : Device) (g : Nat) : Option Nat :=
  (List.range 8).find? fun p => (d.part p).active.isSome &&
    (match (d.part p).record with
     | some r => PartRec.hasGroup r g
     | none => false)

/-! ### Loading a tile (R114, R125, R162, R738) -/

/-- The initial store images that the active Plans give a tile: those of its jobs' variants, in order. -/
def Device.initImages (d : Device) (id : Nat) : List Bytes :=
  d.activeJobs.flatMap fun r =>
    if r.engine = engTrestle then
      (List.range (JobRec.variants r.image)).flatMap fun v =>
        ((progTiles r.plan.bytes (VarRec.programRef (JobRec.variant r.image v))).filter fun t => t.tile == id).map (·.init)
    else []

/-- The Bureau writes the initial images of the id `id` into the physical tile `s` and fills its command buffer from
command 0 (R162, R738). -/
def Device.initTile (d : Device) (s id : Nat) : Device :=
  (d.setTile s ((d.initImages id).foldl (fun (y : TileState) b => y.putStore 0 b) (d.tile s))).fillBuffer s (d.codeOf id)

/-- The Bureau loads the physical tile `s` for the id `id`: a zeroed store, the initial images, and the command buffer
from command 0. A tile that comes in after its job's start, or whose power was off, is seeded here (R54). -/
def Device.loadTile (d : Device) (s id : Nat) : Device :=
  let d := d.bump
  let x := d.tile s
  let regs := { x.t.regs with rngSeed := d.clk.nonce * 4160 + s, rngCount := 0 }
  (d.setTile s { x with t := { x.t with store := [], poison := [], regs } }).initTile s id

/-! ### Spares (R123, R125, R667) -/

/-- The free spare of a group with the lower id. -/
def Device.freeSpare (d : Device) (g : Nat) : Option Nat :=
  ((List.range 2).map fun k => 4096 + 2 * g + k).find? fun s => (d.tile s).t.census == .spareIdle

/-- A spare takes over an id. -/
def Device.mapSpare (d : Device) (id : Nat) : Device :=
  if h : id < 4096 then
    match d.serving id, d.freeSpare (groupOf id) with
    | none, some s =>
      let x := d.tile s
      let t : Tile := { x.t with census := .spareMapped, serves := some ⟨id, h⟩ }
      (d.setTile s { x with t := t }).loadTile s id
    | _, _ => d
  else d

/-- Spares for the fenced tiles of a partition's groups, in the order of fencing. -/
def Device.applySpares (d : Device) (p : Nat) : Device :=
  match (d.part p).record with
  | none => d
  | some r => (d.jobs.fenced.filter fun e => PartRec.hasGroup r (groupOf e.2)).foldl (fun d e => d.mapSpare e.2) d

/-- Started jobs of a partition of which no variant is served stop with ST_TILE_FENCED (R128). -/
def Device.stopFenced (d : Device) (p : Nat) : Device :=
  (d.partJobs p).foldl (fun (d : Device) r => match d.run r.id with
    | some x =>
      if r.engine = engTrestle ∧ x.started ∧ (d.allowedVariants r).isEmpty then
        d.setRun r.id { x with barred := true, prevStatus := stTileFenced, phase := .idle, waitS := none }
      else d
    | none => d) d

/-- Step 4 of R574: the Hooks of the partition's jobs are reset, with the ingest streams that feed them (R551), and its
spares are applied; a job that is left without a variant stops. The Control Engine's slots and Fusion's measurements go on (R387, R533). -/
def Device.boundaryStep4 (d : Device) (p : Nat) : Device :=
  (((d.partJobs p).foldl (fun (d : Device) r => if r.engine = engControl ∨ r.engine = engFusion then d
    else (d.resetJobHooks r.id).restartStreams r) d).applySpares p).stopFenced p

/-! ### Fencing (R665, R666) -/

/-- The jobs whose period in progress a tile contributes to. -/
def Device.contributes (d : Device) (t : Fin 4160) : List (BitVec 16) :=
  (d.jobs.runs.filterMap fun e =>
    let j := BitVec.ofNat 16 e.1
    match e.2.period with
    | some p => if p.left.contains t ∨ (d.tile t).t.job = some j then some j else none
    | none => none)

/-- Fences a tile (R665, R666). -/
def Device.fenceTile (d : Device) (t : Fin 4160) : Device :=
  let x := d.tile t
  if x.t.census = .fenced ∨ x.t.census = .lbistFailed then d
  else
    let d := d.setTile t { x with t := { x.t with census := .fenced, serves := none } }
    let d := (d.contributes t).foldl (fun d j => d.endWith j stTileFenced) d
    let d := (d.notify stTileFenced srcTile (BitVec.ofNat 16 t.val)).persist
    match x.t.serves with
    | none => { d with jobs := { d.jobs with fenced := d.jobs.fenced ++ [(t, 0xFFFF)] } }
    | some id =>
      let d := { d with jobs := { d.jobs with fenced := d.jobs.fenced ++ [(t, id.val)] } }
      match d.partOfGroup (groupOf t) with
      | some p => d.beginBoundary p .repair
      | none => d.mapSpare id.val

/-- An event of R664 adds 1 to a tile's bucket, which fences it at the limit (R665). -/
def Device.addBucket (d : Device) (t : Fin 4160) : Device :=
  let x := d.tile t
  let b := min 255 (x.t.bucket + 1)
  let d := d.setTile t { x with t := { x.t with bucket := b } }
  if d.lect.policy.bucketLimit ≤ b then d.fenceTile t else d

/-- BUCKET_LEAK (R664): when the timer reaches LEAK_S, each bucket that is not 0 loses 1, and the timer starts again. -/
def execBucketLeak (now : Time) (s : State) : Host.Outcome State Fault Refusal :=
  s.onUp now fun d =>
    let due := addT d.leakAt (usHub (1000000 * d.lect.policy.leakS))
    if reached d.hub due then
      { d with leakAt := due
               tiles := d.tiles.mapVals fun _ (x : TileState) => { x with t := { x.t with bucket := x.t.bucket - 1 } } }
    else d

end Sys2Proof.Machine
end

