-- ==== Sys2Proof/Machine/Array.lean ====
section
/-!
DEFINITION. What the array and the gate pipeline of a tile compute (R38 to R46, R57 to R64, R67 to R86, R98 to R103,
R236 to R240), on a tile's store and registers.
-/

namespace Sys2Proof.Machine

/-! ### Addresses of a queued command (R135, R160) -/

def QEntry.w (e : QEntry) : Image := e.word.toNat
def QEntry.op (e : QEntry) : Nat := Cmd.op e.w
/-- A tile-store address field of the command, advanced as R160 states. -/
def QEntry.addr (e : QEntry) (a : Nat) : Nat := ((a : Int) + e.advance).toNat

/-- The tensor format of a code; the Plan's checks leave no other code. -/
def tfmt (c : Nat) : TFmt := (TFmt.ofCode c).getD .fp32

/-- Weights per cell are two for formats of up to 8 bits (R69). -/
def TFmt.twoPerCell (f : TFmt) : Bool := f.width ≤ 8
/-- Reduction length of a stationary block (R69). -/
def TFmt.redLen (f : TFmt) : Nat := if f.twoPerCell then 32 else 16
/-- Outputs per vector (R83). -/
def outsOf (dir : Bool) (f : TFmt) : Nat := if dir && f.twoPerCell then 32 else 16
/-- Elements of one activation vector (R144). -/
def vecLen (dir : Bool) (f : TFmt) : Nat := if dir then 16 else f.redLen

/-- `n` elements of a packed plane at a store address (R31). -/
def TileState.elems (x : TileState) (f : TFmt) (a n : Nat) : List Nat :=
  let plane := leNat (x.getStore a (ceilDiv (n * f.width) 8))
  (List.range n).map (elemAt f.width plane)

def TileState.word32 (x : TileState) (a : Nat) : F32 := BitVec.ofNat 32 (leNat (x.getStore a 4))

/-! ### LOAD_W (R71) -/

/-- The stationary block that LOAD_W stages. -/
def TileState.block (x : TileState) (e : QEntry) (bad : Bool) : WBlock :=
  let f := tfmt (LoadW.wfmt e.w)
  { wfmt := BitVec.ofNat 4 (LoadW.wfmt e.w), elems := x.elems f (e.addr (LoadW.wAddr e.w)) (16 * f.redLen)
    scales := if f.isMX then (x.getStore (e.addr (LoadW.sAddr e.w)) 16).map (·.toNat) else [], bad }

/-- An undefined block (R159). -/
def freeBlock (c undef : Nat) : WBlock :=
  let f := tfmt c
  { wfmt := BitVec.ofNat 4 c
    elems := (List.range (16 * f.redLen)).map fun i => (Config.freeWord undef i).toNat % 2 ^ f.width
    scales := (List.range 16).map fun i => (Config.freeWord undef (1024 + i)).toNat % 256, bad := false }

/-- Weight `i` of column `c` (R70, R71). -/
def WBlock.at' (b : WBlock) (f : TFmt) (c i : Nat) : FVal := f.value (nth b.elems (c * f.redLen + i) 0)
def WBlock.scale (b : WBlock) (c : Nat) : Nat := nth b.scales c 0

/-! ### One vector of a PASS -/

/-- v × 2^k. -/
def FVal.scale2 (v : FVal) (k : Int) : FVal := v.mul (.fin false 1 k)

/-- The block skip of R43 to R45; no activation scale takes part for an unscaled format (R224). -/
def skipBlock (t sw : Nat) (sa : Option Nat) : Bool :=
  (sw < t || sa.any (· < t)) && sw != 255 && sa != some 255

/-- 2^(c - 127) as a factor, NaN for 0xFF (R26). -/
def e8m0 (c : Nat) : FVal := if c = 255 then .nan else .fin false 1 ((c : Int) - 127)

/-- The sum of one block of an MX pair times its scales (R38). -/
def mxTerm (ws as : List FVal) (sw sa : Nat) : FVal :=
  let s := (List.zipWith FVal.mul ws as).foldl FVal.add (.fin false 0 0)
  (s.mul (e8m0 sw)).mul (e8m0 sa)

/-- What a pass uses: formats, direction, threshold. -/
structure PassCfg where
  wf : TFmt
  af : TFmt
  dir : Bool
  skip : Nat
  deriving DecidableEq, Repr

/-- One vector of a normal read (R38 to R40, R43, R73): the accumulator entries of its 16 outputs. -/
def normalVector (k : PassCfg) (b : WBlock) (as : List FVal) (sa : Nat) (acc : List F32) : List F32 :=
  (List.range 16).map fun c =>
    let a := nth acc c 0
    let ws := (List.range k.wf.redLen).map fun i => b.at' k.wf c i
    if k.wf.isMX then
      let sa' := if k.af = .fp8e4m3 then none else some sa
      if skipBlock k.skip (b.scale c) sa' then a
      else F32.add a (f32r (mxTerm ws as (b.scale c) (sa'.getD 127)))
    else if k.wf.isInt then
      F32.add a (f32r ((List.zipWith FVal.mul ws as).foldl FVal.add (.fin false 0 0)))
    else (List.zipWith FVal.mul ws as).foldl (fun a p => f32r (FVal.add (f32v a) p)) a

/-- One vector of a transposed read (R74, R77, R78). -/
def transposedVector (k : PassCfg) (b : WBlock) (ys : List FVal) (sa : Nat) (acc : List F32) : List F32 :=
  (List.range (outsOf true k.wf)).map fun o =>
    let sa' := if k.af = .fp8e4m3 then none else some sa
    let row := (List.range 16).foldl (fun (p : F32) c =>
      let prod := (b.at' k.wf c o).mul (nth ys c (.fin false 0 0))
      if k.wf.isMX then
        if skipBlock k.skip (b.scale c) sa' then p else f32r (FVal.add (f32v p) (prod.mul (e8m0 (b.scale c))))
      else f32r (FVal.add (f32v p) prod)) 0
    let row := if k.wf.isMX then f32r ((f32v row).mul (e8m0 (sa'.getD 127))) else row
    F32.add (nth acc o 0) row

def passCfg (e : QEntry) : PassCfg :=
  { wf := tfmt (Pass.wfmt e.w), af := tfmt (Pass.afmt e.w), dir := Pass.dir e.w, skip := Pass.skipT e.w }

/-- The start of activation vector `j`. -/
def QEntry.vecAddr (e : QEntry) (j : Nat) : Nat := e.addr (Pass.aAddr e.w) + j * Pass.aStride e.w

/-! ### The checker (R659 to R661) -/

def sumVals (l : List FVal) : FVal := l.foldl FVal.add (.fin false 0 0)

/-- The factor of a column's weights and that of a vector, 1 for formats without a scale (R224, R659). -/
def WBlock.factor (b : WBlock) (k : PassCfg) (c : Nat) : FVal := if k.wf.isMX then e8m0 (b.scale c) else .fin false 1 0
def actFactor (k : PassCfg) (sa : Nat) : FVal := if k.wf.isMX && k.af != .fp8e4m3 then e8m0 sa else .fin false 1 0

/-- The block of column `c` takes part for a vector (R43, R661). -/
def WBlock.takes (b : WBlock) (k : PassCfg) (sa c : Nat) : Bool :=
  !(k.wf.isMX && skipBlock k.skip (b.scale c) (if k.af = .fp8e4m3 then none else some sa))

/-- The exact sums over a block's 16 columns for each reduction element (R659). -/
def WBlock.rowSums (b : WBlock) (f : TFmt) (k : PassCfg) (only : Nat → Bool) : List FVal :=
  (List.range f.redLen).map fun i =>
    sumVals (((List.range 16).filter only).map fun c => (b.factor k c).mul (b.at' f c i))

/-- The sums that the array forms (R660): one for each vector, then one for each column (for each row, when transposed). -/
def arraySums (k : PassCfg) (b : WBlock) (vs : List (List FVal × Nat)) : List FVal :=
  let o := if k.dir then outsOf true k.wf else 16
  let term (v : List FVal × Nat) (c i : Nat) : FVal := (b.at' k.wf c i).mul (nth v.1 (if k.dir then c else i) (.fin false 0 0))
  -- the exact sum of output `n` for a vector
  let part (v : List FVal × Nat) (n : Nat) : FVal :=
    if k.dir then sumVals (((List.range 16).filter (b.takes k v.2)).map fun c => (b.factor k c).mul (term v c n))
    else if b.takes k v.2 n then sumVals ((List.range k.wf.redLen).map fun i => term v n i) else .fin false 0 0
  (vs.map fun v => sumVals ((List.range o).map fun n => if k.dir then part v n else (b.factor k n).mul (part v n)))
    ++ (List.range o).map fun n => sumVals (vs.map fun v => (actFactor k v.2).mul (part v n))

/-- The sums that the checker forms from its row sums, its weights and the activations (R659 to R661). -/
def CheckBlock.passSums (x : CheckBlock) (k : PassCfg) (vs : List (List FVal × Nat)) : List FVal :=
  let b := x.block
  let o := if k.dir then outsOf true k.wf else 16
  let act (v : List FVal × Nat) (i : Nat) : FVal := nth v.1 i (.fin false 0 0)
  (vs.map fun v =>
    if k.dir then
      sumVals (((List.range 16).filter (b.takes k v.2)).map fun c =>
        ((b.factor k c).mul (sumVals ((List.range o).map fun n => b.at' k.wf c n))).mul (act v c))
    else
      let sums := if (List.range 16).all (b.takes k v.2) then x.sums else b.rowSums k.wf k (b.takes k v.2)
      sumVals ((List.range k.wf.redLen).map fun i => (nth sums i (.fin false 0 0)).mul (act v i)))
    ++ (List.range o).map fun n =>
      if k.dir then
        sumVals ((List.range 16).map fun c => ((b.factor k c).mul (b.at' k.wf c n)).mul
          (sumVals ((vs.filter fun v => b.takes k v.2 c).map fun v => (actFactor k v.2).mul (act v c))))
      else
        sumVals ((List.range k.wf.redLen).map fun i => (b.at' k.wf n i).mul
          (sumVals ((vs.filter fun v => b.takes k v.2 n).map fun v => (actFactor k v.2).mul (act v i))))

def FVal.isFinite : FVal → Bool
  | .fin .. => true
  | _ => false

/-- Two exact sums match (R59): equal, or both not finite. -/
def sumsMatch (a b : FVal) : Bool :=
  if a.isFinite && b.isFinite then FVal.cmp a b == some .eq else a.isFinite == b.isFinite

/-- What a fault makes of a sum as the array's adders give it. -/
def faulty (a : FVal) : SumFault → FVal
  | .off n e => FVal.add a (.fin (n < 0) n.natAbs e)
  | .nonfinite => .nan

/-- The comparisons of a pass hold, whatever faults alter the array's sums (R660). -/
def PassCheck.agrees (c : PassCheck) (faults : List (Nat × SumFault)) : Bool :=
  c.sums.zipIdx.all fun p =>
    sumsMatch ((faults.filter fun f => f.1 == p.2).foldl (fun a f => faulty a f.2) p.1.1) p.1.2

/-- The row sums that the checker forms for a block, of the formats that LOAD_W names. -/
def WBlock.checked (b : WBlock) : CheckBlock :=
  let f := tfmt b.wfmt.toNat
  { block := b, sums := b.rowSums f { wf := f, af := f, dir := false, skip := 0 } fun _ => true }

/-- Entry `k` of half `h` of the accumulator file (R80, R84). -/
def accIndex (h : Bool) (k : Nat) : Nat := (if h then 512 else 0) + k

/-- The scaling of an integer pair as its values leave the array (R39, R72, R86). -/
def TileState.intScale (x : TileState) (e : QEntry) (k : PassCfg) (j o : Nat) (v : F32) : F32 :=
  if k.wf.isInt then
    F32.mul (F32.mul v (x.word32 (e.addr (Pass.wScale e.w) + 4 * o))) (x.word32 (e.addr (Pass.aScale e.w) + 4 * j))
  else v

/-- Runs a PASS on the registers (R81, R84, R93, R96, R97). -/
def TileState.runPass (x : TileState) (e : QEntry) : TileState :=
  let k := passCfg e
  let n := Pass.n e.w
  let o := outsOf k.dir k.wf
  let b := match x.t.regs.staging with
    | some b => b
    | none => x.t.regs.stationary.getD (freeBlock (Pass.wfmt e.w) x.t.regs.undef)
  let own := match x.t.regs.checkStaged with
    | some c => c
    | none => x.t.regs.checkUsed.getD b.checked
  let half := x.t.regs.half
  let vectors := (List.range n).map fun j =>
    ((x.elems k.af (e.vecAddr j) (vecLen k.dir k.wf)).map k.af.value, (storeByte x (e.addr (Pass.aScale e.w) + j)).toNat)
  let acc0 := if x.r.groupOpen then x.t.regs.acc
    else (List.range (n * o)).foldl (fun (t : Tbl F32) i => t.put (accIndex half i) 0) x.t.regs.acc
  let acc := vectors.zipIdx.foldl (fun (t : Tbl F32) v =>
    let as := v.1.1
    let sa := v.1.2
    let j := v.2
    let old := (List.range o).map fun i => t.getD (accIndex half (j * o + i)) 0
    let new := if k.dir then transposedVector k b as sa old else normalVector k b as sa old
    new.zipIdx.foldl (fun (t : Tbl F32) v => t.put (accIndex half (j * o + v.2)) v.1) t) acc0
  let close := Pass.close e.w
  let fin := (List.range (n * o)).map fun i => x.intScale e k (i / o) (i % o) (acc.getD (accIndex half i) 0)
  { t := { x.t with regs := { x.t.regs with stationary := some b, staging := none, checkUsed := some own
                                            checkStaged := none, acc, half := if close then !half else half } }
    r := { x.r with groupOpen := !close, checks := x.r.checks ++ [⟨e.id, List.zip (arraySums k b vectors) (own.passSums k vectors)⟩]
                    closing := if close then x.r.closing ++ [(fin, b.bad)] else x.r.closing } }

/-- The oldest closing group drains into the gate pipeline, and its entries return to zero (R85). -/
def TileState.runDrain (x : TileState) : TileState :=
  match x.r.closing with
  | [] => x
  | g :: rest =>
    let half := if rest.isEmpty then !x.t.regs.half else x.t.regs.half
    { t := { x.t with regs := { x.t.regs with
        acc := (List.range g.1.length).foldl (fun (t : Tbl F32) i => t.put (accIndex half i) 0) x.t.regs.acc } }
      r := { x.r with closing := rest, drains := x.r.drains ++ [g] } }

/-! ### The gate pipeline -/

/-- An operation on x with the operands P and Q (R57, R58, R146). -/
def gateScalar (op : Nat) (x p q : F32) : F32 :=
  match op with
  | 0x01 => F32.add x p
  | 0x02 => F32.mul x p
  | 0x03 => F32.fma x p q
  | 0x04 => F32.max x p
  | 0x05 => F32.min x p
  | 0x06 => if F32.gt x p then x else q
  | 0x07 => F32.exp2 x
  | 0x08 => F32.log2 x
  | 0x09 => F32.rcp x
  | 0x0A => F32.rsqrt x
  | 0x0B => F32.sigmoid x
  | 0x0C => F32.tanh x
  | 0x0D => F32.silu x
  | 0x0E => F32.gelu x
  | _ => x

/-- One lane: the value, M before and after the value's running-max step, S, and a state element (R60, R101). -/
structure Lane where
  x : F32
  mOld : F32
  m : F32
  s : F32
  h : F32
  c : BitVec 16
  /-- The exact state that x reads out (R61), when a RECUR gave x. -/
  exact : Option FVal
  deriving DecidableEq, Repr

/-- The lane's value on its way out of the pipeline: the state is rounded once, to the target format (R61). -/
def Lane.out (l : Lane) : FVal := l.exact.getD (f32v l.x)

/-- H + C × ulp(H) × 2^-16 (R60). -/
def stateVal (h : F32) (c : BitVec 16) : FVal :=
  if F32.isZero h then f32v h
  else FVal.add (f32v h) (.fin (c.toInt < 0) c.toInt.natAbs (ulpExp h - 16))

/-- How far a value lies above an FP32 number, in units of ulp × 2^-16 (R60). -/
def compOf (v : FVal) (h : F32) : Int :=
  let diff := FVal.add v (match f32v h with | .fin s m e => .fin (!s) m e | w => w)
  (FVal.toInt (diff.scale2 (16 - ulpExp h))).getD 0

/-- The pair of R60 for a value: the nearest FP32 number, or the next one above where the signed 16-bit C could not
hold half an ulp. -/
def pairOf (v : FVal) : F32 × BitVec 16 :=
  let h := f32r v
  if 32767 < compOf v h then
    let n := if h.getLsbD 31 then h - 1 else h + 1
    (n, BitVec.ofInt 16 (compOf v n))
  else (h, BitVec.ofInt 16 (compOf v h))

/-- The flush of R60: a normalised value below 2^-126 in magnitude becomes a zero of its sign. -/
def flushPair (p : F32 × BitVec 16) : F32 × BitVec 16 :=
  match stateVal p.1 p.2 with
  | .fin s m e =>
    if FVal.cmp (.fin false m e) (.fin false 1 (-126)) = some .lt then (if s then 0x80000000 else 0, 0) else p
  | _ => (p.1, 0)

/-- The recurrence update (R60, R62, R237): the part's value where it keeps the bound of R62, else the exact result
rounded into the pair; the flush acts on the normalised value. The ulp of the bound is that of the larger of the old and
the new H, as R60 defines ulp: where an |h| just below a power of two has the power as its H, the ulp is that at H
(DESIGN CHOICE, log 5). -/
def recurStep (h : F32) (c : BitVec 16) (a b : F32) : F32 × BitVec 16 :=
  let v := FVal.add ((f32v a).mul (stateVal h c)) (f32v b)
  match v with
  | .fin .. =>
    let p := pairOf v
    let g := Config.recur h c a b
    if F32.isFinite g.1 && !F32.isZero g.1 && closeTo (stateVal g.1 g.2) v (max (ulpExp h) (ulpExp p.1) - 14) then flushPair g
    else flushPair p
  | w => (f32r w, 0)

/-- One slot on one lane (R101, R146, R237). -/
def Lane.step (l : Lane) (op : Nat) (p q : F32) : Lane :=
  match op with
  | 0x0F => { l with mOld := l.m, m := F32.max l.m l.x }
  | 0x10 =>
    if l.m = f32NegInf then l
    else { l with s := F32.add (F32.mul l.s (F32.exp2 (F32.sub l.mOld l.m))) (F32.exp2 (F32.sub l.x l.m)) }
  | 0x11 =>
    let n := recurStep l.h l.c p l.x
    { l with h := n.1, c := n.2, x := f32r (stateVal n.1 n.2), exact := some (stateVal n.1 n.2) }
  | _ => { l with x := gateScalar op l.x p q, exact := none }

/-- A code of a store operand as FP32 (R55, R56, R100). -/
def toF32 (f : TFmt) (c : Nat) : F32 := f32r (f.value c)

/-- Value `k` of the operand vector at an address. -/
def TileState.operand (x : TileState) (f : TFmt) (a k : Nat) : F32 :=
  toF32 f (leNat (x.getStore (a + k * (f.width / 8)) (f.width / 8)))

def TileRegs.cst (r : TileRegs) (i : Nat) : F32 := r.consts.getD i (Config.freeWord r.undef (2048 + i))
def TileRegs.runMax (r : TileRegs) (l : Nat) : F32 := r.m.getD l (Config.freeWord r.undef (2304 + l))
def TileRegs.runSum (r : TileRegs) (l : Nat) : F32 := r.s.getD l (Config.freeWord r.undef (2320 + l))

/-- The slots of a GATE, up to the first NONE (R146). -/
def gateSlots (w : Image) : List (Nat × Nat × Nat) :=
  ((List.range 4).map (Gate.slot w)).takeWhile fun s => s.1 != 0

def gateHas (w : Image) (op : Nat) : Bool := (gateSlots w).any fun s => s.1 == op
def gateUses (w : Image) (sel : Nat) : Bool := (gateSlots w).any fun s => s.2.1 == sel || s.2.2 == sel

/-- OP_B of a GATE: with RECUR it does not advance (R239). -/
def QEntry.opB (e : QEntry) : Nat := if gateHas e.w 0x11 then Gate.opB e.w else e.addr (Gate.opB e.w)

/-- Address of lane `l` of beat `i` of a recurrent slice: its H and its C (R236). -/
def recurH (base i l : Nat) : Nat := base + 512 + 96 * i + 4 * l
def recurC (base i l : Nat) : Nat := base + 576 + 96 * i + 2 * l

/-- The reset bit of the step (R240). -/
def TileState.resetBit (x : TileState) (base step : Nat) : Bool :=
  (storeByte x (base + step / 8)).getLsbD (step % 8)

/-- What running a chain gives: registers, results in order, and the state elements to write. -/
structure GateOut where
  m : Tbl F32
  s : Tbl F32
  vals : List FVal
  puts : List (Nat × Bytes)
  deriving DecidableEq, Repr

/-- One lane of one beat through the chain. -/
def TileState.gateLane (x : TileState) (e : QEntry) (o : GateOut) (src : Nat → F32) (i l : Nat) : GateOut :=
  let f := tfmt (Gate.inFmt e.w)
  let k := 16 * i + l
  let a := e.addr (Gate.opA e.w)
  let b := e.opB
  let recur := gateHas e.w 0x11
  let fresh := recur && x.resetBit b e.iter
  let lane : Lane :=
    { x := src k, mOld := o.m.getD l (x.t.regs.runMax l), m := o.m.getD l (x.t.regs.runMax l)
      s := o.s.getD l (x.t.regs.runSum l)
      h := if recur && !fresh then x.word32 (recurH b i l) else 0
      c := if recur && !fresh then BitVec.ofNat 16 (leNat (x.getStore (recurC b i l) 2)) else 0
      exact := none }
  let pick (sel : Nat) : F32 :=
    if sel = 1 then x.operand f a k else if sel = 2 then x.operand f b k
    else if 8 ≤ sel then x.t.regs.cst (16 * (sel - 8) + l) else 0
  let lane := (gateSlots e.w).foldl (fun (n : Lane) s => n.step s.1 (pick s.2.1) (pick s.2.2)) lane
  { m := o.m.put l lane.m, s := o.s.put l lane.s, vals := o.vals ++ [lane.out]
    puts := if recur then o.puts ++ [(recurH b i l, natLE lane.h.toNat 4), (recurC b i l, natLE lane.c.toNat 2)] else o.puts }

/-- INIT_MS: M becomes -infinity and S +0 before anything else (R101, R145). -/
def TileRegs.initMs (r : TileRegs) (w : Image) : TileRegs :=
  if Gate.initMs w then
    { r with m := (List.range 16).map fun l => (l, f32NegInf), s := (List.range 16).map fun l => (l, 0) }
  else r

/-- The chain over every beat and lane. -/
def TileState.gateRun (x : TileState) (e : QEntry) (src : Nat → F32) : GateOut :=
  let init : GateOut := { m := x.t.regs.m, s := x.t.regs.s, vals := [], puts := [] }
  (List.range (Gate.beats e.w)).foldl (fun (o : GateOut) i =>
    (List.range 16).foldl (fun (o : GateOut) l => x.gateLane e o src i l) o) init

/-- Codes packed little-endian (R31). -/
def packCodes (w : Nat) (cs : List Nat) : Bytes :=
  natLE (cs.zipIdx.foldl (fun (n : Nat) c => n + c.1 * 2 ^ (w * c.2)) 0) (ceilDiv (w * cs.length) 8)

/-- What converting the results gives: the element bytes, the scale bytes, what stays in the pair buffer, whether a
NaN met an integer format, and the random numbers used. -/
structure GateConv where
  bytes : Bytes
  scales : Bytes
  pair : List F32
  nan : Bool
  used : Nat
  deriving DecidableEq, Repr

/-- Conversion to OUT_FMT (R49, R52 to R54, R102; log entry 50). -/
def TileRegs.gateConvert (r : TileRegs) (w : Image) (vals : List FVal) : GateConv :=
  let f := tfmt (Gate.outFmt w)
  let rnd (k : Nat) : Nat := Config.entropy r.rngSeed (r.rngCount + k)
  let sr := Gate.sr w
  if f.isMX then
    let all := r.pair ++ vals.map f32r
    let n := all.length / 32
    let bs := (List.range n).map fun b =>
      mxBlock f (if sr then some fun i => rnd (32 * b + i) else none) ((all.drop (32 * b)).take 32)
    { bytes := bs.flatMap fun b => packCodes f.width b.2, scales := bs.map fun b => BitVec.ofNat 8 b.1
      pair := all.drop (32 * n), nan := false, used := if sr then 32 * n else 0 }
  else
    let cs := vals.zipIdx.map fun v => convertVal f (if sr then some (rnd v.2) else none) v.1
    { bytes := packCodes f.width (cs.map (·.1)), scales := [], pair := r.pair, nan := cs.any (·.2)
      used := if sr then vals.length else 0 }

/-- Writes runs of bytes into the store. -/
def TileState.putAll (x : TileState) (ps : List (Nat × Bytes)) : TileState :=
  ps.foldl (fun (x : TileState) p => x.putStore p.1 p.2) x

/-- Runs a GATE whose values `src` gives (R98 to R103, R145 to R148). -/
def TileState.runGate (x : TileState) (e : QEntry) (src : Nat → F32) : TileState :=
  let s0 := (Gate.slot e.w 0).1
  let out := e.addr (Gate.out e.w)
  let x := { x with t := { x.t with regs := x.t.regs.initMs e.w } }
  if s0 = 0x12 then
    let a := e.addr (Gate.opA e.w)
    { x with t := { x.t with regs := { x.t.regs with
        consts := (List.range 128).map fun i => (i, f32r (f32v (x.word32 (a + 4 * i)))) } } }
  else if s0 = 0x13 then
    let r := x.t.regs
    x.putStore out ((List.range 16).flatMap (fun l => natLE (r.runMax l).toNat 4)
      ++ (List.range 16).flatMap fun l => natLE (r.runSum l).toNat 4)
  else
    let g := x.gateRun e src
    let c := x.t.regs.gateConvert e.w g.vals
    let x := x.putAll g.puts
    let x := if c.scales.isEmpty then x else x.putStore e.opB c.scales
    let x := if Gate.toSend e.w then { x with r := { x.r with sendQ := x.r.sendQ ++ c.bytes } } else x.putStore out c.bytes
    { t := { x.t with regs := { x.t.regs with m := g.m, s := g.s, pair := c.pair, rngCount := x.t.regs.rngCount + c.used } }
      r := { x.r with nonfinite := x.r.nonfinite || c.nan } }

end Sys2Proof.Machine
end

