-- ==== Sys2Proof/Machine/Tile.lean ====
section
/-!
DEFINITION. Tile programs (R131 to R170): the command unit, the four unit queues, the order of R139, DMA, SEND, and
the ends of a period in a tile.
-/

namespace Sys2Proof.Machine

/-! ### Units and queues (R136, R137) -/

/-- Queues: 0 array, 1 gate, 2 send, 3 DMA. -/
def unitOf (op : Nat) : Option Nat :=
  match op with
  | 0x01 | 0x02 => some 0
  | 0x03 => some 1
  | 0x04 => some 2
  | 0x05 | 0x06 => some 3
  | _ => none

/-- The queues named by UNITS (R153): bit 0 array, bit 1 gate, bit 2 DMA, bit 3 send. -/
def unitQueues (u : Nat) : List Nat :=
  (if bitAt u 0 then [0] else []) ++ (if bitAt u 1 then [1] else []) ++ (if bitAt u 2 then [3] else [])
    ++ (if bitAt u 3 then [2] else [])

def TileState.queue (x : TileState) (k : Nat) : List QEntry := nth x.t.queues k []
def TileState.setQueue (x : TileState) (k : Nat) (q : List QEntry) : TileState :=
  { x with t := { x.t with queues := setAt x.t.queues k q } }

/-- The innermost loop's advance (R160) of a command word. -/
def TileState.entryOf (x : TileState) (w : BitVec 128) : QEntry :=
  match x.t.loops with
  | f :: _ =>
    let on := Cmd.step w.toNat
    { id := x.t.nextId, word := w, iter := f.index, advance := if on then f.index * f.stride else 0
      far := if on then (f.count - 1 : Nat) * f.stride else 0 }
  | [] => { id := x.t.nextId, word := w, iter := 0, advance := 0, far := 0 }

/-- Closes the loop bodies that end at a command index (R160). -/
def loopBack (pc : Nat) : List LoopFrame → Nat × List LoopFrame
  | [] => (pc, [])
  | f :: r =>
    if pc = f.first + f.len then
      if f.index + 1 < f.count then (f.first, { f with index := f.index + 1 } :: r) else loopBack pc r
    else (pc, f :: r)

/-- The command unit goes on to the next command. -/
def TileState.nextPc (x : TileState) : TileState :=
  let n := loopBack (x.t.pc + 1) x.t.loops
  { x with t := { x.t with pc := n.1, loops := n.2, nextId := x.t.nextId + 1 } }

/-- The segment of the tile's program with a number, when the buffer holds it. -/
def TileState.segment (x : TileState) (k : Nat) : Option Segment :=
  x.r.segments.find? fun s => some s.image == x.t.program && s.number == k

/-- The command that the command unit is at, when the buffer holds it (R163). -/
def TileState.current (x : TileState) : Option (BitVec 128) :=
  (x.segment (x.t.pc / 64)).bind fun s => (nth s.words (x.t.pc % 64) none)

/-- The command that the command unit is at was read poisoned (R632). -/
def TileState.atPoison (x : TileState) : Bool :=
  x.t.phase == .running && (x.segment (x.t.pc / 64)).isSome && x.current.isNone

/-- The command unit places unit commands until a queue is full or another command is next (R136); at most 64 places
are free. -/
def TileState.pump : Nat → TileState → TileState
  | 0, x => x
  | n + 1, x =>
    match x.current with
    | none => x
    | some w => match unitOf (Cmd.op w.toNat) with
      | none => x
      | some k =>
        if (x.queue k).length < 16 then ((x.setQueue k (x.queue k ++ [x.entryOf w])).nextPc).pump n else x

/-! ### The order of R139 -/

/-- A run of store bytes. -/
abbrev Span := Nat × Nat

/-- Two runs share a 32-byte word. -/
def Span.meets (a b : Span) : Bool :=
  0 < a.2 && 0 < b.2 && a.1 / 32 ≤ (b.1 + b.2 - 1) / 32 && b.1 / 32 ≤ (a.1 + a.2 - 1) / 32

def spansMeet (a b : List Span) : Bool := a.any fun x => b.any fun y => Span.meets x y

/-- What a command reads and writes in the store. -/
structure Touch where
  reads : List Span
  writes : List Span
  deriving DecidableEq, Repr

/-- The DMA descriptor of a command, as the store holds it (R166). -/
def TileState.desc (x : TileState) (e : QEntry) : Image := leNat (x.getStore (e.addr (Dma.desc e.w)) 32)

/-- The store runs of a transfer, first address `a`. -/
def dmaSpans (d : Image) (a : Nat) : List Span :=
  (List.range (DmaDesc.rows d)).map fun i => (a + i * DmaDesc.tileStride d, DmaDesc.rowBytes d)

/-- The tile serves a tile id. -/
def TileState.isId (x : TileState) (id : Nat) : Bool := x.t.serves.map (·.val) == some id

/-- Reads and writes of a queued command. A SEND to the tile's own id writes in its own store. -/
def TileState.touch (x : TileState) (e : QEntry) : Touch :=
  let w := e.w
  match e.op with
  | 0x01 =>
    let f := tfmt (LoadW.wfmt w)
    { reads := (e.addr (LoadW.wAddr w), 16 * f.redLen * f.width / 8)
        :: if f.isMX then [(e.addr (LoadW.sAddr w), 16)] else [], writes := [] }
  | 0x02 =>
    let k := passCfg e
    let vs := (List.range (Pass.n w)).map fun j => (e.vecAddr j, ceilDiv (vecLen k.dir k.wf * k.af.width) 8)
    let sc := if k.af.isMX then [(e.addr (Pass.aScale w), Pass.n w)]
      else if k.wf.isInt ∧ Pass.close w then [(e.addr (Pass.aScale w), 4 * Pass.n w), (e.addr (Pass.wScale w), 64)] else []
    { reads := vs ++ sc, writes := [] }
  | 0x03 =>
    let n := Gate.beats w
    let fin := tfmt (Gate.inFmt w)
    let fout := tfmt (Gate.outFmt w)
    let opA := e.addr (Gate.opA w)
    let s0 := (Gate.slot w 0).1
    let state := if gateHas w 0x11 then [(e.opB, 512 + 96 * n)] else []
    if s0 = 0x12 then { reads := [(opA, 512)], writes := [] }
    else if s0 = 0x13 then { reads := [], writes := [(e.addr (Gate.out w), 128)] }
    else
      { reads := (if !Gate.src w || gateUses w 1 then [(opA, n * 2 * fin.width)] else [])
          ++ (if gateUses w 2 then [(e.opB, n * 2 * fin.width)] else []) ++ state
        writes := (if Gate.toSend w then [] else [(e.addr (Gate.out w), n * 2 * fout.width)])
          ++ (if fout.isMX then [(e.opB, ceilDiv n 2)] else []) ++ state }
  | 0x04 =>
    { reads := if Send.srcQ w then [] else [(e.addr (Send.srcAddr w), 32 * Send.words w)]
      writes := if x.isId (Send.dest w) then [(e.addr (Send.destAddr w), 32 * Send.words w)] else [] }
  | 0x05 =>
    { reads := [(e.addr (Dma.desc w), 32)], writes := dmaSpans (x.desc e) (e.addr (Dma.tileAddr w)) }
  | 0x06 =>
    { reads := (e.addr (Dma.desc w), 32) :: dmaSpans (x.desc e) (e.addr (Dma.tileAddr w)), writes := [] }
  | _ => { reads := [], writes := [] }

/-- The whole store. -/
def wholeStore : List Span := [(0, 131072)]

/-- What the transfers in progress and the TRYs without a result still touch (R139, R186), each with its place in program
order. -/
def TileState.underWay (x : TileState) : List (Nat × Touch) :=
  let send (f : SendFlight) : Touch :=
    ⟨f.span, if x.isId f.dest then f.packets.map fun p => (p.1, p.2.length) else []⟩
  let dma (f : DmaFlight) : Touch := if f.inbound then ⟨[], f.span⟩ else ⟨f.span, []⟩
  (x.r.sends.map fun f => (f.cmd.id, send f)) ++ (x.r.dmas.map fun f => (f.cmd.id, dma f))
    ++ x.r.tries.map fun m => (m.id, ⟨[], [(m.addr, 32)]⟩)

/-- What the earlier, unfinished commands touch (R139). A DMA whose descriptor an earlier one of them is still to write touches
the whole store. -/
def TileState.earlier (x : TileState) (id : Nat) : List Touch :=
  let flights := x.underWay.filter fun p => decide (p.1 < id)
  let q := x.t.queues.flatten.filter fun e => e.id < id
  let base := flights ++ q.map fun e => (e.id, x.touch e)
  let queued := q.map fun e =>
    if e.op = 0x05 ∨ e.op = 0x06 then
      let d : List Span := [(e.addr (Dma.desc e.w), 32)]
      if base.any fun b => b.1 < e.id && spansMeet b.2.writes d then
        (if e.op = 0x05 then { reads := d, writes := wholeStore } else { reads := wholeStore, writes := [] })
      else x.touch e
    else x.touch e
  queued ++ flights.map (·.2)

/-- A command that touches `c` may access the store. -/
def clearOf (es : List Touch) (c : Touch) : Bool :=
  es.all fun u => !spansMeet u.writes c.reads && !spansMeet u.writes c.writes && !spansMeet u.reads c.writes

/-- A queued command of a tile may run under R139. -/
def Device.mayRun (d : Device) (t : Fin 4160) (e : QEntry) : Bool :=
  let x := d.tile t
  clearOf (x.earlier e.id) (x.touch e)

/-- The result of a TRY is written once R139 lets its word be written (R186): 0 or 1, zero-extended to the word. -/
def TileState.landTries (x : TileState) : TileState :=
  x.r.tries.foldl (fun (x : TileState) m => match m.result with
    | some got =>
      if clearOf (x.earlier m.id) { reads := [], writes := [(m.addr, 32)] } then
        let y : TileState := { x with r := { x.r with tries := x.r.tries.filter (· != m) } }
        y.putStore m.addr (natLE got.toNat 32)
      else x
    | none => x) x

/-! ### Signals and waits of a tile (R137, R186, R187) -/

def QEntry.isSignal (e : QEntry) : Bool := e.op == 0x08
def QEntry.isWait (e : QEntry) : Bool := e.op == 0x07

/-- Every earlier command of the named units has finished (R164, R187). -/
def TileState.finished (x : TileState) (units id : Nat) : Bool :=
  let qs := unitQueues units
  (qs.all fun k => (x.queue k).all fun e => e.isSignal || id ≤ e.id)
    && (!qs.contains 0 || x.r.checks.all fun c => id ≤ c.id)
    && (!qs.contains 2 || x.r.sends.all fun f => id ≤ f.cmd.id)
    && (!qs.contains 3 || x.r.dmas.all fun f => id ≤ f.cmd.id)

/-- The tile's own consequences of a change: marks at the heads of queues fall away, signals that are due are sent, a
wait that every named unit has reached is sent (log entry 51), and the command unit goes on. -/
def TileState.settle (x : TileState) (t : Fin 4160) (j : BitVec 16) : TileState × List HookOp :=
  let x := x.landTries
  if x.t.phase ≠ .running then (x, []) else
  let x : TileState := { x with t := { x.t with queues := x.t.queues.map fun (q : List QEntry) => q.dropWhile QEntry.isSignal } }
  let ready := x.r.marks.filter fun (m : SignalMark) => x.finished m.units.toNat m.id
  let ops := ready.map fun (m : SignalMark) => HookOp.signal (.tile t) j m.hook m.count
  let x : TileState := { x with r := { x.r with marks := x.r.marks.filter fun (m : SignalMark) => !x.finished m.units.toNat m.id } }
  let atHead (m : WaitMark) : Bool := (unitQueues m.units.toNat).all fun k => ((x.queue k).head?.map (fun (e : QEntry) => e.id)) == some m.id
  let due := x.r.waits.filter fun (m : WaitMark) => !m.sent && atHead m
  let ops := ops ++ due.map fun (m : WaitMark) => HookOp.wait (.tile t) m.hook m.count
  let x : TileState := { x with r := { x.r with waits := x.r.waits.map fun (m : WaitMark) => if atHead m then { m with sent := true } else m } }
  let ops := ops ++ (x.r.tries.filter fun m => !m.sent).map fun m => HookOp.try (.tile t) m.hook m.count
  let x : TileState := { x with r := { x.r with tries := x.r.tries.map fun m => { m with sent := true } } }
  (x.pump 80, ops)

/-- A signal that a tile sends for a finished transfer or at END; an amount of 0 sends none. -/
def Device.tileSignal (d : Device) (t : Fin 4160) (hook n : Nat) : Device :=
  match d.tileJob t with
  | some j => if n = 0 then d
      else { d with hooks := { d.hooks with flight := d.hooks.flight ++ [.signal (.tile t) j hook n] } }
  | none => d

/-- The tile's period is withheld (R552). -/
def Device.tileWithhold (d : Device) (t : Fin 4160) (st : Status) : Device :=
  match d.tileJob t with
  | some j => d.endWith j st
  | none => d

/-- R168: the period is withheld with ST_ACCESS, and the job stopped. -/
def Device.tileAccess (d : Device) (t : Fin 4160) : Device :=
  match d.tileJob t with
  | some j => (d.withholdStop j stAccess).cleanUp j
  | none => d

/-- The tile consumes a poisoned value (R112): its job's period is withheld, and the first consumption of a period
counts towards the tile's bucket (R664; log entry 58). -/
def Device.consumePoison (d : Device) (t : Fin 4160) : Device :=
  let first := match (d.tileJob t).bind d.openPeriod with
    | some (_, _, p) => p.cause.isNone
    | none => false
  let d := d.tileWithhold t stUncorrectable
  if first then d.addBucket t else d

/-- What a tile does by itself after a change: `TileState.settle`; a poisoned command is consumed when it is next (R112, R632; log
entry 63). -/
def Device.settleTile (d : Device) (t : Fin 4160) : Device :=
  match d.tileJob t with
  | none => d.setTile t (d.tile t).landTries
  | some j =>
    let (x, ops) := (d.tile t).settle t j
    let d := d.setTile t x
    let d := { d with hooks := { d.hooks with flight := d.hooks.flight ++ ops } }
    if x.atPoison then d.consumePoison t else d

/-! ### Reads of main memory by a tile -/

/-- Reads `n` bytes of a view for a tile (R612, R632): bytes and the offsets of poisoned ones. -/
def Device.dmaRead (d : Device) (p a n : Nat) (me : List LineError) : Device × Bytes × List Nat :=
  let lines := (List.range ((a + n + 255) / 256 - a / 256)).map fun i => (a / 256 + i) * 256
  let acc := lines.foldl (fun (s : Device × List Nat × List (Nat × Byte)) l => match s.1.viewPhys p l with
    | some x =>
      let errs := (me.filter fun q => q.set.val == physSet x && q.line.toNat == physLine x).flatMap (·.errs)
      let (d, bad, wrong) := s.1.demandRead x errs
      (d, s.2.1 ++ bad, s.2.2 ++ wrong)
    | none => s) (d, [], [])
  let d := acc.1
  let cells : List (Byte × Bool) := (List.range n).map fun i => match d.viewPhys p (a + i) with
    | some x =>
      let flip : Byte := ((acc.2.2.find? fun (w : Nat × Byte) => w.1 == x).map fun (w : Nat × Byte) => w.2).getD 0
      (d.mem.main.byte x ^^^ flip, acc.2.1.contains x)
    | none => (0, false)
  (d, cells.map (·.1), (cells.zipIdx.filter fun (c : (Byte × Bool) × Nat) => c.1.2).map fun (c : (Byte × Bool) × Nat) => c.2)

/-- Errors of the system cache that a read meets (R626): an uncorrectable line that is clean is fetched again; a dirty one
poisons the beats. -/
def Device.cacheErrors (d : Device) (ce : ChipErrors) : Device :=
  let d := d.chipCount 0 ce.cacheCorrected ce.cacheBad.length
  ce.cacheBad.foldl (fun (d : Device) b =>
    let key := b.1.val * 2 ^ 27 + b.2.1.toNat
    match d.mem.cache.find key with
    | none => d
    | some l =>
      if l.dirty then { d with mem := { d.mem with main := d.mem.main.spoil (b.2.2.map fun i => key * 16 + i.val) } }
      else { d with mem := { d.mem with cache := d.mem.cache.del key } }) d

/-! ### START, LOOP, BRANCH_EPOCH, END (R156 to R164) -/

/-- A tile accepts its START (R114, R159, R162, R545, R546). The epoch is the one that the period latched, which its record
carries too. A TRY of the period before, without its result yet, stands before every command. -/
def Device.acceptStart (d : Device) (t : Fin 4160) : Device :=
  let x := d.tile t
  match x.t.phase == .starting, (d.tileJob t).bind d.openPeriod with
  | true, some (_, _, p) =>
    if !d.domOn (groupOf t) ∨ (x.segment 0).isNone then d
    else
      let d := d.bump
      let regs : TileRegs := { TileRegs.fresh with undef := d.clk.nonce * 4160 + t.val, rngSeed := x.t.regs.rngSeed
                                                   rngCount := x.t.regs.rngCount }
      let tl : Tile := { x.t with phase := .running, pc := 0, loops := [], nextId := 1, queues := [[], [], [], []], regs
                                  epoch := p.epoch }
      let y : TileState := { t := tl, r := { TileRun.fresh with
        segments := x.r.segments, tries := x.r.tries.map fun m => { m with id := 0 } } }
      let w := mkImage [(0, 64, x.t.startWord), (64, 16, tl.epoch.toNat), (80, 176, x.t.startWord / 2 ^ 80)]
      (d.setTile t (y.putStore startWordAddr (natLE w 32))).settleTile t
  | _, _ => d

/-- START (R159). -/
def execTileStart (now : Time) (tile : Fin 4160) (s : State) : Host.Outcome State Fault Refusal :=
  s.onUp now fun d => d.acceptStart tile

/-- A meaning's shell for a command of a running tile. -/
def State.onTile (s : State) (now : Time) (t : Fin 4160) (f : Device → TileState → Device) :
    Host.Outcome State Fault Refusal :=
  s.onUp now fun d => if (d.tile t).t.phase = .running then (f d (d.tile t)).settleTile t else d

/-- The command unit acts on the command of opcode `op` that it is at. -/
def Device.atCommand (d : Device) (t : Fin 4160) (op : Nat) (f : TileState → BitVec 128 → Option TileState) : Device :=
  let x := d.tile t
  match x.current with
  | some w => if Cmd.op w.toNat = op then match f x w with
      | some y => d.setTile t y
      | none => d
    else d
  | none => d

/-- LOOP (R160). -/
def execLoopBody (now : Time) (tile : Fin 4160) (s : State) : Host.Outcome State Fault Refusal :=
  s.onTile now tile fun d _ => d.atCommand tile 0x09 fun x w =>
    let f : LoopFrame := { first := x.t.pc + 1, len := LoopCmd.len w.toNat, count := LoopCmd.count w.toNat, index := 0
                           stride := LoopCmd.stride w.toNat }
    some { x with t := { x.t with pc := x.t.pc + 1, nextId := x.t.nextId + 1, loops := f :: x.t.loops } }

/-- BRANCH_EPOCH (R156): the latched epoch is compared (R159). -/
def execBranchEpoch (now : Time) (tile : Fin 4160) (s : State) : Host.Outcome State Fault Refusal :=
  s.onTile now tile fun d _ => d.atCommand tile 0x0A fun x w =>
    let eq := x.t.epoch.toNat == Branch.epoch w.toNat
    if eq != Branch.cond w.toNat then
      some { x with t := { x.t with pc := Branch.target w.toNat, nextId := x.t.nextId + 1 } }
    else some x.nextPc

/-- The conditions of R164 hold: units idle, SENDs acknowledged, DMA_OUTs visible, every pass compared. -/
def TileState.allDone (x : TileState) : Bool :=
  x.t.queues.all (·.isEmpty) && x.r.sends.isEmpty && x.r.dmas.isEmpty && x.r.checks.isEmpty && x.r.waits.isEmpty
    && x.r.marks.isEmpty && x.r.closing.isEmpty && x.r.drains.isEmpty

/-- END (R164). -/
def Device.tileEnd (d : Device) (t : Fin 4160) : Device :=
  let x := d.tile t
  match x.current, d.tileJob t with
  | some w, some j =>
    if Cmd.op w.toNat = 0x0F ∧ x.allDone then
      let d := d.setTile t { t := { x.t with phase := .idle, pc := 0, loops := [] }, r := { x.r with segments := [] } }
      (d.tileSignal t (EndCmd.hook w.toNat) (EndCmd.count w.toNat)).tileDone j t x.r.nonfinite
    else d
  | _, _ => d

/-- END (R164). -/
def execEndProgram (now : Time) (tile : Fin 4160) (s : State) : Host.Outcome State Fault Refusal :=
  s.onTile now tile fun d _ => d.tileEnd tile

/-- Segments that stay in the command buffer: the current one and the bodies of active loops (R162). -/
def TileState.kept (x : TileState) : List Nat :=
  let cur := x.t.pc / 64
  let body := x.t.loops.flatMap fun f =>
    (List.range (((f.first + f.len - 1) / 64) + 1)).filter fun s => f.first / 64 ≤ s
  (cur :: body).eraseDups

/-- The numbers of the segments that the buffer is to hold: those it keeps, and in its other places the segments that follow
in program order (R162). -/
def TileState.wanted (x : TileState) (n : Nat) : List Nat :=
  let keep := x.kept
  let next := ((List.range 8).map fun k => x.t.pc / 64 + 1 + k).filter fun s => !keep.contains s && s < n
  keep ++ next.take (8 - keep.length)

/-- The refill DMA (R162): a wanted segment that the buffer does not hold is read from the program image in main memory through
the system cache. -/
def Device.refill (d : Device) (t : Fin 4160) (me : List LineError) : Device :=
  match (d.tile t).t.program with
  | none => d
  | some c =>
    let x := d.tile t
    let (d, segs) := (x.wanted c.segments).foldl (fun (s : Device × List Segment) k =>
      match x.segment k with
      | some g => (s.1, s.2 ++ [g])
      | none =>
        let a := c.base + 1024 * k
        let (e, bs, bad) := s.1.dmaRead c.part a 1024 me
        (e.cacheTouch c.part a 1024 0 false, s.2 ++ [Segment.ofBytes c k bs bad])) (d, [])
    let y := d.tile t
    (d.setTile t { y with r := { y.r with segments := segs } }).settleTile t

/-- REFILL_DONE (R162), with the errors that its reads meet (R612, R626). -/
def execRefillDone (now : Time) (found : RefillRead) (s : State) : Host.Outcome State Fault Refusal :=
  s.onUp now fun d => (d.cacheErrors found.chip).refill found.tile found.lines

/-! ### Hook commands (R137, R186 to R188) -/

/-- Places a command in the queues that it names, when each has a free place. -/
def TileState.placeAll (x : TileState) (w : BitVec 128) : Option TileState :=
  let ks := unitQueues (HookCmd.units w.toNat)
  if ks.all fun k => (x.queue k).length < 16 then
    some (ks.foldl (fun (y : TileState) k => y.setQueue k (y.queue k ++ [x.entryOf w])) x)
  else none

/-- HOOK_WAIT (R186): a barrier in the queue of every named unit. -/
def execHookWait (now : Time) (tile : Fin 4160) (s : State) : Host.Outcome State Fault Refusal :=
  s.onTile now tile fun d _ => d.atCommand tile 0x07 fun x w =>
    if HookCmd.isTry w.toNat then none else
    (x.placeAll w).map fun y =>
      let m : WaitMark := { id := x.t.nextId, units := BitVec.ofNat 4 (HookCmd.units w.toNat), hook := HookCmd.hook w.toNat
                            count := HookCmd.count w.toNat, sent := false, released := false }
      ({ y with r := { y.r with waits := y.r.waits ++ [m] } }).nextPc

/-- HOOK_WAIT with TRY (R186): blocks nothing; the TRY is sent at once, and its result written once R139 lets its word be
written. -/
def Device.tileTry (d : Device) (t : Fin 4160) : Device :=
  d.atCommand t 0x07 fun x w =>
    if HookCmd.isTry w.toNat then
      let e := x.entryOf w
      let m : TryMark := { id := e.id, addr := e.addr (HookCmd.resultAddr w.toNat), hook := HookCmd.hook w.toNat
                           count := HookCmd.count w.toNat, sent := false, result := none }
      some ({ x with r := { x.r with tries := x.r.tries ++ [m] } }).nextPc
    else none

/-- HOOK_WAIT with TRY (R186). -/
def execHookWaitTry (now : Time) (tile : Fin 4160) (s : State) : Host.Outcome State Fault Refusal :=
  s.onTile now tile fun d _ => d.tileTry tile

/-- HOOK_SIGNAL (R187): marks its place in the named queues. -/
def execHookSignal (now : Time) (tile : Fin 4160) (s : State) : Host.Outcome State Fault Refusal :=
  s.onTile now tile fun d _ => d.atCommand tile 0x08 fun x w =>
    (x.placeAll w).map fun y =>
      let m : SignalMark := { id := x.t.nextId, units := BitVec.ofNat 4 (HookCmd.units w.toNat)
                              hook := HookCmd.hook w.toNat, count := HookCmd.count w.toNat }
      ({ y with r := { y.r with marks := y.r.marks ++ [m] } }).nextPc

/-- A wait of a tile is over: its entries leave the queues. -/
def TileState.endWait (x : TileState) (id : Nat) : TileState :=
  { t := { x.t with queues := x.t.queues.map fun q => q.filter fun e => e.id != id }
    r := { x.r with waits := x.r.waits.filter fun m => m.id != id } }

/-- HOOK_WAIT_DONE (R188): the units of a released wait resume. -/
def execHookWaitDone (now : Time) (tile : Fin 4160) (s : State) : Host.Outcome State Fault Refusal :=
  s.onTile now tile fun d x => match x.r.waits.find? (·.released) with
    | some m => d.setTile tile (x.endWait m.id)
    | none => d

/-! ### The array and the gate unit -/

/-- Takes the head of a unit's queue when its opcode is `op` and R139 lets it run. -/
def Device.unitHead (d : Device) (t : Fin 4160) (k op : Nat) : Option QEntry :=
  match (d.tile t).queue k with
  | e :: _ => if e.op = op ∧ d.mayRun t e then some e else none
  | [] => none

def Device.popUnit (d : Device) (t : Fin 4160) (k : Nat) : Device :=
  let x := d.tile t
  d.setTile t (x.setQueue k (x.queue k).tail)

/-- LOAD_W (R92). A poisoned byte makes the block bad; the period is withheld when a PASS uses it (R111, R112). -/
def execLoadW (now : Time) (tile : Fin 4160) (se : StoreErrors) (s : State) : Host.Outcome State Fault Refusal :=
  s.onTile now tile fun d x => match d.unitHead tile 0 0x01 with
    | none => d
    | some e =>
      let (d, bad) := d.storeRead tile se (x.touch e).reads
      let y := d.tile tile
      let b := y.block e bad
      (d.setTile tile { y with t := { y.t with regs := { y.t.regs with
        staging := some b, checkStaged := some b.checked } } }).popUnit tile 0

/-- The block that a PASS commits or uses. -/
def TileState.usedBad (x : TileState) : Bool :=
  match x.t.regs.staging with
  | some b => b.bad
  | none => (x.t.regs.stationary.map (·.bad)).getD false

/-- PASS (R95). A pass that opens a group waits while the half it uses has not drained (R87). -/
def execArrayPass (now : Time) (tile : Fin 4160) (se : StoreErrors) (s : State) : Host.Outcome State Fault Refusal :=
  s.onTile now tile fun d x => match d.unitHead tile 0 0x02 with
    | none => d
    | some e =>
      if !x.r.groupOpen ∧ 2 ≤ x.r.closing.length then d
      else
        let (d, bad) := d.storeRead tile se (x.touch e).reads
        if bad ∨ x.usedBad then d.consumePoison tile
        else (d.setTile tile ((d.tile tile).runPass e)).popUnit tile 0

/-- The GATE that runs next of the two sources (R138): the oldest of that SRC before any barrier. -/
def TileState.gateNext (x : TileState) (fromDrain : Bool) : Option QEntry :=
  ((x.queue 1).takeWhile fun e => !e.isWait).find? fun e => e.op == 0x03 && Gate.src e.w == fromDrain

/-- DRAIN (R85): into the gate pipeline, when a GATE waits for the group and none before it is still to be taken. -/
def execDrain (now : Time) (tile : Fin 4160) (s : State) : Host.Outcome State Fault Refusal :=
  s.onTile now tile fun d x =>
    if x.r.drains.isEmpty ∧ (x.queue 1).any fun e => e.op == 0x03 && Gate.src e.w then
      d.setTile tile x.runDrain
    else d

/-- Runs a GATE that has its values. -/
def Device.runGate (d : Device) (t : Fin 4160) (se : StoreErrors) (e : QEntry) : Device :=
  let x := d.tile t
  let (d, bad) := d.storeRead t se (x.touch e).reads
  if bad then d.consumePoison t
  else
    let y := d.tile t
    let f := tfmt (Gate.inFmt e.w)
    let a := e.addr (Gate.opA e.w)
    let vals := ((y.r.drains.head?.map (·.1)).getD [])
    let src (k : Nat) : F32 := if Gate.src e.w then nth vals k 0 else y.operand f a k
    let z := y.runGate e src
    let z := if Gate.src e.w then { z with r := { z.r with drains := z.r.drains.tail } } else z
    d.setTile t (z.setQueue 1 ((z.queue 1).filter fun q => q.id != e.id))

/-- GATE (R146). -/
def execGateChain (now : Time) (tile : Fin 4160) (fromDrain : Bool) (se : StoreErrors) (s : State) :
    Host.Outcome State Fault Refusal :=
  s.onTile now tile fun d x => match x.gateNext fromDrain with
    | none => d
    | some e =>
      if !d.mayRun tile e ∨ (fromDrain ∧ x.r.drains.isEmpty) then d else d.runGate tile se e

/-- CHECKSUM_COMPARE (R660, R663): the oldest pass that is still to be compared, with what the faults of the array's adders make of
its sums. -/
def execChecksumCompare (now : Time) (tile : Fin 4160) (faults : List (Nat × SumFault)) (s : State) :
    Host.Outcome State Fault Refusal :=
  s.onTile now tile fun d x => match x.r.checks with
    | [] => d
    | c :: rest =>
      let d := d.setTile tile { x with r := { x.r with checks := rest } }
      if c.agrees faults then d else (d.tileWithhold tile stCheckMismatch).addBucket tile

/-! ### SEND (R149 to R151) and its packets (R175) -/

/-- Cuts the data of a transfer that goes to address `a` into packets of at most 512 bytes, in order. -/
def meshPackets (a : Nat) (bs : Bytes) : List (Nat × Bytes) :=
  (List.range (ceilDiv bs.length 512)).map fun i => (a + 512 * i, (bs.drop (512 * i)).take 512)

/-- Flits of a packet: its header, and one for each 32 bytes of data. -/
def packetFlits (bs : Bytes) : Nat := 1 + ceilDiv bs.length 32

/-- SEND (R151): cancelled before any word moves when nobody serves the destination, or when a byte is poisoned. -/
def execMeshSend (now : Time) (tile : Fin 4160) (se : StoreErrors) (s : State) : Host.Outcome State Fault Refusal :=
  s.onTile now tile fun d x => match d.unitHead tile 2 0x04 with
    | none => d
    | some e =>
      let n := 32 * Send.words e.w
      if Send.srcQ e.w ∧ x.r.sendQ.length < n then d
      else if (d.serving (Send.dest e.w)).isNone then d.tileWithhold tile stTileFenced
      else
        let span := (x.touch e).reads
        let (d, bad) := d.storeRead tile se span
        if bad then d.consumePoison tile
        else
          let y := d.tile tile
          let data := if Send.srcQ e.w then y.r.sendQ.take n else y.getStore (e.addr (Send.srcAddr e.w)) n
          let f : SendFlight := { cmd := e, dest := Send.dest e.w
                                  packets := meshPackets (e.addr (Send.destAddr e.w)) data, span
                                  hook := Send.hook e.w, count := Send.count e.w }
          (d.setTile tile { y with r := { y.r with sends := y.r.sends ++ [f]
                                                   sendQ := if Send.srcQ e.w then y.r.sendQ.drop n else y.r.sendQ } }).popUnit
            tile 2

/-- A transfer of a tile may end while the tile runs or stops (R165). -/
def TileState.live (x : TileState) : Bool := x.t.phase == .running || x.t.phase == .stopping

/-- SEND_ACKNOWLEDGED (R150): every packet stands in the destination's store, and SIG_HOOK is signalled. SENDs to one
destination land in the order of sending; those to different ones in any order (R178). -/
def Device.sendAck (d : Device) (t : Fin 4160) (i : Nat) : Device :=
  let x := d.tile t
  match x.r.sends[i]? with
  | none => d
  | some f =>
    if !x.live ∨ (x.r.sends.take i).any fun g => g.dest == f.dest then d else
    let d := d.setTile t { x with r := { x.r with sends := x.r.sends.eraseIdx i } }
    match d.serving f.dest with
    | none => d.tileWithhold t stTileFenced
    | some u => ((d.setTile u ((d.tile u).putAll f.packets)).tileSignal t f.hook f.count).settleTile t

/-- SEND_ACKNOWLEDGED (R150). -/
def execSendAcknowledged (now : Time) (send : SendRef) (s : State) : Host.Outcome State Fault Refusal :=
  s.onUp now fun d => d.sendAck send.tile send.index

/-! ### DMA (R166 to R170, R822) -/

/-- The memory address of row `i` (R160, R166). -/
def dmaRow (d : Image) (e : QEntry) (i : Nat) : Int :=
  let step : Int := if Cmd.step e.w then e.iter * DmaDesc.loopStride d else 0
  (DmaDesc.memAddr d : Int) + step + (i * DmaDesc.memStride d : Nat)

/-- A transfer stays in the store when it begins at `a`. -/
def dmaFits (d : Image) (a : Int) : Bool :=
  decide (0 ≤ a) && decide (a + ((DmaDesc.rows d - 1) * DmaDesc.tileStride d + DmaDesc.rowBytes d : Nat) ≤ 131072)

/-- R9, R166, R167 and the end of the store in any iteration (R822). -/
def dmaDescOk (d : Image) (e : QEntry) (out : Bool) : Bool :=
  let a := if out then 256 else 32
  rsvdZero d DmaDesc.rsvd && DmaDesc.cache d != 3 && (TFmt.ofCode (DmaDesc.format d)).isSome
    && DmaDesc.rows d != 0 && DmaDesc.rowBytes d % (if out then 256 else 32) == 0 && DmaDesc.tileStride d % 32 == 0
    && DmaDesc.memAddr d % a == 0 && DmaDesc.memStride d % a == 0
    && (!Cmd.step e.w || DmaDesc.loopStride d % (a : Int) == 0)
    && dmaFits d (Dma.tileAddr e.w) && dmaFits d ((Dma.tileAddr e.w : Int) + e.far)
    && dmaFits d ((Dma.tileAddr e.w : Int) + e.advance)

/-- Where a row of a transfer leads: outside the view, nowhere (R216), or a view address. -/
inductive RowHit where
  | outside
  | nowhere
  | view (a : Nat)
  deriving DecidableEq, Repr

/-- Resolves one row (R168, R213 to R217). -/
def Device.rowHit (d : Device) (r : JobRef) (a : Int) (n : Nat) : RowHit :=
  if a < 0 then .outside else
  let a := a.toNat
  if inKvWindow a then
    if a / 2 ^ 19 ≠ (a + n - 1) / 2 ^ 19 then .outside
    else match d.kvResolve r a, d.kvResolve r (a + n - 1) with
      | .unmapped, _ => .nowhere
      | .addr v, .addr _ => if d.inView r.part v n then .view v else .outside
      | _, _ => .outside
  else if d.inView r.part a n then .view a else .outside

/-- Starts a DMA_IN or DMA_OUT whose descriptor has been checked; a row outside the view cancels it (R168). -/
def Device.startDma (d : Device) (t : Fin 4160) (r : JobRef) (e : QEntry) (out : Bool) (me : List LineError) : Device :=
  let x := d.tile t
  let c := x.desc e
  let n := DmaDesc.rowBytes c
  let a0 := e.addr (Dma.tileAddr e.w)
  let rows := (List.range (DmaDesc.rows c)).map fun i =>
    (a0 + i * DmaDesc.tileStride c, d.rowHit r (dmaRow c e i) n)
  if rows.any fun w => w.2 == .outside then d.tileAccess t
  else
    let f : DmaFlight := { cmd := e, inbound := !out, runs := [], bad := [], pol := DmaDesc.cache c, span := dmaSpans c a0
                           hook := Dma.hook e.w, count := Dma.count e.w }
    let (d, f) := rows.foldl (fun (s : Device × DmaFlight) w => match w.2, out with
      | .view v, true => (s.1, { s.2 with runs := s.2.runs ++ meshPackets v (x.getStore w.1 n) })
      | .view v, false =>
        let (d, bs, bad) := s.1.dmaRead r.part v n me
        (d.cacheTouch r.part v n f.pol false,
         { s.2 with runs := s.2.runs ++ meshPackets w.1 bs, bad := s.2.bad ++ bad.map (w.1 + ·) })
      | .nowhere, false => (s.1, { s.2 with runs := s.2.runs ++ meshPackets w.1 (List.replicate n 0) })
      | _, _ => s) (d, f)
    let x := d.tile t
    (d.setTile t { x with r := { x.r with dmas := x.r.dmas ++ [f] } }).popUnit t 3

/-- Some row of a transfer goes through the KV page table (R213). -/
def kvRows (c : Image) (e : QEntry) : Bool :=
  (List.range (DmaDesc.rows c)).any fun i => decide (0 ≤ dmaRow c e i) && inKvWindow (dmaRow c e i).toNat

/-- The read of a DMA command's descriptor from the store (R109 to R112): none when a byte of it is poisoned. -/
def Device.readDesc (d : Device) (t : Fin 4160) (e : QEntry) (se : StoreErrors) : Device × Bool :=
  d.storeRead t se [(e.addr (Dma.desc e.w), 32)]

/-- DMA_IN (R822), with the errors that its reads meet (R109, R612, R626, R627). -/
def execDmaIn (now : Time) (tile : Fin 4160) (found : DmaReads) (ce : ChipErrors) (s : State) :
    Host.Outcome State Fault Refusal :=
  s.onTile now tile fun d x => match d.unitHead tile 3 0x05, (d.tileJob tile).bind d.job with
    | some e, some r =>
      let (d, bad) := d.readDesc tile e found.desc
      if bad then d.consumePoison tile
      else if !dmaDescOk (x.desc e) e false then d.tileAccess tile
      else
        let kv := kvRows (x.desc e) e
        let d := if kv then d.chipCount 8 ce.kvCorrected ce.kvBad.toNat else d
        if kv ∧ ce.kvBad then d.tileWithhold tile stUncorrectable
        else (d.cacheErrors ce).startDma tile r e false found.lines
    | _, _ => d

/-- DMA_OUT (R822): a poisoned byte never leaves the tile (R112). -/
def execDmaOut (now : Time) (tile : Fin 4160) (se : StoreErrors) (s : State) : Host.Outcome State Fault Refusal :=
  s.onTile now tile fun d x => match d.unitHead tile 3 0x06, (d.tileJob tile).bind d.job with
    | some e, some r =>
      let (d, bad) := d.readDesc tile e se
      if bad then d.consumePoison tile
      else if !dmaDescOk (x.desc e) e true then d.tileAccess tile
      else
        let (d, bad) := d.storeRead tile { se with corrected := 0 } (x.touch e).reads
        if bad then d.consumePoison tile else d.startDma tile r e true []
    | _, _ => d

/-- The oldest transfer of a direction. -/
def TileState.flightOf (x : TileState) (inbound : Bool) : Option DmaFlight := x.r.dmas.find? fun f => f.inbound == inbound

def TileState.endFlight (x : TileState) (f : DmaFlight) : TileState :=
  { x with r := { x.r with dmas := x.r.dmas.filter fun g => g.cmd.id != f.cmd.id } }

/-- DMA_IN_LANDED (R170): the bytes stand in the store, poisoned ones included (R111). -/
def execDmaInLanded (now : Time) (tile : Fin 4160) (s : State) : Host.Outcome State Fault Refusal :=
  s.onTile now tile fun d x => match x.flightOf true with
    | none => d
    | some f =>
      let y := (x.endFlight f).putAll f.runs
      let y := { y with t := { y.t with poison := (f.bad ++ y.t.poison).mergeSort } }
      (d.setTile tile y).tileSignal tile f.hook f.count

/-- DMA_OUT_VISIBLE (R169): whole lines, and then the signal. -/
def Device.dmaVisible (d : Device) (t : Fin 4160) : Device :=
  let x := d.tile t
  match x.flightOf false, (d.tileJob t).bind d.job with
  | some f, some r =>
    if !x.live then d else
    let d := d.setTile t (x.endFlight f)
    let d := f.runs.foldl (fun (d : Device) w =>
      let d := d.writeViewBytes r.part w.1 w.2
      let d := (List.range (w.2.length / 256)).foldl (fun (d : Device) i => match d.viewPhys r.part (w.1 + 256 * i) with
        | some y => d.wroteLine y
        | none => d) d
      d.cacheTouch r.part w.1 w.2.length f.pol true) d
    (d.tileSignal t f.hook f.count).settleTile t
  | _, _ => d

/-- DMA_OUT_VISIBLE (R169). -/
def execDmaOutVisible (now : Time) (tile : Fin 4160) (s : State) : Host.Outcome State Fault Refusal :=
  s.onUp now fun d => d.dmaVisible tile

/-! ### TILE_STOPPED and TILE_SCRUB (R113, R165) -/

/-- No signal of the tile is still on its way. -/
def Device.signalsGone (d : Device) (t : Fin 4160) : Bool :=
  d.hooks.flight.all fun o => match o with
    | .signal w _ _ _ => w != .tile t
    | _ => true

/-- A cancelled tile reports that it has stopped (R165); with the last one the period's clean-up follows (R551). -/
def Device.tileStopped (d : Device) (t : Fin 4160) : Device :=
  let x := d.tile t
  if x.t.phase ≠ .stopping ∨ !x.r.sends.isEmpty ∨ !x.r.dmas.isEmpty ∨ !d.signalsGone t then d
  else
    let d := d.setTile t { t := { x.t with phase := .idle, pc := 0, loops := [] }, r := { TileRun.fresh with segments := [] } }
    match x.t.job with
    | none => d
    | some j => match d.run j with
      | none => d
      | some y =>
        let d := d.setRun j { y with stopWait := y.stopWait.filter (· != t) }
        ((d.cleanUp j).startPlanners).settleStarts

/-- TILE_STOPPED (R165). -/
def execTileStopped (now : Time) (tile : Fin 4160) (s : State) : Host.Outcome State Fault Refusal :=
  s.onUp now fun d => d.tileStopped tile

/-- TILE_SCRUB (R113, R664): a single-bit error is rewritten and counted; an uncorrectable word stays poisoned. -/
def execTileScrub (now : Time) (tile : Fin 4160) (word : Fin 4096) (finding : ScrubFinding) (s : State) :
    Host.Outcome State Fault Refusal :=
  s.onUp now fun d =>
    if !d.domOn (groupOf tile) then d else
    let x := d.tile tile
    match finding with
    | .clean => d
    | .corrected => d.setTile tile { x with t := { x.t with ceCount := min 65535 (x.t.ceCount + 1) } }
    | .uncorrectable =>
      let new := ((List.range 32).map (32 * word.val + ·)).filter fun a => !x.t.poison.contains a
      (d.setTile tile { x with t := { x.t with poison := (new ++ x.t.poison).mergeSort } }).addBucket tile

end Sys2Proof.Machine
end

