-- ==== Sys2Proof/Machine/HookRows.lean ====
section
/-!
DEFINITION. The operations at the Hook array (R178, R181 to R189): each row applies one operation.
-/

namespace Sys2Proof.Machine

/-- Who sent an operation. -/
def HookOp.who : HookOp → Requester
  | .signal w _ _ _ => w
  | .wait w _ _ => w
  | .try w _ _ => w

/-- The operation in flight at a place, when it is the oldest of its requester (R178). -/
def HookArray.next (a : HookArray) (i : Nat) : Option HookOp :=
  match a.flight[i]? with
  | some o => if (a.flight.take i).any fun p => p.who == o.who then none else some o
  | none => none

/-- An operation has been applied: it is no longer in flight. -/
def Device.landed (d : Device) (i : Nat) : Device :=
  { d with hooks := { d.hooks with flight := d.hooks.flight.eraseIdx i } }

/-- SIGNAL at the Hook array (R182, R183, R185). -/
def Device.applySignal (d : Device) (i : Nat) : Device :=
  match d.hooks.next i with
  | some (.signal _ j h n) =>
    let d := d.landed i
    if d.hookMine j h then (d.signalHook (.job j) h n).cleanUp j else (d.withholdStop j stAccess).cleanUp j
  | _ => d

/-- An uncorrectable error in a Hook (R627): every job allocated it is stopped; a Hook of the firmware, which no Plan
allocates, notifies the Lectern. -/
def Device.hookBad (d : Device) (h : Nat) : Device :=
  let d := d.chipCount 9 0 1
  match d.hooks.alloc.find h with
  | none => d.notify stUncorrectable srcNone 0
  | some _ => (d.startedJobs.filter fun r => d.hookMine r.id h).foldl
      (fun (d : Device) r => (d.withholdStop r.id stUncorrectable).cleanUp r.id) d

/-- SIGNAL (R182, R627): `err` is what the check of the Hook's word finds. -/
def execHookArraySignal (now : Time) (index : Nat) (err : ScrubFinding) (s : State) : Host.Outcome State Fault Refusal :=
  s.onUp now fun d =>
    match err, d.hooks.next index with
    | .uncorrectable, some (.signal _ _ h _) => (d.landed index).hookBad h
    | .corrected, _ => (d.chipCount 9 1 0).applySignal index
    | _, _ => d.applySignal index

/-- After a refused operation of a requester, its job's clean-up follows as far as its tiles have stopped (R551). -/
def Device.afterHook (d : Device) (who : Requester) : Device :=
  match d.requesterJob who with
  | some j => d.cleanUp j
  | none => d

/-- WAIT (R181, R184). -/
def execHookArrayWait (now : Time) (index : Nat) (s : State) : Host.Outcome State Fault Refusal :=
  s.onUp now fun d => match d.hooks.next index with
    | some (.wait w h n) => ((d.landed index).waitHook w h n).afterHook w
    | _ => d

/-- The oldest TRY of a tile that has no answer takes it. -/
def answerFirst (got : Bool) : List TryMark → List TryMark
  | [] => []
  | m :: r => if m.result.isNone then { m with result := some got } :: r else m :: answerFirst got r

/-- A tile's TRY is answered (R186): the result goes to RESULT_ADDR as R139 lets it. -/
def Device.answerTry (d : Device) (t : Fin 4160) (got : Bool) : Device :=
  let x := d.tile t
  (d.setTile t { x with r := { x.r with tries := answerFirst got x.r.tries } }).settleTile t

/-- TRY at the Hook array (R181, R185, R186). -/
def Device.applyTry (d : Device) (i : Nat) : Device :=
  match d.hooks.next i with
  | some (.try w h n) =>
    let d := d.landed i
    if !d.hookAllowed w h then
      match d.requesterJob w with
      | some j => (d.withholdStop j stAccess).cleanUp j
      | none => d
    else
      let r := (d.hook h).try n
      let d := d.setHook h r.1
      match w with
      | .tile t => d.answerTry t r.2
      | _ => d
  | _ => d

/-- TRY (R181). -/
def execHookTry (now : Time) (index : Nat) (s : State) : Host.Outcome State Fault Refusal :=
  s.onUp now fun d => d.applyTry index

/-- A tile's WAIT on a Hook is cancelled by a RESET (R181): the command is gone and its units go on. -/
def Device.cancelWait (d : Device) (h : Nat) (w : Waiter) : Device :=
  match w.who with
  | .tile t =>
    let x := d.tile t
    match x.r.waits.find? fun m => m.sent && !m.released && m.hook == h && m.count == w.n with
    | some m => (d.setTile t (x.endWait m.id)).settleTile t
    | none => d
  | _ => d

/-- The Bureau may reset a Hook: it is the firmware's, or no tile of a job that may use it is at work or has a signal on its
way, which a tile's report follows (R165, R185, R189). -/
def Device.mayReset (d : Device) (h : Nat) : Bool :=
  h < 256 || (d.tiles.all (fun e => e.2.t.phase == .idle || (match e.2.t.job with
    | some j => !d.hookMine j h
    | none => true)) && !(d.startedJobs.any fun r => d.hookMine r.id h && d.tileSignals r.id))

/-- RESET (R181): every waiter is removed and its command cancelled, those that wait to retry included. -/
def execHookArrayReset (now : Time) (hook : Fin 16384) (s : State) : Host.Outcome State Fault Refusal :=
  s.onUp now fun d =>
    if d.mayReset hook.val then
      let x := d.hook hook.val
      (x.waiters ++ x.retry.map (·.1)).foldl (fun d w => d.cancelWait hook.val w) (d.resetHook hook.val)
    else d

/-- WAIT_RETRY (R184): a refused WAIT joins the tail afresh, or is refused again for 256 hub cycles. -/
def execWaitRetry (now : Time) (hook : Fin 16384) (index : Nat) (s : State) : Host.Outcome State Fault Refusal :=
  s.onUp now fun d =>
    let x := d.hook hook.val
    match x.retry[index]? with
    | some (w, t) =>
      if reached d.hub t then
        (d.setHook hook.val { x with retry := x.retry.eraseIdx index }).waitHook w.who hook.val w.n
      else d
    | none => d

end Sys2Proof.Machine
end

