-- ==== Sys2Proof/Machine/PlanProg.lean ====
section
/-!
DEFINITION. The checks that PLAN_LOAD makes of tile programs (R24, R36, R52, R75, R76, R82, R83, R131 to R161, R167,
R215, R225, R238, R241, R546, R740, R822). What no field of a program shows is named in log entry 52.
-/

namespace Sys2Proof.Machine

/-! ### Loops of a program (R160, R161) -/

/-- One LOOP: index of its first body command, LEN, COUNT, STRIDE. -/
structure LoopSpan where
  first : Nat
  len : Nat
  count : Nat
  stride : Int
  deriving DecidableEq, Repr

def LoopSpan.last (l : LoopSpan) : Nat := l.first + l.len - 1
def LoopSpan.has (l : LoopSpan) (i : Nat) : Bool := l.first ≤ i && i < l.first + l.len

/-- The loops of a program, in program order. -/
def progLoops (ps : List Image) : List LoopSpan :=
  ps.zipIdx.filterMap fun c => if Cmd.op c.1 = 0x09 then
    some { first := c.2 + 1, len := LoopCmd.len c.1, count := LoopCmd.count c.1, stride := LoopCmd.stride c.1 } else none

/-- The loops around command `i`, innermost last. -/
def loopsAt (ls : List LoopSpan) (i : Nat) : List LoopSpan := ls.filter fun l => l.has i

/-- The loops keep R155 and R161: counts, nesting of at most 4, bodies within the program and within each other. -/
def loopsOk (n : Nat) (ls : List LoopSpan) : Bool :=
  ls.all fun l => 1 ≤ l.count && 1 ≤ l.len && l.len ≤ 448 && l.first + l.len ≤ n
    && (loopsAt ls (l.first - 1)).length < 4
    && (loopsAt ls (l.first - 1)).all fun o => l.last ≤ o.last

/-- A command as it stands in iteration `k` of its innermost loop. -/
def staticEntry (ls : List LoopSpan) (c : Image × Nat) (k : Nat) : QEntry :=
  let e : QEntry := { id := c.2, word := BitVec.ofNat 128 c.1, advance := 0, iter := k, far := 0 }
  match (loopsAt ls c.2).getLast?, Cmd.step c.1 with
  | some l, true => { e with advance := k * l.stride, far := (l.count - 1 : Nat) * l.stride }
  | _, _ => e

/-- Iterations of a command's innermost loop that move its addresses. -/
def iterations (ls : List LoopSpan) (c : Image × Nat) : Nat :=
  match (loopsAt ls c.2).getLast?, Cmd.step c.1 with
  | some l, true => l.count
  | _, _ => 1

/-! ### Reserved values (R9, R11, R131, R142 to R157) -/

def operandCode (p : Nat) : Bool := p ≤ 2 || 8 ≤ p

/-- The commands of a tile as images. -/
def words (t : ProgTile) : List Image := t.commands.map (·.toNat)

/-- Opcode, reserved fields and enumerations of a command. -/
def cmdRsvdOk (w : Image) : Bool :=
  let op := Cmd.op w
  [0x01, 0x02, 0x03, 0x04, 0x05, 0x06, 0x07, 0x08, 0x09, 0x0A, 0x0F].contains op && rsvdZero w (Cmd.rsvd w)
    && (op != 0x01 || LoadW.wfmt w < 12) && (op != 0x02 || (Pass.wfmt w < 12 && Pass.afmt w < 12))
    && (op != 0x03 || (Gate.outFmt w < 12 && Gate.inFmt w < 12
        && (List.range 4).all fun k => (Gate.slot w k).1 ≤ 0x13 && operandCode (Gate.slot w k).2.1
            && operandCode (Gate.slot w k).2.2))

/-! ### Fields and formats of single commands -/

/-- The store-address fields that a command uses, with their units (R135). -/
def addrFields (w : Image) : List (Nat × Nat) :=
  match Cmd.op w with
  | 0x01 => (LoadW.wAddr w, 32) :: if (tfmt (LoadW.wfmt w)).isMX then [(LoadW.sAddr w, 32)] else []
  | 0x02 =>
    let wf := tfmt (Pass.wfmt w)
    let af := tfmt (Pass.afmt w)
    (Pass.aAddr w, 16) :: ((if af.isMX || wf.isInt then [(Pass.aScale w, 1)] else [])
      ++ if wf.isInt then [(Pass.wScale w, 64)] else [])
  | 0x03 =>
    let s0 := (Gate.slot w 0).1
    if s0 = 0x12 then [(Gate.opA w, 32)]
    else if s0 = 0x13 then [(Gate.out w, 32)]
    else (if !Gate.src w || gateUses w 1 then [(Gate.opA w, 32)] else [])
      ++ (if (gateUses w 2 || (tfmt (Gate.outFmt w)).isMX) && !gateHas w 0x11 then [(Gate.opB w, 32)] else [])
      ++ (if Gate.toSend w then [] else [(Gate.out w, 32)])
  | 0x04 => (Send.destAddr w, 32) :: if Send.srcQ w then [] else [(Send.srcAddr w, 32)]
  | 0x05 | 0x06 => [(Dma.desc w, 32), (Dma.tileAddr w, 32)]
  | 0x07 => if HookCmd.isTry w then [(HookCmd.resultAddr w, 32)] else []
  | _ => []

/-- Operand pairs of R36 and R224. -/
def pairOk (wf af : TFmt) : Bool :=
  if wf.isMX then af.isMX || af == .fp8e4m3
  else match wf with
    | .int4 => af == .int4 || af == .int8
    | .int8 => af == .int8
    | .bf16 => af == .bf16
    | .fp16 => af == .fp16
    | .fp32 => af == .fp32
    | _ => false

/-- Bytes of one activation vector (R144). -/
def vecBytes (dir : Bool) (wf af : TFmt) : Nat := ceilDiv (vecLen dir wf * af.width) 8

/-- R36, R75, R76, R83, R144 for one PASS; `stride` is the advance per iteration, 0 where there is one iteration. -/
def passOk (w : Image) (stride : Int) : Bool :=
  let wf := tfmt (Pass.wfmt w)
  let af := tfmt (Pass.afmt w)
  let dir := Pass.dir w
  let unit := 2 * af.width
  pairOk wf af && 1 ≤ Pass.n w && Pass.n w ≤ (if outsOf dir wf = 32 then 16 else 32)
    && !(dir && wf.isInt) && 16 ≤ Pass.aStride w && vecBytes dir wf af ≤ Pass.aStride w
    && (!af.isInt || Pass.aScale w % 4 == 0)
    && (!(dir && af.isMX) || (Pass.aAddr w % unit == 0 && stride % (unit : Int) == 0
        && (Pass.n w ≤ 1 || Pass.aStride w % unit == 0)))

/-- Operands that an OP uses: P, Q (R146, R148). -/
def opUses (op : Nat) : Bool × Bool :=
  match op with
  | 0x01 | 0x02 | 0x04 | 0x05 | 0x11 => (true, false)
  | 0x03 | 0x06 => (true, true)
  | _ => (false, false)

/-- R24, R52, R145 to R148, R238 for one GATE. -/
def gateOk (w : Image) : Bool :=
  let fout := tfmt (Gate.outFmt w)
  let slots := (List.range 4).map (Gate.slot w)
  let used := gateSlots w
  (slots.drop used.length).all (fun s => s.1 == 0)
    && slots.all (fun s => (opUses s.1).1 == (s.2.1 != 0) && (opUses s.1).2 == (s.2.2 != 0))
    && (slots.drop 1).all (fun s => s.1 != 0x12 && s.1 != 0x13)
    && (!((Gate.slot w 0).1 == 0x12 || (Gate.slot w 0).1 == 0x13) || (used.length == 1 && Gate.beats w == 1))
    && 1 ≤ Gate.beats w && (tfmt (Gate.inFmt w)).isFloat
    && !(fout.isMX && gateUses w 2)
    && (!Gate.sr w || fout.isMX || fout == .bf16 || fout == .fp16 || fout == .fp8e4m3)
    && (!gateHas w 0x11 || ((used.filter fun s => s.1 == 0x11).length == 1 && !gateUses w 2 && !fout.isMX
        && used.all fun s => s.1 != 0x11 || s.2.1 == 1 || 8 ≤ s.2.1))

/-- R740: a Hook that a HOOKS record allocates to the job. -/
def hookOf (b : Bytes) (job h : Nat) : Bool :=
  256 ≤ h && h < 16384 &&
    (planImages b 6).any fun r => HookRec.hook r == h && (HookRec.shared r || HookRec.jobId r == job)

/-- A Hook field whose amount is 0 names no Hook (R740). -/
def hookIf (b : Bytes) (job h n : Nat) : Bool := n == 0 || hookOf b job h

/-- An exposed tile of a partition (R17, R561). -/
def tileIn (part : Image) (t : Nat) : Bool := t < 4096 && PartRec.hasGroup part (groupOf t)

/-- A Hook field of a tile command (R153, R154): never one of the firmware's. -/
def hookRange (h n : Nat) : Bool := n == 0 || (256 ≤ h && h < 16384)

/-- One command by itself, whatever job runs it (R17, R24, R36, R75, R76, R83, R144 to R154). -/
def cmdForm (w : Image) (stride : Int) : Bool :=
  match Cmd.op w with
  | 0x01 => tfmt (LoadW.wfmt w) != .fp8e4m3
  | 0x02 => passOk w stride
  | 0x03 => gateOk w
  | 0x04 => 1 ≤ Send.words w && Send.words w ≤ 4096 && Send.dest w < 4096 && (!Send.srcQ w || Send.srcAddr w == 0)
      && hookRange (Send.hook w) (Send.count w)
  | 0x05 | 0x06 => hookRange (Dma.hook w) (Dma.count w)
  | 0x07 => HookCmd.count w != 0 && hookRange (HookCmd.hook w) 1 && ((HookCmd.units w == 0) == HookCmd.isTry w)
  | 0x08 => HookCmd.count w != 0 && hookRange (HookCmd.hook w) 1 && HookCmd.units w != 0
  | 0x0F => hookRange (EndCmd.hook w) (EndCmd.count w)
  | _ => true

/-- One command as a command of a job: its Hooks are the job's, its SENDs stay in the partition, and only a BACKGROUND job rounds
stochastically (R52, R151, R740). -/
def cmdFor (b : Bytes) (job part w : Image) : Bool :=
  let j := JobRec.jobId job
  match Cmd.op w with
  | 0x03 => !Gate.sr w || JobRec.cls job == 3
  | 0x04 => tileIn part (Send.dest w) && hookIf b j (Send.hook w) (Send.count w)
  | 0x05 | 0x06 => hookIf b j (Dma.hook w) (Dma.count w)
  | 0x07 | 0x08 => hookOf b j (HookCmd.hook w)
  | 0x0F => hookIf b j (EndCmd.hook w) (EndCmd.count w)
  | _ => true

/-! ### Rules over a whole program -/

/-- A GATE whose SRC is DRAIN (R141). -/
def isDrainGate (w : Image) : Bool := Cmd.op w == 0x03 && Gate.src w

/-- A GATE that converts its beats to an MX format (R102). -/
def convertsMx (w : Image) : Bool :=
  Cmd.op w == 0x03 && (tfmt (Gate.outFmt w)).isMX && (Gate.slot w 0).1 != 0x12 && (Gate.slot w 0).1 != 0x13

/-- Beats left in the pair buffer after `n` more beats of such a GATE: each meets the beat that is parked, or is parked itself
(log entry 50); none where a beat would be parked with all 64 places taken (R102). -/
def parked (held n : Nat) : Option Nat :=
  let left := (held + n) % 2
  if left = 1 ∧ 64 ≤ held then none else some left

/-- What the passes of one group share (R82). -/
def passKey (w : Image) : Nat × Nat × Nat × Bool := (Pass.wfmt w, Pass.afmt w, Pass.n w, Pass.dir w)

/-- Array work on its way through a program: the weight format in use, the open group, and the beats that closing passes
still owe to GATEs. -/
structure FlowState where
  inUse : Option Nat
  group : Option (Nat × Nat × Nat × Bool)
  owed : List Nat
  /-- Beats in the pair buffer. -/
  pair : Nat
  deriving DecidableEq, Repr

/-- One command in the order of execution: R144 (the LOAD_W in use), R82 (one kind of pass per group), R141 (the k-th closing
PASS feeds the k-th GATE with SRC DRAIN), R102 (the pair buffer). -/
def FlowState.step (st : FlowState) (w : Image) : Option FlowState :=
  if Cmd.op w = 0x01 then some { st with inUse := some (LoadW.wfmt w) }
  else if Cmd.op w = 0x02 then
    if st.inUse ≠ some (Pass.wfmt w) ∨ (st.group.any fun k => k != passKey w) then none
    else if Pass.close w then
      some { st with group := none, owed := st.owed ++ [Pass.n w * outsOf (Pass.dir w) (tfmt (Pass.wfmt w)) / 16] }
    else some { st with group := some (passKey w) }
  else
    match (if convertsMx w then parked st.pair (Gate.beats w) else some st.pair) with
    | none => none
    | some p =>
      if isDrainGate w then
        match st.owed with
        | b :: r => if b = Gate.beats w then some { st with owed := r, pair := p } else none
        | [] => none
      else some { st with pair := p }

/-- `n` iterations of a body; once an iteration changes nothing, no further one does. -/
def iterateFlow (f : FlowState → Option FlowState) : Nat → FlowState → Option FlowState
  | 0, st => some st
  | n + 1, st => match f st with
    | none => none
    | some t => if t = st then some st else iterateFlow f n t

/-- A stretch of a program in the order of execution, with every iteration of its LOOPs, `depth` of them nested; branches are
passed over. -/
def runFlow : Nat → List Image → FlowState → Option FlowState
  | 0, _, st => some st
  | depth + 1, ws, st =>
    let go := ws.zipIdx.foldl (fun (acc : Option (FlowState × Nat)) (c : Image × Nat) => match acc with
      | none => none
      | some (st, skip) =>
        if c.2 < skip then some (st, skip)
        else if Cmd.op c.1 = 0x09 then
          let body := (ws.drop (c.2 + 1)).take (LoopCmd.len c.1)
          (iterateFlow (runFlow depth body) (LoopCmd.count c.1) st).map fun t => (t, c.2 + 1 + LoopCmd.len c.1)
        else (st.step c.1).map fun t => (t, skip)) (some (st, 0))
    go.map (·.1)

/-- R82, R141 and R144 over the whole program; no closing PASS is left without its GATE. -/
def flowOk (ws : List Image) : Bool :=
  match runFlow 5 ws { inUse := none, group := none, owed := [], pair := 0 } with
  | some st => st.owed.isEmpty
  | none => false

/-- R161: branches stand and lead outside loop bodies. -/
def branchesOk (ls : List LoopSpan) (ps : List (Image × Nat)) : Bool :=
  ps.all fun c => Cmd.op c.1 != 0x0A ||
    ((loopsAt ls c.2).isEmpty && (loopsAt ls (Branch.target c.1)).isEmpty && Branch.target c.1 < ps.length)

/-! ### Store addresses and static descriptors (R161, R167, R546, R822) -/

/-- The store with the initial image of a program-set entry. -/
def imageStore (init : Bytes) : TileState := (freshTile 0).putStore 0 init

/-- What the fields of a command show that it touches: a DMA by its descriptor alone (its rows: `staticDmaOk`). -/
def staticSpans (x : TileState) (e : QEntry) : List Span :=
  match e.op with
  | 0x04 => (e.addr (Send.destAddr e.w), 32 * Send.words e.w) :: (x.touch e).reads
  | 0x05 | 0x06 => [(e.addr (Dma.desc e.w), 32)]
  | 0x07 => if HookCmd.isTry e.w then [(e.addr (HookCmd.resultAddr e.w), 32)] else []
  | _ => (x.touch e).reads ++ (x.touch e).writes

/-- The advance of a command's addresses from one iteration to the next; 0 where no further iteration follows. -/
def strideOf (ls : List LoopSpan) (c : Image × Nat) : Int :=
  match (loopsAt ls c.2).getLast?, Cmd.step c.1 with
  | some l, true => l.stride
  | _, _ => 0

/-- As `strideOf`, and 0 where there is one iteration only. -/
def moveOf (ls : List LoopSpan) (c : Image × Nat) : Int := if iterations ls c ≤ 1 then 0 else strideOf ls c

/-- The addresses of a command stay within the store, in the first and the last iteration (R161), and below the Bureau's word,
which a GATE alone may read (R546, R547). -/
def spansOk (x : TileState) (ls : List LoopSpan) (c : Image × Nat) : Bool :=
  let e0 := staticEntry ls c 0
  let e1 := staticEntry ls c (iterations ls c - 1)
  ((addrFields c.1).all fun a => (0 : Int) ≤ a.1 + e0.far && a.1 + e0.far < 131072 && strideOf ls c % (a.2 : Int) == 0)
    && if Cmd.op c.1 = 0x03 then
        ((x.touch e0).reads ++ (x.touch e1).reads).all (fun s => s.1 + s.2 ≤ 131072)
          && ((x.touch e0).writes ++ (x.touch e1).writes).all fun s => s.1 + s.2 ≤ startWordAddr
      else (staticSpans x e0 ++ staticSpans x e1).all fun s => s.1 + s.2 ≤ startWordAddr

/-- A command in every iteration. -/
def everyIteration (ls : List LoopSpan) (c : Image × Nat) : List QEntry := (List.range (iterations ls c)).map (staticEntry ls c)

/-- What the commands of a tile other than its DMAs write in their own store. -/
def ownWrites (x : TileState) (ls : List LoopSpan) (ps : List (Image × Nat)) : List Span :=
  (ps.filter fun c => Cmd.op c.1 != 0x05).flatMap fun c => (everyIteration ls c).flatMap fun e =>
    if e.op = 0x07 ∧ HookCmd.isTry e.w then [(e.addr (HookCmd.resultAddr e.w), 32)] else (x.touch e).writes

/-- What the SENDs of a program write in another tile's store. -/
def sendsTo (t : Nat) (ps : List Image) : List Span :=
  let cs := ps.zipIdx
  let ls := progLoops ps
  cs.flatMap fun c => if Cmd.op c.1 = 0x04 ∧ Send.dest c.1 = t then
    (List.range (iterations ls c)).map fun k =>
      let e := staticEntry ls c k
      (e.addr (Send.destAddr e.w), 32 * Send.words e.w) else []

/-- The slots that an ingest destination takes in each tile of its program set (R742). -/
def destSlots (b : Bytes) (x : Image) : Span :=
  let p := roundUp (ceilDiv (DestRec.slotBytes x) (max 1 (progTileIds b (DestRec.programRef x)).length)) 32
  (DestRec.storeAddr x * 32, DestRec.slots x * p)

/-- What Ingest writes in a tile. -/
def ingestWrites (b : Bytes) (t : Nat) : List Span :=
  (planImages b 8).flatMap fun x =>
    if DestRec.kind x = 0 ∧ (progTileIds b (DestRec.programRef x)).contains t then [destSlots b x] else []

/-- What the SENDs of every program of the Plan write in a tile. -/
def inboundSends (b : Bytes) (t : Nat) : List Span :=
  (List.range (planRecords b 3).length).flatMap fun i => (progTiles b i).flatMap fun u => sendsTo t (words u)

/-- What a DMA_IN may write: its rows where its descriptor stands, and anything from TILE_ADDR on where it is written at run
time. -/
def dmaInWrites (fixed : Bool) (e : QEntry) (d : Image) : List Span :=
  let a := e.addr (Dma.tileAddr e.w)
  if fixed then dmaSpans d a else [(a, 131072 - a)]

/-- The static ones of the DMAs `ds` (R822), where `wr` is what else is written and `free` the DMA_INs already known to have a
run-time descriptor: those whose descriptors nothing writes. A descriptor that is written makes its DMA_IN write more, and so the
others are asked again, at most `fuel` times. -/
def staticAmong (wr : List Span) : Nat → List (QEntry × Image) → List (QEntry × Image) → List (QEntry × Image)
  | 0, _, _ => []
  | fuel + 1, free, ds =>
    let ins (fixed : Bool) (l : List (QEntry × Image)) : List Span :=
      (l.filter fun p => p.1.op == 0x05).flatMap fun p => dmaInWrites fixed p.1 p.2
    let all := wr ++ ins true ds ++ ins false free
    let keeps (p : QEntry × Image) : Bool := !spansMeet all [(p.1.addr (Dma.desc p.1.w), 32)]
    if ds.all keeps then ds else staticAmong wr fuel (free ++ ds.filter fun p => !keeps p) (ds.filter keeps)

/-- The DMA commands of a tile in every iteration, each with the descriptor in the initial store image. -/
def allDmas (t : ProgTile) : List (QEntry × Image) :=
  let x := imageStore t.init
  let ls := progLoops (words t)
  ((words t).zipIdx.filter fun c => Cmd.op c.1 == 0x05 || Cmd.op c.1 == 0x06).flatMap fun c =>
    (everyIteration ls c).map fun e => (e, x.desc e)

/-- The static DMA commands of a tile, each with its descriptor and its place in its loop (R822): the descriptor lies in the
initial store image, and no command of the tile, no SEND and no Ingest write can write it. -/
def staticDmas (b : Bytes) (t : ProgTile) : List (QEntry × Image) :=
  let wr := ownWrites (imageStore t.init) (progLoops (words t)) (words t).zipIdx ++ inboundSends b t.tile ++ ingestWrites b t.tile
  let inImage (p : QEntry × Image) : Bool := decide (p.1.addr (Dma.desc p.1.w) + 32 ≤ t.init.length)
  let ds := allDmas t
  staticAmong wr (ds.length + 1) (ds.filter fun p => !inImage p) (ds.filter inImage)

/-- Step 4 for a static descriptor (R9, R11, R166). -/
def staticRsvdOk (x : Image) : Bool := rsvdZero x DmaDesc.rsvd && DmaDesc.cache x != 3 && DmaDesc.format x < 12

/-- R166, R167, R215 for a static descriptor. -/
def staticDmaOk (e : QEntry) (x : Image) : Bool :=
  dmaDescOk x e (e.op == 0x06) && (List.range (DmaDesc.rows x)).all fun i =>
    let a := dmaRow x e i
    let n := DmaDesc.rowBytes x
    (a < 0 || !inKvWindow a.toNat || a.toNat / 2 ^ 19 == (a.toNat + n - 1) / 2 ^ 19)
  && (dmaSpans x (e.addr (Dma.tileAddr e.w))).all fun s => s.1 + s.2 ≤ startWordAddr

/-- Where data of the KV window may stand in a tile (R225): the rows of its DMA_INs that read there, whatever a DMA_IN with a
run-time descriptor writes, and what other tiles send. -/
def windowSpans (b : Bytes) (t : ProgTile) : List Span :=
  let fixed := staticDmas b t
  ((allDmas t).filter fun p => p.1.op == 0x05).flatMap (fun p =>
    if !fixed.contains p then dmaInWrites false p.1 p.2
    else (List.range (DmaDesc.rows p.2)).flatMap fun i =>
      if 0 ≤ dmaRow p.2 p.1 i ∧ inKvWindow (dmaRow p.2 p.1 i).toNat then
        [(p.1.addr (Dma.tileAddr p.1.w) + i * DmaDesc.tileStride p.2, DmaDesc.rowBytes p.2)] else [])
    ++ inboundSends b t.tile

/-- Every byte of a run lies in one of the runs `l`. -/
def coveredBy (l : List Span) (s : Span) : Bool :=
  (List.range s.2).all fun i => l.any fun u => u.1 ≤ s.1 + i && s.1 + i < u.1 + u.2

/-- R225: the activations of a PASS in FP8_E4M3 come from the KV window. -/
def fp8Ok (b : Bytes) (t : ProgTile) : Bool :=
  let ls := progLoops (words t)
  let ps := (words t).zipIdx.filter fun c => Cmd.op c.1 == 0x02 && tfmt (Pass.afmt c.1) == .fp8e4m3
  ps.isEmpty ||
    let from_ := windowSpans b t
    ps.all fun c => (everyIteration ls c).all fun e => (List.range (Pass.n e.w)).all fun j =>
      coveredBy from_ (e.vecAddr j, vecBytes (Pass.dir e.w) (tfmt (Pass.wfmt e.w)) .fp8e4m3)

/-! ### A program, a program set, a variant -/

/-- Step 6 for the program of one tile, whatever job runs it (R158, R161 and what they name). -/
def programOk (b : Bytes) (t : ProgTile) : Bool :=
  let ws := words t
  let ps := ws.zipIdx
  let ls := progLoops ws
  let x := imageStore t.init
  1 ≤ ws.length && ws.length ≤ 65536 && (ws.getLast?.map Cmd.op) == some 0x0F
    && loopsOk ws.length ls && branchesOk ls ps && flowOk ws
    && (ps.all fun c => cmdForm c.1 (moveOf ls c) && spansOk x ls c
        && (!(Cmd.op c.1 == 0x03 && gateHas c.1 0x11) ||
            ((loopsAt ls c.2).getLast?.map fun l => decide (l.count ≤ 4096)).getD true))
    && (staticDmas b t).all (fun p => staticDmaOk p.1 p.2) && fp8Ok b t

/-- The homes in a tile that others write (R190, R742): the rings of its halo edges, each with its producer, and its Ingest
slots. -/
def sharedHomes (b : Bytes) (ref t : Nat) : List (Option Nat × Span) :=
  let jobs := (planJobs b).filter fun j => JobRec.engine j == 0 &&
    (List.range (JobRec.variants j)).any fun v => VarRec.programRef (JobRec.variant j v) == ref
  ((planImages b 7).filter fun h => HaloRec.consumer h == t && jobs.any fun j => JobRec.jobId j == HaloRec.jobId h).map
      (fun h => (some (HaloRec.producer h), (32 * HaloRec.base h, 32 * (HaloRec.h h * HaloRec.rowWords h))))
    ++ (ingestWrites b t).map fun s => (none, s)

/-- R196: no allocations overlap in a way that R139 cannot order (log entry 52): the homes that others write keep clear of each
other, of what the tile's own commands write, and of the SENDs of every tile but the producer. -/
def homesApart (b : Bytes) (ref : Nat) (ts : List ProgTile) (t : ProgTile) : Bool :=
  let hs := sharedHomes b ref t.tile
  let ls := progLoops (words t)
  let own := ownWrites (imageStore t.init) ls (words t).zipIdx
    ++ ((staticDmas b t).filter fun p => p.1.op == 0x05).flatMap fun p => dmaInWrites true p.1 p.2
  hs.isEmpty ||
    ((pairsApart (hs.map (·.2))) && hs.all fun h => !spansMeet own [h.2]
      && ts.all fun u => u.tile == t.tile || h.1 == some u.tile || !spansMeet (sendsTo t.tile (words u)) [h.2])
where
  /-- No two runs of the list share a word. -/
  pairsApart : List Span → Bool
    | [] => true
    | s :: r => r.all (fun u => !Span.meets s u) && pairsApart r

/-- Step 6 for one program set (R736 covers the whole Plan). -/
def progSetRules (b : Bytes) (ref : Nat) : Bool :=
  let ts := progTiles b ref
  ts.all fun t => programOk b t && homesApart b ref ts t

/-- Step 6 for one variant of a TRESTLE job: its tiles lie in the partition, and its commands are the job's (R539, R541). -/
def variantOk (b : Bytes) (job part v : Image) : Bool :=
  let ts := progTiles b (VarRec.programRef v)
  VarRec.tiles v == ts.length && 1 ≤ ts.length && ts.length ≤ 4096
    && ts.all fun t => tileIn part t.tile && (words t).all (cmdFor b job part)

end Sys2Proof.Machine
end

