-- ==== Sys2Proof/Machine/Security.lean ====
section
/-!
DEFINITION. Key slots, firmware images and their checks (R754 to R763), and the identity and revocation commands
(R765, R768).
-/

namespace Sys2Proof.Machine

/-- The modulus that an image's key block gives slot `k` (R756, R757). -/
def fwModulus (img : Bytes) (k : Nat) : Bytes := slice img (128 + 384 * k) 384

/-- A slot is usable under an image (R755, R756). -/
def NonVolatile.usable (v : NonVolatile) (img : Bytes) (k : Nat) : Bool :=
  let h := nth v.keyHash k []
  h.any (· != 0) && nth v.revoked k 0 == 0 && sha256 (fwModulus img k) == h

/-- A signature by a slot's key over a message (R754, R756). -/
def NonVolatile.verifies (v : NonVolatile) (img : Bytes) (k : Nat) (msg sig : Bytes) : Bool :=
  v.usable img k && pssVerify (fwModulus img k) msg sig

/-- The fused minimum (R761). -/
def NonVolatile.svnMin (v : NonVolatile) : Nat := popCount v.svnFuse.toNat 64

def fwHdr (img : Bytes) : Image := imageAt img 0 128

/-- The layout of R757, R758. -/
def fwLayoutOk (img : Bytes) : Bool :=
  let h := fwHdr img
  let lo := FwHdr.lectOff h
  let ll := FwHdr.lectLen h
  let bo := FwHdr.burOff h
  let bl := FwHdr.burLen h
  FwHdr.totalLen h == img.length && img.length ≤ 2 ^ 28 && FwHdr.totalLen h % 32 == 0 && FwHdr.secVersion h ≤ 64
    && 2048 ≤ lo && 2048 ≤ bo && lo % 32 == 0 && bo % 32 == 0 && ll ≤ 2 ^ 22
    && lo + ll ≤ img.length && bo + bl ≤ img.length && (lo + ll ≤ bo || bo + bl ≤ lo)

def lectDigestOk (img : Bytes) : Bool :=
  sha256 (slice img (FwHdr.lectOff (fwHdr img)) (FwHdr.lectLen (fwHdr img))) == natLE (FwHdr.lectDigest (fwHdr img)) 32
def burDigestOk (img : Bytes) : Bool :=
  sha256 (slice img (FwHdr.burOff (fwHdr img)) (FwHdr.burLen (fwHdr img))) == natLE (FwHdr.burDigest (fwHdr img)) 32

/-- Items 1 to 4 of R759: the status of R762 for the first that fails. -/
def NonVolatile.fwCheck4 (v : NonVolatile) (img : Bytes) : Option Status :=
  let h := fwHdr img
  if FwHdr.magic h ≠ 0x46395847 ∨ FwHdr.fmtVer h ≠ 1 then some stVersion
  else if !rsvdZero h FwHdr.rsvd then some stReserved
  else if !fwLayoutOk img then some stConfig
  else if !v.verifies img (FwHdr.keySlot h) (img.take 1664) (slice img 1664 384) then some stSignature
  else if FwHdr.secVersion h < v.svnMin then some stVersion
  else none

/-- All five items (R759, R762). -/
def NonVolatile.fwCheck (v : NonVolatile) (img : Bytes) : Option Status :=
  match v.fwCheck4 img with
  | some st => some st
  | none => if lectDigestOk img && burDigestOk img then none else some stSignature

/-! ### IDENTITY_READ and KEY_REVOKE -/

/-- IDENTITY_READ (R768). -/
def execIdentityRead (now : Time) (drawer : Fin 64) (s : State) : Host.Outcome State Fault Refusal :=
  s.drawerCommand now drawer 0x0803 fun d =>
    d.reply drawer stOk (Config.identityModulus ++ natLE Config.certificate.length 4 ++ Config.certificate)

/-- KEY_REVOKE (R765). -/
def Device.keyRevoke (d : Device) (n : Fin 64) : Device :=
  let k := fld (d.params n) 1 0
  let v := d.bur.nv
  if nth v.revoked k 0 ≠ 0 then d.reply n stOk []
  else if FwHdr.keySlot (fwHdr d.bur.fwImage) = k then d.fail n stBusy
  else if (List.range 4).all fun i => v.usable d.bur.fwImage i == (i == k) then d.fail n stConfig
  else ({ d with bur := { d.bur with nv := { v with revoked := setAt v.revoked k 3 } } }).reply n stOk []

/-- KEY_REVOKE (R765). -/
def execKeyRevoke (now : Time) (drawer : Fin 64) (s : State) : Host.Outcome State Fault Refusal :=
  s.drawerCommand now drawer 0x0804 fun d => d.keyRevoke drawer

end Sys2Proof.Machine
end

