-- ==== Sys2Proof/Machine/PlanCheck.lean ====
section
/-!
DEFINITION. The checks of PLAN_LOAD, step by step (R733 to R742), with the rules of every record that a Plan holds.
-/

namespace Sys2Proof.Machine

/-! ### Step 1: versions -/

/-- Sections whose records begin with FMT_VER. -/
def versionedTypes : List Nat := [0x1, 0x2, 0x5, 0x7, 0x8, 0x9, 0xA, 0xB, 0xC, 0xD, 0xE, 0xF, 0x10]

/-- The commands of all program sets. -/
def allCommands (b : Bytes) : List Image :=
  (List.range (planRecords b 3).length).flatMap fun i => (progTiles b i).flatMap words

/-- Step 1 of R736. -/
def versionsOk (b : Bytes) : Bool :=
  let h := planHdr b
  PlanHdr.magic h == 0x50395847 && PlanHdr.fmtVer h == 1 && (planTable b).all (fun s => s.fmtVer == 1)
    && versionedTypes.all (fun t => (planImages b t).all fun x => fld x 3 0 == 1)
    && (allCommands b).all fun w => Cmd.fmtVer w == 1

/-! ### Step 4: reserved fields and values -/

/-- Reserved fields and reserved values of a record, its sub-records included (R9, R11; log entry 52). -/
def recRsvdOk (type : Nat) (x : Image) : Bool :=
  match type with
  | 0x1 => rsvdZero x PartRec.rsvd
  | 0x2 => rsvdZero x JobRec.rsvd && JobRec.engine x ≤ 5 && JobRec.trigger x ≤ 2
      && (List.range (JobRec.variants x)).all fun v => rsvdZero (JobRec.variant x v) VarRec.rsvd
  | 0x3 => rsvdZero x ProgSet.rsvd
  | 0x4 => rsvdZero x TensorRec.rsvd && TensorRec.format x < 12
  | 0x5 => rsvdZero x OpDesc.rsvd && OpDesc.op x ≤ 5 && OpDesc.border x ≤ 2 && OpDesc.act x ≤ 5 && OpDesc.wfmt x < 12
      && OpDesc.afmt x < 12 && OpDesc.outFmt x < 12
  | 0x6 => rsvdZero x HookRec.rsvd
  | 0x7 => rsvdZero x HaloRec.rsvd
  | 0x8 => rsvdZero x DestRec.rsvd && DestRec.kind x ≤ 2
  | 0x9 => rsvdZero x FinDesc.rsvd && FinDesc.decode x ≤ 1 && FinDesc.scoreFn x ≤ 1 && FinDesc.inFmt x < 12
      && (List.range (FinDesc.levels x)).all fun l => rsvdZero (FinDesc.level x l) LevelRec.rsvd
  | 0xA => rsvdZero x FusDesc.rsvd
  | 0xB => rsvdZero x ShelfDesc.rsvd && (List.range (ShelfDesc.shelves x)).all fun k => rsvdZero (ShelfDesc.shelf x k) ShelfRec.rsvd
  | 0xC => rsvdZero x RobotHdr.rsvd
      && (List.range (RobotHdr.dof x)).all (fun j => rsvdZero (Robot.joint x j) JointRec.rsvd && JointRec.type (Robot.joint x j) ≤ 1)
      && (List.range (RobotHdr.bodies x)).all fun k => rsvdZero (Robot.body x k) BodyRec.rsvd
  | 0xD => rsvdZero x PlanDesc.rsvd && PlanDesc.mode x ≤ 2
  | 0xE => rsvdZero x SStruct.rsvd
  | 0xF => rsvdZero x SDesc.rsvd && SDesc.warm x ≤ 2
  | 0x10 => rsvdZero x CeDesc.rsvd
      && (List.range (CeDesc.p x)).all (fun i =>
        let e := CeDesc.input x i
        fld e 7 2 == 0 && fld e 31 24 == 0 && match InMap.src e with
          | 0 => fld e 63 55 == 0
          | 1 => fld e 54 48 == 0 && fld e 63 56 == 0
          | 2 => fld e 49 48 == 0 && fld e 63 55 == 0
          | _ => true)
      && (List.range (CeDesc.r x)).all fun i => fld (CeDesc.monitor x i) 31 4 == 0
  | 0x11 => rsvdZero x SlotRec.rsvd
  | 0x12 => rsvdZero x PoolRec.rsvd
  | _ => true

/-- Runs of container bytes that belong to the header, the table, a record or the signature (R733, R735). -/
def usedRuns (b : Bytes) : List (Nat × Nat) :=
  (0, 64 + 16 * PlanHdr.sections (planHdr b)) :: (b.length - 384, 384)
    :: (planTable b).flatMap fun s => secRecords b s.type s.off s.count

/-- Every other byte is zero (R735). -/
def paddingOk (b : Bytes) : Bool :=
  let us := usedRuns b
  b.zipIdx.all fun c => c.1 == 0 || us.any fun u => u.1 ≤ c.2 && c.2 < u.1 + u.2

/-- Step 4 of R736. -/
def reservedOk (b : Bytes) : Bool :=
  rsvdZero (planHdr b) PlanHdr.rsvd && (planTable b).all (fun s => rsvdZero s.image SecEntry.rsvd)
    && (planTable b).all (fun s => (planImages b s.type).all (recRsvdOk s.type))
    && (allCommands b).all cmdRsvdOk
    && (List.range (planRecords b 3).length).all (fun i =>
        (progTiles b i).all fun t => (staticDmas b t).all fun p => staticRsvdOk p.2)
    && paddingOk b

/-! ### Step 5: the section table -/

/-- Bytes from the first record of a section to the end of its last. -/
def secEnd (b : Bytes) (s : Section) : Nat :=
  match (secRecords b s.type s.off s.count).getLast? with
  | some r => r.1 + r.2 - s.off
  | none => 0

/-- Step 5 of R736, with the layout of R733. A section's LENGTH ends at its last record or at the padding after it. -/
def tableOk (b : Bytes) : Bool :=
  let ss := planTable b
  let tableEnd := 64 + 16 * PlanHdr.sections (planHdr b)
  1 ≤ ss.length && ss.length ≤ 18 && b.length % 32 == 0 && PlanHdr.partMask (planHdr b) != 0
    && (ss.map (·.type)).eraseDups.length == ss.length
    && ss.all (fun s => 1 ≤ s.type && s.type ≤ 0x12 && s.off % 32 == 0 && tableEnd ≤ s.off
        && s.off + s.len + 384 ≤ b.length && (s.len == secEnd b s || s.len == roundUp (secEnd b s) 32))
    && ss.zipIdx.all fun p => ss.zipIdx.all fun q =>
        p.2 == q.2 || p.1.off + p.1.len ≤ q.1.off || q.1.off + q.1.len ≤ p.1.off

/-! ### Step 6: the records -/

def inRange (lo hi v : Nat) : Bool := lo ≤ v && v ≤ hi
def mult (m v : Nat) : Bool := v % m == 0

/-- R560, R642: one partition record. -/
def partOk (d : Device) (x : Image) : Bool :=
  let k := (setsOf (PartRec.setMask x)).length
  (!PartRec.noFabric x || (PartRec.gx0 x == 0 && PartRec.gx1 x == 0 && PartRec.gy0 x == 0 && PartRec.gy1 x == 0))
    && PartRec.gx0 x ≤ PartRec.gx1 x && PartRec.gy0 x ≤ PartRec.gy1 x && 1 ≤ k
    && inRange 1 128 (PartRec.memGib x) && mult k (PartRec.memGib x)
    && (setsOf (PartRec.setMask x)).all fun s => !(d.memSet s).excluded

/-- R562: partitions do not meet in a group, a way or a full set. -/
def partsApart (ps : List Image) : Bool :=
  (ps.zipIdx.all fun p => ps.zipIdx.all fun q => p.2 == q.2 ||
      (!((List.range 32).any fun g => PartRec.hasGroup p.1 g && PartRec.hasGroup q.1 g)
        && PartRec.wayMask p.1 &&& PartRec.wayMask q.1 == 0))
    && (List.range 4).all fun s =>
        ((ps.filter fun p => bitAt (PartRec.setMask p) s).map fun p =>
          PartRec.memGib p / max 1 (setsOf (PartRec.setMask p)).length).foldl (· + ·) 0 ≤ 32

def partRecOf (b : Bytes) (p : Nat) : Option Image := (planImages b 1).find? fun x => PartRec.part x == p

/-- Classes that an engine allows (R537). -/
def engineClass (e c : Nat) : Bool :=
  match e with
  | 0 => true
  | 1 | 2 => c == 1 || c == 2
  | 3 | 4 => c != 0
  | 5 => c ≤ 1
  | _ => false

/-- R542. -/
def triggerOk (b : Bytes) (x : Image) : Bool :=
  let bg := JobRec.cls x == 3
  let e := JobRec.engine x
  let dl := JobRec.deadlineUs x
  let per := JobRec.periodUs x
  if e = 2 ∨ e = 5 then JobRec.trigger x == 0 && per == 0 && dl == 0
  else match JobRec.trigger x with
    | 0 => inRange 50 10000000 per && dl ≤ per && (1 ≤ dl || bg)
    | 1 => per == 0 && dl ≤ 10000000 && (1 ≤ dl || bg) && hookOf b (JobRec.jobId x) (JobRec.triggerHook x)
    | 2 => per == 0 && dl == 0 && bg
    | _ => false

def jobVariants (x : Image) : List Image := (List.range (JobRec.variants x)).map (JobRec.variant x)

/-- Tiles of every variant of a TRESTLE job. -/
def tilesOfJob (b : Bytes) (x : Image) : List Nat :=
  if JobRec.engine x = 0 then (jobVariants x).flatMap fun v => progTileIds b (VarRec.programRef v) else []

/-- The program image of a set keeps clear of the tensors at home in the view (R738). -/
def imageClear (b : Bytes) (part ref : Nat) : Bool :=
  match (planRecords b 3)[ref]? with
  | none => false
  | some (_, r) =>
    let base := ProgSet.imageBase (imageAt r 0 32)
    let n := ((progTiles b ref).map fun t => roundUp (16 * t.commands.length) 1024).foldl (· + ·) 0
    (planImages b 4).all fun x => TensorRec.home x != 1 || TensorRec.part x != part ||
      TensorRec.viewAddr x + TensorRec.bytes x ≤ base || base + n ≤ TensorRec.viewAddr x

/-- Static DMA rows of a job's programs lie in the KV window. -/
def usesWindow (b : Bytes) (x : Image) : Bool :=
  (jobVariants x).any fun v =>
    let ts := progTiles b (VarRec.programRef v)
    ts.any fun t => (staticDmas b t).any fun p => inKvWindow (DmaDesc.memAddr p.2)

/-- An adapter's rank, and the format of its layer's base weights (R251): an MX format, BF16, FP16 or FP32. -/
def adapterOk (a : Config.AdapterUse) : Bool :=
  inRange 1 64 a.rank && (match TFmt.ofCode a.baseFormat with
    | some f => f.isMX || f.isFloat
    | none => false)

/-- R203, R206, R207, R227, R230, R251, R252 for what the Plan says of a job's sequence models (log entry 44). -/
def seqPlanOk (s : Config.SeqPlan) (variants cls : Nat) : Bool :=
  s.bounds.length ≤ 8 && s.bounds.all (fun u => mult 256 u && u ≤ 262144 && u != 0)
    && (pairsOf s.bounds).all (fun p => decide (p.1 < p.2))
    && s.capacities.all (inRange 1 256) && s.variants.all (fun v => decide (v < variants))
    && s.layers.all (fun l => mult 32 l.1 && inRange 32 1024 l.1 && (l.2 == 0xB || l.2 == 0x3))
    && s.trees.all (fun t => t.1.all (inRange 2 16) && t.2 ≤ 10)
    && s.adapters.all (fun a => adapterOk a && (!a.trains || cls == 3))

/-- R535 to R542, R252, R742: one job record. -/
def jobOk (b : Bytes) (x : Image) : Bool :=
  let e := JobRec.engine x
  let j := JobRec.jobId x
  match partRecOf b (JobRec.part x) with
  | none => false
  | some part =>
    engineClass e (JobRec.cls x) && triggerOk b x && inRange 1 4 (JobRec.variants x) && mult 256 (JobRec.compRing x)
      && match e with
        | 0 => hookIf b j (JobRec.resultHook x) (JobRec.resultHook x)
            && (JobRec.cls x != 3 || (mult 256 (JobRec.saveBase x) && (jobVariants x).all fun v =>
                JobRec.saveBase x + saveImage * VarRec.tiles v ≤ PartRec.memGib part * 2 ^ 30))
            && ((jobVariants x).all fun v => variantOk b x part v && imageClear b (JobRec.part x) (VarRec.programRef v))
            && (!usesWindow b x || (planImages b 0x12).any fun p => PoolRec.jobId p == j)
            && seqPlanOk (Config.planSeq b j) (JobRec.variants x) (JobRec.cls x)
        | _ => JobRec.variants x == 1 && VarRec.programRef (JobRec.variant x 0) == 0 && VarRec.tiles (JobRec.variant x 0) == 0

/-- A job trains an adapter; a job serves with one (R255, R256). -/
def jobTrains (b : Bytes) (x : Image) : Bool := (Config.planSeq b (JobRec.jobId x)).adapters.any (·.trains)
def jobServes (b : Bytes) (x : Image) : Bool := (Config.planSeq b (JobRec.jobId x)).adapters.any fun a => !a.trains

/-- R541, R256, R538: the jobs of a Plan among themselves. -/
def jobsApart (b : Bytes) : Bool :=
  let js := planJobs b
  (js.map JobRec.jobId).eraseDups.length == js.length && js.length ≤ 1024
    && js.zipIdx.all fun p => js.zipIdx.all fun q => p.2 ≤ q.2 ||
      !((tilesOfJob b p.1).any (tilesOfJob b q.1).contains) ||
        ((JobRec.cls p.1 == 3 || JobRec.cls q.1 == 3)
          && !(jobTrains b p.1 && jobServes b q.1) && !(jobTrains b q.1 && jobServes b p.1))

/-- R738: the layout of one program set, and the rules of its programs. -/
def progSetOk (b : Bytes) (i : Nat) : Bool :=
  match (planRecords b 3)[i]? with
  | none => false
  | some (_, r) =>
    let n := ProgSet.tiles (imageAt r 0 32)
    let es := (List.range n).map fun k => imageAt r (32 + 16 * k) 16
    inRange 1 4096 n && mult 4096 (ProgSet.imageBase (imageAt r 0 32))
      && (es.map ProgEntry.tile).eraseDups.length == n
      && (es.all fun e => ProgEntry.tile e < 4096 && inRange 1 65536 (ProgEntry.commands e) && ProgEntry.initWords e ≤ 4095
          && mult 16 (ProgEntry.codeOff e) && mult 32 (ProgEntry.initOff e))
      && progSetRules b i

/-- Stored bytes of `n` rows of `c` elements, of which MX formats pad each to whole blocks (R29 to R32, R321): the element plane
and, for an MX format, the scale plane. -/
def storedBytes (f : TFmt) (n c : Nat) : Nat :=
  let e := n * if f.isMX then roundUp c 32 else c
  ceilDiv (e * f.width) 8 + if f.isMX then e / 32 else 0

/-- R24, R32, R739: one tensor record. FP8_E4M3 is a format of the latent cache alone; an MX tensor, whose reduction axis is a
multiple of 32, holds whole blocks of 32 elements and their scale bytes. -/
def tensorOk (b : Bytes) (x : Image) : Bool :=
  let f := tfmt (TensorRec.format x)
  bitAt (PlanHdr.partMask (planHdr b)) (TensorRec.part x) && (TensorRec.home x == 0 || mult 256 (TensorRec.viewAddr x))
    && f != .fp8e4m3 && (!f.isMX || mult (4 * f.width + 1) (TensorRec.bytes x))

def tensor (b : Bytes) (i : Nat) : Option Image := planRec b 4 i

def tensorIs (b : Bytes) (i h w c f : Nat) : Bool :=
  match tensor b i with
  | some x => TensorRec.h x == h && TensorRec.w x == w && TensorRec.c x == c && TensorRec.format x == f
  | none => false

def tensorFmt (b : Bytes) (i f : Nat) : Bool := (tensor b i).any fun x => TensorRec.format x == f

/-- A record's BYTES. -/
def recBytes (b : Bytes) (i n : Nat) : Bool := (tensor b i).any fun x => TensorRec.bytes x == n

/-- A record is the head tensor of a Finisher's level 0, whose home begins with the frame tag (R339). -/
def isHead0 (b : Bytes) (i : Nat) : Bool := (planImages b 9).any fun f => LevelRec.inRef (FinDesc.level f 0) == i

/-- A feature map's record: sizes, format and stored size (R320, R321). -/
def mapIs (b : Bytes) (i h w c f : Nat) : Bool :=
  tensorIs b i h w c f && (recBytes b i (storedBytes (tfmt f) (h * w) c)
    || (isHead0 b i && recBytes b i (storedBytes (tfmt f) (h * w) c + 32)))

/-- Stored bytes of an operator's weights (R322, R323, R329): an MX format is stored in whole blocks along the reduction runs. -/
def weightBytes (x : Image) : Nat :=
  let f := tfmt (OpDesc.wfmt x)
  let g := max 1 (OpDesc.groups x)
  let taps := OpDesc.kh x * OpDesc.kw x
  let cg := OpDesc.cIn x / g
  if OpDesc.op x = 1 then storedBytes f (OpDesc.cOut x / g * taps) (OpDesc.cIn x)
  else if OpDesc.packTaps x then storedBytes f (OpDesc.cOut x * OpDesc.kh x) (OpDesc.kw x * cg)
  else storedBytes f (OpDesc.cOut x * taps) cg

/-- Output size of CONV and windowed pooling along an axis (R326). -/
def convOut (n lo hi dil k stride : Nat) : Int := ((n + lo + hi : Nat) - (dil * (k - 1) : Nat) - 1 : Int) / (stride : Int) + 1
/-- Output size of CONV_T (R329). -/
def convTOut (n lo hi dil k stride pad : Nat) : Int :=
  ((n - 1) * stride : Nat) - (lo + hi : Nat) + (dil * (k - 1) + 1 + pad : Nat)

/-- R315 to R331: one operator descriptor. -/
def opDescOk (b : Bytes) (x : Image) : Bool :=
  let op := OpDesc.op x
  let wf := tfmt (OpDesc.wfmt x)
  let af := tfmt (OpDesc.afmt x)
  let pool := 2 ≤ op
  let global := 4 ≤ op
  let cg := OpDesc.cIn x / max 1 (OpDesc.groups x)
  let size (n lo hi dil k s pad : Nat) : Int := if global then 1 else if op = 1 then convTOut n lo hi dil k s pad
    else convOut n lo hi dil k s
  let oh := size (OpDesc.inH x) (OpDesc.padT x) (OpDesc.padB x) (OpDesc.dh x) (OpDesc.kh x) (OpDesc.sh x) (OpDesc.outPadH x)
  let ow := size (OpDesc.inW x) (OpDesc.padL x) (OpDesc.padR x) (OpDesc.dw x) (OpDesc.kw x) (OpDesc.sw x) (OpDesc.outPadW x)
  let pads := OpDesc.padT x + OpDesc.padB x + OpDesc.padL x + OpDesc.padR x
  inRange 1 15 (OpDesc.kh x) && inRange 1 15 (OpDesc.kw x) && inRange 1 64 (OpDesc.sh x) && inRange 1 64 (OpDesc.sw x)
    && inRange 1 64 (OpDesc.dh x) && inRange 1 64 (OpDesc.dw x) && inRange 1 (OpDesc.cIn x) (OpDesc.groups x)
    && inRange 1 16384 (OpDesc.cIn x) && inRange 1 16384 (OpDesc.cOut x) && inRange 1 8192 (OpDesc.inH x)
    && inRange 1 8192 (OpDesc.inW x)
    && (OpDesc.border x != 2 || F32.isFinite (OpDesc.borderValue x)) && (op != 1 || OpDesc.border x == 0)
    && (if op = 1 then OpDesc.outPadH x < OpDesc.sh x && OpDesc.outPadW x < OpDesc.sw x
        else OpDesc.outPadH x == 0 && OpDesc.outPadW x == 0)
    && (!pool || (OpDesc.cOut x == OpDesc.cIn x && af.isFloat))
    && (!global || (OpDesc.kh x == 1 && OpDesc.kw x == 1 && OpDesc.sh x == 1 && OpDesc.sw x == 1 && OpDesc.dh x == 1
        && OpDesc.dw x == 1 && pads == 0))
    && (pool || (mult (max 1 (OpDesc.groups x)) (OpDesc.cIn x) && mult (max 1 (OpDesc.groups x)) (OpDesc.cOut x)
        && (!OpDesc.packTaps x || cg < wf.redLen)
        && (if op = 0 ∧ cg = 1 then wf.isFloat && af.isFloat else pairOk wf af && af != .fp8e4m3)
        && tensorFmt b (OpDesc.wRef x) (OpDesc.wfmt x) && recBytes b (OpDesc.wRef x) (weightBytes x)))
    && (1 : Int) ≤ oh && oh ≤ 8192 && (1 : Int) ≤ ow && ow ≤ 8192
    && mapIs b (OpDesc.inRef x) (OpDesc.inH x) (OpDesc.inW x) (OpDesc.cIn x) (OpDesc.afmt x)
    && af != .fp8e4m3 && tfmt (OpDesc.outFmt x) != .fp8e4m3
    && mapIs b (OpDesc.outRef x) oh.toNat ow.toNat (OpDesc.cOut x) (OpDesc.outFmt x)
    && (!OpDesc.biasEn x || (tensorFmt b (OpDesc.biasRef x) 0xA && recBytes b (OpDesc.biasRef x) (4 * OpDesc.cOut x)))

def isJob (b : Bytes) (j : Nat) : Bool := (planJobs b).any fun x => JobRec.jobId x == j

/-- R740, R741: the Hook records, halo Hooks with the counts of R191. -/
def hooksOk (b : Bytes) : Bool :=
  let hs := planImages b 6
  (hs.map HookRec.hook).eraseDups.length == hs.length
    && hs.all (fun x => inRange 256 16383 (HookRec.hook x) && (HookRec.shared x || isJob b (HookRec.jobId x)))
    && (planImages b 7).all fun h => hs.all fun x =>
        (HookRec.hook x != HaloRec.dataHook h || HookRec.init x == 0)
          && (HookRec.hook x != HaloRec.creditHook h || HookRec.init x == HaloRec.h h)

/-- R190, R741: one halo record, between tiles of its job. -/
def haloOk (b : Bytes) (x : Image) : Bool :=
  let j := HaloRec.jobId x
  let ts := ((planJobs b).filter fun r => JobRec.jobId r == j).flatMap (tilesOfJob b)
  inRange 1 64 (HaloRec.h x) && HaloRec.rowWords x != 0
    && 32 * (HaloRec.base x + HaloRec.h x * HaloRec.rowWords x) ≤ startWordAddr
    && hookOf b j (HaloRec.dataHook x) && hookOf b j (HaloRec.creditHook x)
    && ts.contains (HaloRec.producer x) && ts.contains (HaloRec.consumer x)

/-- R742: one ingest destination record. -/
def destOk (b : Bytes) (x : Image) : Bool :=
  let j := DestRec.jobId x
  let n := (progTileIds b (DestRec.programRef x)).length
  inRange 1 255 (DestRec.slots x) && isJob b j && hookOf b j (DestRec.descHook x) && hookOf b j (DestRec.freeHook x)
    && mult 256 (DestRec.recRing x)
    && (if DestRec.kind x = 0 then
          1 ≤ n && 32 * DestRec.storeAddr x + DestRec.slots x * roundUp (ceilDiv (DestRec.slotBytes x) (max 1 n)) 32 ≤ startWordAddr
        else mult 256 (DestRec.slotBase x) && mult 256 (DestRec.slotStride x))

/-- The job that names a descriptor of its engine (R535). -/
def jobOfDesc (b : Bytes) (engine i : Nat) : List Nat :=
  ((planJobs b).filter fun x => JobRec.engine x == engine && JobRec.descRef x == i).map JobRec.jobId

/-- A stream tag, 0 to 4,095, or 0xFFFF for none (R12, R783). -/
def tagOk (t : Nat) : Bool := t ≤ 4095 || t == 0xFFFF

/-- R336 to R339: one Finisher record. -/
def finDescOk (b : Bytes) (i : Nat) (x : Image) : Bool :=
  let n := FinDesc.levels x
  let lv := (List.range n).map (FinDesc.level x)
  let k := 4 + (FinDesc.objEn x).toNat + FinDesc.ncls x
  let anchors := (List.range (finAnchors (natLE x (64 + 16 * n)))).map (FinDesc.anchor x)
  tagOk (FinDesc.roiStream x) && inRange 1 8 n && inRange 8 10 (FinDesc.inFmt x) && inRange 1 1024 (FinDesc.ncls x) && inRange 1 4096 (FinDesc.maxOut x)
    && inRange 1 65536 (FinDesc.maxCand x)
    && [FinDesc.scoreT x, FinDesc.iouT x, FinDesc.varXy x, FinDesc.varWh x, FinDesc.clampWh x, FinDesc.roiMinScore x,
        FinDesc.roiScaleX x, FinDesc.roiScaleY x].all F32.isFinite
    && anchors.all (fun a => F32.isFinite a.1 && F32.isFinite a.2)
    && F32.le 0 (FinDesc.iouT x) && F32.le (FinDesc.iouT x) f32One
    && lv.all (fun l => inRange 1 1024 (LevelRec.gridW l) && inRange 1 1024 (LevelRec.gridH l) && inRange 1 255 (LevelRec.stride l)
        && inRange 1 16 (LevelRec.anchors l) && (FinDesc.decode x == 0 || LevelRec.anchors l == 1)
        && LevelRec.anchorBase l + LevelRec.anchors l ≤ 128
        && (tensor b (LevelRec.inRef l)).any fun t => TensorRec.h t == LevelRec.gridH l && TensorRec.w t == LevelRec.gridW l
            && TensorRec.c t == LevelRec.anchors l * k)
    && (lv.map fun l => LevelRec.gridW l * LevelRec.gridH l * LevelRec.anchors l).foldl (· + ·) 0 ≤ 262144
    && (tensor b (FinDesc.outRef x)).isSome
    && (jobOfDesc b 1 i).all fun j => hookOf b j (FinDesc.doneHook x) && hookOf b j (FinDesc.inHook x)

/-- R369: the Fusion descriptor. -/
def fusDescOk (b : Bytes) (i : Nat) (x : Image) : Bool :=
  tagOk (FusDesc.egoStream x) && tagOk (FusDesc.trackStream x) && FusDesc.confirm0 x ≤ 15 && inRange 125 1000000 (FusDesc.period x) && FusDesc.hold x < FusDesc.period x
    && 1 ≤ FusDesc.emitDelay x && 1 ≤ FusDesc.coWin x && 1 ≤ FusDesc.missTime x && mult 256 (FusDesc.egoRing x)
    && mult 256 (FusDesc.trackRing x) && mult 256 (FusDesc.measRing x) && 1 ≤ FusDesc.measRecords x
    && (jobOfDesc b 2 i).all fun j => hookOf b j (FusDesc.egoHook x) && hookOf b j (FusDesc.trackHook x)
        && hookOf b j (FusDesc.measHook x)

/-- A Hook that some HOOKS record of the Plan allocates. -/
def hookSome (b : Bytes) (h : Nat) : Bool := (planImages b 6).any fun r => HookRec.hook r == h

/-- R399, R404, R405: the Shelf descriptor. -/
def shelfDescOk (b : Bytes) (x : Image) : Bool :=
  inRange 1 16 (ShelfDesc.depth x) && ShelfDesc.shelves x ≤ 8 && 10 ≤ ShelfDesc.leafMm x
    && (ShelfDesc.origin x).all F32.isFinite && inRange 1 64 (ShelfDesc.slots x) && mult 256 (ShelfDesc.ring x)
    && inRange 1 2048 (ShelfDesc.slotKib x) && hookSome b (ShelfDesc.updateHook x) && hookSome b (ShelfDesc.doneHook x)
    && (List.range (ShelfDesc.shelves x)).all fun k =>
        let r := ShelfDesc.shelf x k
        10 ≤ ShelfRec.cellMm r && F32.isFinite (ShelfRec.originX r) && F32.isFinite (ShelfRec.originY r)
          && F32.isFinite (ShelfRec.zmin r) && F32.isFinite (ShelfRec.zmax r) && F32.lt (ShelfRec.zmin r) (ShelfRec.zmax r)

def positive (x : F32) : Bool := F32.isFinite x && F32.lt 0 x

/-- R419 to R421: one robot model. -/
def robotOk (x : Image) : Bool :=
  let n := RobotHdr.dof x
  inRange 1 32 n && inRange 1 256 (RobotHdr.bodies x)
    && (List.range n).all (fun j =>
        let r := Robot.joint x j
        (JointRec.parent r == 0xFF || JointRec.parent r < j)
          && (JointRec.origin r ++ JointRec.rot r ++ JointRec.axis r ++ [JointRec.lo r, JointRec.hi r]).all F32.isFinite
          && !offUnitNorm (JointRec.rot r) && !offUnitNorm (JointRec.axis r) && F32.le (JointRec.lo r) (JointRec.hi r)
          && positive (JointRec.vmax r) && positive (JointRec.amax r))
    && (List.range (RobotHdr.bodies x)).all fun k =>
        let r := Robot.body x k
        (BodyRec.link r == 0xFF || BodyRec.link r < n) && (BodyRec.p0 r ++ BodyRec.p1 r).all F32.isFinite
          && positive (BodyRec.radius r)

/-- Finite and not negative. -/
def weightOk (x : F32) : Bool := F32.isFinite x && F32.le 0 x

/-- R429 to R431: one Planner descriptor. -/
def planDescOk (b : Bytes) (i : Nat) (x : Image) : Bool :=
  tagOk (PlanDesc.outStream x) && inRange 2 16384 (PlanDesc.maxNodes x) && inRange 2 64 (PlanDesc.waypoints x) && positive (PlanDesc.step x)
    && F32.isFinite (PlanDesc.sweepTol x) && F32.le 0x3A83126F (PlanDesc.sweepTol x) && F32.le (PlanDesc.sweepTol x) f32Half
    && weightOk (PlanDesc.wSmooth x) && weightOk (PlanDesc.wColl x)
    && ((List.range 8).all fun k => weightOk (PlanDesc.wShelf x k))
    && inRange 1 1024 (PlanDesc.optIters x) && inRange 50 10000000 (PlanDesc.budget x) && mult 256 (PlanDesc.queryRing x)
    && mult 256 (PlanDesc.outRing x) && inRange 1 256 (PlanDesc.queryRecords x) && (planImages b 0xB).length == 1
    && (planRec b 0xC (PlanDesc.modelRef x)).isSome
    && (jobOfDesc b 3 i).all fun j => hookOf b j (PlanDesc.queryHook x) && hookOf b j (PlanDesc.outHook x)

/-- Starts at 0, never falls, ends at `n` (R461). -/
def colPtrOk (l : List Nat) (n : Nat) : Bool :=
  l.head? == some 0 && l.getLast? == some n && (pairsOf l).all fun p => p.1 ≤ p.2

/-- The rows of column `j`. -/
def columnRows (ptr rows : List Nat) (j : Nat) : List Nat :=
  (rows.drop (nth ptr j 0)).take (nth ptr (j + 1) 0 - nth ptr j 0)

def ascending (l : List Nat) : Bool := (pairsOf l).all fun p => p.1 < p.2

/-- R458 to R463: one structure record. -/
def structOk (x : Image) : Bool :=
  let n := SStruct.n x
  let m := SStruct.m x
  let pp := SStruct.array x 0
  let pr := SStruct.array x 1
  let ap := SStruct.array x 2
  let ar := SStruct.array x 3
  let vs := SStruct.values x
  let y := SStruct.symbolic x
  inRange 1 4096 n && m ≤ 8192 && inRange n 262144 (SStruct.nnzP x) && SStruct.nnzA x ≤ 262144
    && colPtrOk pp (SStruct.nnzP x) && colPtrOk ap (SStruct.nnzA x)
    && (List.range n).all (fun j => ascending (columnRows pp pr j) && ascending (columnRows ap ar j)
        && (columnRows pp pr j).head? == some j && (columnRows pp pr j).all (· < n) && (columnRows ap ar j).all (· < m))
    && SStruct.kktNnz x ≤ 262144 && (!SStruct.orderGiven x || isPerm (n + m) (SStruct.array x 9))
    && ((nth vs 0 []) ++ (nth vs 1 []) ++ (nth vs 2 [])).all F32.isFinite
    && (List.zip (nth vs 3 []) (nth vs 4 [])).all (fun p => !F32.isNaN p.1 && !F32.isNaN p.2 && p.1 != f32Inf
        && p.2 != f32NegInf && F32.le p.1 p.2)
    && y.lnnz + n + m ≤ 1048576

/-- R464: the totals of one Solver instance over the Plan's jobs. -/
def instanceOk (b : Bytes) (k : Nat) : Bool :=
  let xs := ((planJobs b).filter fun x => JobRec.engine x == 4).filterMap fun x =>
    match planRec b 0xF (JobRec.descRef x) with
    | some s => if SDesc.inst s = k then planRec b 0xE (SDesc.structRef s) else none
    | none => none
  (xs.map fun (x : Image) => (SStruct.symbolic x).lnnz + SStruct.n x + SStruct.m x).foldl (· + ·) 0 ≤ 1048576
    && (xs.map SStruct.kktNnz).foldl (· + ·) 0 ≤ 262144

/-- R467, R469: one Solver descriptor. -/
def solvDescOk (b : Bytes) (i : Nat) (x : Image) : Bool :=
  tagOk (SDesc.outStream x) && SDesc.maxIter0 x ≤ 254 && inRange 1 64 (SDesc.slots x) && inRange 1 4096 (SDesc.slotKib x) && inRange 20 10000000 (SDesc.budget x)
    && positive (SDesc.tolP x) && positive (SDesc.tolD x) && positive (SDesc.tolGap x) && mult 256 (SDesc.updateRing x)
    && mult 256 (SDesc.resultRing x) && (SDesc.warm x != 2 || mult 256 (SDesc.warmAddr x))
    && (planRec b 0xE (SDesc.structRef x)).isSome
    && (jobOfDesc b 4 i).all fun j => hookIf b j (SDesc.inHook x) (SDesc.inCount x) && hookOf b j (SDesc.updateHook x)
        && hookOf b j (SDesc.updateDoneHook x) && hookOf b j (SDesc.resultHook x)

/-- Shortest period of a slot (R519). -/
def CeDesc.shortest (x : Image) : Nat := CeDesc.period x - if CeDesc.lockEn x then CeDesc.period x / 8 else 0

/-- The class of the job that a slot belongs to. -/
def ceClass (b : Bytes) (x : Image) : Option Nat :=
  ((planJobs b).find? fun j => JobRec.jobId j == CeDesc.jobId x && JobRec.engine j == 5).map JobRec.cls

/-- T_out and T_all of R521. -/
def CeDesc.tOut (x : Image) : Nat := 128 * (CeDesc.m x * ceilDiv (CeDesc.n x + CeDesc.p x) 16 + 2) + 24
def CeDesc.tAll (x : Image) : Nat :=
  let w := ceilDiv (CeDesc.n x + CeDesc.p x) 16
  let v := ceilDiv (CeDesc.q x + CeDesc.m x) 16
  128 * (CeDesc.m x * w + CeDesc.n x * w + (CeDesc.q x + CeDesc.r x) * v + 2) + 24

/-- An INPUT_MAP entry names what the Plan holds (R505, R510); a feedback stream is bound later. -/
def inMapOk (b : Bytes) (e : Image) : Bool :=
  match InMap.src e with
  | 0 => InMap.source e ≤ 4095
  | 1 => (planJobs b).any fun j => JobRec.jobId j == InMap.source e && JobRec.engine j == 4
      && ((planRec b 0xF (JobRec.descRef j)).bind fun s => planRec b 0xE (SDesc.structRef s)).any fun t =>
          InMap.index e < SStruct.n t
  | 2 => (planImages b 0x10).any fun c => CeDesc.slot c == InMap.source e && InMap.index e < CeDesc.m c
  | _ => InMap.source e == 0

/-- R502 to R505, R521: one slot descriptor. -/
def ceDescOk (b : Bytes) (x : Image) : Bool :=
  match ceClass b x with
  | none => false
  | some cls =>
    let safety := cls == 0
    CeDesc.n x ≤ 16 && inRange 1 16 (CeDesc.p x) && inRange 1 16 (CeDesc.m x) && CeDesc.q x ≤ 8 && CeDesc.r x ≤ 8
      && (CeDesc.r x != 0 || CeDesc.q x == 0) && (CeDesc.r x == 0 || 1 ≤ CeDesc.plausM x)
      && inRange 30000 600000000 (CeDesc.period x) && CeDesc.latchPhase x < CeDesc.outPhase x
      && CeDesc.outPhase x < CeDesc.shortest x
      && CeDesc.tOut x + (if safety then 8 else 0) ≤ CeDesc.outPhase x - CeDesc.latchPhase x
      && CeDesc.tAll x ≤ CeDesc.shortest x && CeDesc.outStream x ≤ 4095 && CeDesc.outChannel x + CeDesc.m x ≤ 65536
      && (!safety || CeDesc.slot x < 128)
      && ((List.range (CeDesc.p x)).all fun i => inMapOk b (CeDesc.input x i))
      && (List.range (CeDesc.r x)).all fun i =>
          MonMap.input (CeDesc.monitor x i) < CeDesc.p x && 0 < MonMap.bound (CeDesc.monitor x i)

/-- R505: the slots among themselves: numbers, twins and output channels. -/
def slotsApart (b : Bytes) : Bool :=
  let cs := planImages b 0x10
  cs.zipIdx.all fun p => cs.zipIdx.all fun q => p.2 == q.2 ||
    (CeDesc.slot p.1 != CeDesc.slot q.1 && (ceClass b p.1 != some 0 || CeDesc.slot q.1 != CeDesc.slot p.1 + 128)
      && (CeDesc.outStream p.1 != CeDesc.outStream q.1 || CeDesc.outChannel p.1 + CeDesc.m p.1 ≤ CeDesc.outChannel q.1
          || CeDesc.outChannel q.1 + CeDesc.m q.1 ≤ CeDesc.outChannel p.1))

/-- R242, R541, R742: the state slots. -/
def stateSlotsOk (b : Bytes) : Bool :=
  let ss := planImages b 0x11
  (ss.map SlotRec.slot).eraseDups.length == ss.length && ss.all fun x =>
    isJob b (SlotRec.jobId x) && mult 256 (SlotRec.home x) &&
      ((planJobs b).filter fun j => JobRec.jobId j == SlotRec.jobId x).all fun j => (jobVariants j).all fun v =>
        (Config.slotSlices b (SlotRec.slot x)).all fun s => (progTileIds b (VarRec.programRef v)).contains s.1

/-- R742: the KV pools, one for a job. -/
def poolsOk (b : Bytes) : Bool :=
  let ps := planImages b 0x12
  (ps.map PoolRec.jobId).eraseDups.length == ps.length && ps.all fun x =>
    isJob b (PoolRec.jobId x) && bitAt (PlanHdr.partMask (planHdr b)) (PoolRec.part x) && inRange 1 262144 (PoolRec.pages x)
      && mult 4096 (PoolRec.base x) && mult 256 (PoolRec.stepList x)

/-- A predicate on the records of a section, each with its index. -/
def eachRec (b : Bytes) (type : Nat) (f : Nat → Image → Bool) : Bool := (planImages b type).zipIdx.all fun p => f p.2 p.1

/-- Step 6 of R736: every failure is ST_CONFIG. -/
def sectionsOk (d : Device) (b : Bytes) : Bool :=
  eachRec b 1 (fun _ x => partOk d x) && partsApart (planImages b 1)
    && eachRec b 2 (fun _ x => jobOk b x) && jobsApart b && eachRec b 3 (fun i _ => progSetOk b i)
    && eachRec b 4 (fun _ x => tensorOk b x) && eachRec b 5 (fun _ x => opDescOk b x) && hooksOk b
    && eachRec b 7 (fun _ x => haloOk b x) && eachRec b 8 (fun _ x => destOk b x) && eachRec b 9 (finDescOk b)
    && (planImages b 0xA).length ≤ 1 && eachRec b 0xA (fusDescOk b)
    && (planImages b 0xB).length ≤ 1 && eachRec b 0xB (fun _ x => shelfDescOk b x)
    && eachRec b 0xC (fun _ x => robotOk x) && eachRec b 0xD (planDescOk b) && eachRec b 0xE (fun _ x => structOk x)
    && eachRec b 0xF (solvDescOk b) && (List.range 4).all (instanceOk b)
    && eachRec b 0x10 (fun _ x => ceDescOk b x) && slotsApart b && stateSlotsOk b && poolsOk b

/-! ### Step 7: completeness -/

/-- R537: a job's DESC_REF names a descriptor of its engine. -/
def descRefOk (b : Bytes) (x : Image) : Bool :=
  match JobRec.engine x with
  | 1 => (planRec b 9 (JobRec.descRef x)).isSome
  | 2 => (planRec b 0xA (JobRec.descRef x)).isSome
  | 3 => (planRec b 0xD (JobRec.descRef x)).isSome
  | 4 => (planRec b 0xF (JobRec.descRef x)).isSome
  | _ => true

/-- Step 7 of R736. -/
def completeOk (b : Bytes) : Bool :=
  let ps := (planImages b 1).map PartRec.part
  (List.range 8).all (fun p => (ps.filter (· == p)).length == (if bitAt (PlanHdr.partMask (planHdr b)) p then 1 else 0))
    && (planSection b 2).isSome && (planJobs b).all fun x => descRefOk b x

/-! ### The whole check -/

/-- R538 against the Plans active in partitions that this one does not configure. -/
def Device.jobIdsFree (d : Device) (b : Bytes) : Bool :=
  let others := d.activeJobs.filter fun r => !bitAt (PlanHdr.partMask (planHdr b)) r.part
  others.length + (planJobs b).length ≤ 1024
    && (planJobs b).all fun x => others.all fun r => JobRec.jobId r.image != JobRec.jobId x

/-- What the signature of a Plan covers (R736, R763). -/
def planSigned (b : Bytes) : Bytes := b.take (b.length - 384)

/-- R736: the status of the first step that fails; `len` is the object's LENGTH. -/
def Device.planCheck (d : Device) (b : Bytes) (len : Nat) : Option Status :=
  if !versionsOk b then some stVersion
  else if PlanHdr.totalLen (planHdr b) ≠ len then some stConfig
  else if !d.bur.nv.verifies d.bur.fwImage (PlanHdr.keySlot (planHdr b)) (planSigned b) (b.drop (b.length - 384)) then
    some stSignature
  else if !reservedOk b then some stReserved
  else if !tableOk b || !sectionsOk d b || !completeOk b || !d.jobIdsFree b then some stConfig
  else none

end Sys2Proof.Machine
end

