-- ==== Sys2Proof/Machine/Plans.lean ====
section
/-!
DEFINITION. Plans and partitions: loading, listing and unloading (R732, R737, R743, R770), the checks of an activation
against what is active (R128, R505, R562, R681, R737, R778, R779), the boundary of R574 with the installation of the new
sections, and PARTITION_SET (R573).
-/

namespace Sys2Proof.Machine

/-! ### The monitor table (R681, R823) -/

def monEntry (key : MonKey) (cls trigger : Nat) (lock : Bool) (period deadline : Nat) : MonEntry :=
  { key, cls, trigger, lock, period, deadline, misses := 0, presents := 0, checks := [], late := false,
    startBy := none, behind := false }

/-- The table that the active Plans give: jobs by ascending JOB_ID, then slots by ascending number. -/
def Device.monTable (d : Device) : List MonEntry :=
  let js := sortBy (fun (a b : JobRef) => decide (a.id ≤ b.id))
    (d.activeJobs.filter fun r => decide (r.cls ≤ 1) && r.engine != engControl)
  let cs := sortBy (fun (a b : Image) => decide (CeDesc.slot a ≤ CeDesc.slot b)) (d.ceDescs.map (·.2))
  (js.map fun r => monEntry (.job r.id) r.cls (JobRec.trigger r.image) (JobRec.lockEn r.image) (JobRec.periodUs r.image)
      (JobRec.deadlineUs r.image))
    ++ cs.map fun c => monEntry (.slot ⟨CeDesc.slot c % 256, Nat.mod_lt _ (by decide)⟩)
      (((d.job (BitVec.ofNat 16 (CeDesc.jobId c))).map JobRef.cls).getD 0) 0 (CeDesc.lockEn c) (CeDesc.period c) 0

def monKind : MonKey → Nat
  | .job _ => 0
  | .slot _ => 1

def monId : MonKey → Nat
  | .job j => j.toNat
  | .slot s => s.val

def MonEntry.bytes (e : MonEntry) : Bytes :=
  natLE (mkImage [(0, 2, monKind e.key), (2, 2, e.cls), (4, 2, e.trigger), (6, 1, e.lock.toNat), (16, 16, monId e.key),
    (32, 32, e.period), (64, 32, e.deadline)]) 16

/-- R823: the table as it is hashed. -/
def tableBytes (t : List MonEntry) : Bytes := natLE (mkImage [(0, 4, 1), (16, 16, t.length)]) 16 ++ t.flatMap MonEntry.bytes

def tableDigest (t : List MonEntry) : BitVec 64 := BitVec.ofNat 64 (leNat ((sha256 (tableBytes t)).take 8))

/-- An entry as the table gives it, without its counts. -/
def MonEntry.blank (e : MonEntry) : MonEntry := monEntry e.key e.cls e.trigger e.lock e.period e.deadline

/-- The job or slot of an entry stays started through the activation that brings the table: the other engines' jobs
have stopped by step 5 of R574. -/
def Device.monStarted (d : Device) : MonKey → Bool
  | .job j => match d.run j, d.job j with
    | some x, some r => x.started && r.engine == engFusion
    | _, _ => false
  | .slot s => (d.slot s.val).running

/-- R681: the Lectern accepts a table only while no job that it changes is started. -/
def Device.lectAccepts (d : Device) (t : List MonEntry) : Bool :=
  d.lect.table.all fun e => match t.find? fun n => n.key == e.key with
    | some n => e.blank == n || !d.monStarted e.key
    | none => true

/-- The Lectern takes a table: an entry that stands unchanged keeps its counts. -/
def Device.installTable (d : Device) : Device :=
  let t := d.monTable
  let table := t.map fun n => match d.lect.table.find? fun (e : MonEntry) => e.key == n.key with
    | some e => if e.blank = n then e else n
    | none => n
  { d with lect := { d.lect with table, digest := tableDigest t } }

/-! ### Outbound bindings (R778, R779) -/

/-- Producer kinds of R778 with the tags that the active Plans give them: 0 Control Engine slot, 1 Fusion, 2 Solver,
3 Planner. -/
def Device.producers (d : Device) : List (Nat × Nat) :=
  (d.ceDescs.map fun c => (CeDesc.outStream c.2, 0))
    ++ d.activeJobs.flatMap fun r => match r.engine, r.desc with
      | 2, some x => [(FusDesc.egoStream x, 1), (FusDesc.trackStream x, 1)]
      | 4, some x => [(SDesc.outStream x, 2)]
      | 3, some x => [(PlanDesc.outStream x, 3)]
      | _, _ => []

/-- Data types of a producer. -/
def producerDts : Nat → List Nat
  | 0 => [0x30, 0x33]
  | 1 => [0x31]
  | 2 => [0x31]
  | _ => [0x32]

/-- R778, R779 hold for every binding whose tag has a producer. -/
def Device.outboundOk (d : Device) : Bool :=
  let ps := d.producers
  let kinds (tag : Nat) : List Nat := (ps.filter fun p => p.1 == tag).map (·.2)
  d.ports.outBinds.all fun b =>
    (kinds b.1).all (fun k => (producerDts k).contains b.2.2.2.toNat)
      && (!(kinds b.1).contains 0 || d.ports.outBinds.all fun c =>
        !(c.2.1 == b.2.1 && c.2.2.1 == b.2.2.1) || (kinds c.1).all (· == 0))

/-! ### What an activation would make (R562, R576, R737) -/

/-- The record that a partition would have: PARTITION_SET's, or the Plan's (R573). -/
def Device.recordFor (d : Device) (b : Bytes) (p : Nat) : Option Image :=
  match (d.part p).next with
  | some x => some x
  | none => partRecOf b p

/-- The device with a Plan active in the partitions `ps`. -/
def Device.withPlan (d : Device) (ps : List Nat) (h : BitVec 16) : Device :=
  match d.plan h with
  | none => d
  | some pl =>
    let parts := d.jobs.parts.zipIdx.map fun (x : Partition × Nat) =>
      if ps.contains x.2 then { x.1 with active := some h, record := d.recordFor pl.bytes x.2 } else x.1
    { d with jobs := { d.jobs with parts } }

/-- The memory view of a partition changes (R575). -/
def Device.viewChanges (d e : Device) (p : Nat) : Bool :=
  match (d.part p).record, (e.part p).record with
  | some a, some b => PartRec.setMask a != PartRec.setMask b || PartRec.memGib a != PartRec.memGib b
  | none, some _ => true
  | _, none => false

/-- The lowest multiple of 2²² at which `n` lines are free of the held regions (R615). -/
def placeBase (held : List (Nat × Nat)) (n : Nat) : Option Nat :=
  ((List.range 32).map fun k => k * 2 ^ 22).find? fun b =>
    decide (b + n ≤ 2 ^ 27) && held.all fun h => decide (h.1 + h.2 ≤ b) || decide (b + n ≤ h.1)

/-- The regions after an activation of `ps` (R615): what changes is given up, then placed in ascending partition
number. -/
def Device.placeRegions (d e : Device) (ps : List Nat) : Option (List (Fin 8 × Fin 4 × Nat × Nat)) :=
  let ch := (List.range 8).filter fun p => ps.contains p && d.viewChanges e p
  let keep := d.mem.regions.filter fun r => !ch.contains r.1.val
  ch.foldl (fun (acc : Option (List (Fin 8 × Fin 4 × Nat × Nat))) p =>
    match (e.part p).record with
    | none => acc
    | some rec' =>
      let ss := setsOf (PartRec.setMask rec')
      let n := PartRec.memGib rec' / max 1 ss.length * 2 ^ 22
      ss.foldl (fun (acc : Option (List (Fin 8 × Fin 4 × Nat × Nat))) s =>
        match acc with
        | none => none
        | some l =>
          let held := (l.filter fun (r : Fin 8 × Fin 4 × Nat × Nat) => r.2.1.val == s).map fun r => (r.2.2.1, r.2.2.2)
          match placeBase held n with
          | some b => some (l ++ [(⟨p % 8, Nat.mod_lt _ (by decide)⟩, ⟨s % 4, Nat.mod_lt _ (by decide)⟩, b, n)])
          | none => none) acc) (some keep)

/-- Slots of all active Plans among themselves (R505). -/
def Device.slotsOk (d : Device) : Bool :=
  let cs := d.ceDescs.map (·.2)
  cs.zipIdx.all fun p => cs.zipIdx.all fun q => p.2 == q.2 ||
    (CeDesc.slot p.1 != CeDesc.slot q.1 && (!d.slotSafety p.1 || CeDesc.slot q.1 != CeDesc.slot p.1 + 128)
      && (CeDesc.outStream p.1 != CeDesc.outStream q.1 || CeDesc.outChannel p.1 + CeDesc.m p.1 ≤ CeDesc.outChannel q.1
          || CeDesc.outChannel q.1 + CeDesc.m q.1 ≤ CeDesc.outChannel p.1))

/-- R464 over the active jobs. -/
def Device.instancesOk (d : Device) : Bool :=
  (List.range 4).all fun k =>
    let xs := d.activeJobs.filterMap fun r => if r.engine = engSolver then
        match r.desc with
        | some x => if SDesc.inst x = k then some (r.struct x) else none
        | none => none
      else none
    (xs.map fun (x : Image) => (SStruct.symbolic x).lnnz + SStruct.n x + SStruct.m x).foldl (· + ·) 0 ≤ 1048576
      && (xs.map SStruct.kktNnz).foldl (· + ·) 0 ≤ 262144

def distinct (l : List Nat) : Bool := l.eraseDups.length == l.length

/-- The checks of an activation over the device that it would make: `d` is the candidate, `ps` its partitions. -/
def Device.activeOk (d : Device) (pl : LoadedPlan) (ps : List Nat) : Bool :=
  let recs := d.activeRecs
  let pls := d.activePlans
  recs.all (partOk d) && partsApart recs
    && (planJobs pl.bytes).all (fun x => (d.part (JobRec.part x)).active.isSome)
    && (pls.filter fun p => (planSection p.bytes 0xA).isSome).length ≤ 1
    && (pls.filter fun p => (planSection p.bytes 0xB).isSome).length ≤ 1
    && distinct (pls.flatMap fun p => (planImages p.bytes 6).map HookRec.hook)
    && distinct (d.activeJobs.map fun r => JobRec.jobId r.image) && d.activeJobs.length ≤ 1024
    && distinct (pls.flatMap fun p => (planImages p.bytes 0x11).map SlotRec.slot)
    && d.slotsOk && d.instancesOk && d.monTable.length ≤ 512 && d.outboundOk
    && d.activeJobs.all fun r => !ps.contains r.part || r.engine != engTrestle ||
      match (d.part r.part).record with
      | some rec' => (jobVariants r.image).all fun v => variantOk r.plan.bytes r.image rec' v
      | none => false

/-- Every tile that an active variant names is served once the spares have been applied (R128). -/
def Device.tilesServed (d : Device) (ps : List Nat) : Bool :=
  let e := ps.foldl Device.applySpares d
  e.activeJobs.all fun r => !ps.contains r.part || r.engine != engTrestle ||
    (List.range (JobRec.variants r.image)).all fun v => (r.tiles v).all fun t => (e.serving t).isSome

/-- Why a Plan cannot be active in the partitions `ps`: the status of the first check that fails. -/
def Device.activationFault (d : Device) (ps : List Nat) (h : BitVec 16) : Option Status :=
  match d.plan h with
  | none => some stConfig
  | some pl =>
    let e := d.withPlan ps h
    if !e.activeOk pl ps || (d.placeRegions e ps).isNone then some stConfig
    else if !e.tilesServed ps then some stTileFenced
    else if !d.lectAccepts e.monTable then some stBusy
    else none

/-! ### Failures (R732) -/

/-- A PLAN_LOAD or PLAN_ACTIVATE that fails when it runs. -/
def Device.planFail (d : Device) (n : Fin 64) (st : Status) : Device :=
  (d.watchStatus fun d => d.win fun w => { w with
    planFault := w.planFault || decide (st ≠ stSignature)
    sigFault := w.sigFault || decide (st = stSignature)
    lastStatus := st }).fail n st

def Device.clearPlanFaults (d : Device) : Device :=
  d.watchStatus fun d => d.win fun w => { w with planFault := false, sigFault := false }

/-! ### PLAN_LOAD, PLAN_LIST, PLAN_UNLOAD -/

/-- Capacity of the region PLANS (R644). -/
def plansRegion : Nat := 15727 * 2 ^ 20

/-- The Plans other than one store id. -/
def NonVolatile.plansBut (v : NonVolatile) (id : BitVec 32) : List StoredPlan := v.plans.filter fun p => p.storeId != id

/-- A checked container becomes a loaded Plan; the handle. -/
def Device.addPlan (d : Device) (b : Bytes) (id : Option (BitVec 32)) : Device × LoadedPlan :=
  let pl : LoadedPlan := { handle := d.jobs.nextHandle, bytes := b, digest := sha256 (planSigned b),
                           keySlot := BitVec.ofNat 2 (PlanHdr.keySlot (planHdr b)), storeId := id }
  ({ d with jobs := { d.jobs with plans := d.jobs.plans ++ [pl], nextHandle := d.jobs.nextHandle + 1 } }, pl)

/-- PLAN_LOAD with its container at hand (R736, R743). -/
def Device.loadPlan (d : Device) (n : Fin 64) (b : Bytes) : Device :=
  let p := d.params n
  let id := BitVec.ofNat 32 (fld p 63 32)
  let fromStore := bitAt p 1
  let store := bitAt p 0
  if 16 ≤ d.jobs.plans.length then d.planFail n stOverrun
  else match d.planCheck b b.length with
  | some st => d.planFail n st
  | none =>
    let v := d.bur.nv
    if store ∧ plansRegion < ((v.plansBut id).map fun p => p.bytes.length).foldl (· + ·) b.length then d.planFail n stLimit
    else
      let nv := if store then { v with plans := v.plansBut id ++ [⟨id, b⟩] } else v
      let (d, pl) := ({ d with bur := { d.bur with nv } }).addPlan b (if store || fromStore then some id else none)
      d.reply n stOk (natLE (mkImage [(0, 16, pl.handle.toNat), (16, 8, PlanHdr.partMask (planHdr b)),
        (64, 64, leNat (pl.digest.take 8))]) 16)

/-- PLAN_LOAD (R736): from the store at once, or from bulk data. -/
def execPlanLoad (now : Time) (drawer : Fin 64) (s : State) : Host.Outcome State Fault Refusal :=
  s.drawerCommand now drawer 0x0101 fun d =>
    let p := d.params drawer
    if 16 ≤ d.jobs.plans.length then d.planFail drawer stOverrun
    else if bitAt p 1 then
      match d.bur.nv.plans.find? fun x => x.storeId == BitVec.ofNat 32 (fld p 63 32) with
      | some x => d.loadPlan drawer x.bytes
      | none => d.planFail drawer stConfig
    else
      let e := d.armBulk drawer (fld p 383 128) (2 ^ 30) none
      if (e.drawer drawer).state = .done then d.planFail drawer (e.drawer drawer).status else e

/-- One entry of PLAN_LIST (R713; log entry 53). -/
def Device.planEntry (d : Device) (p : LoadedPlan) : Bytes :=
  natLE (mkImage [(0, 16, p.handle.toNat), (32, 32, (p.storeId.getD 0xFFFFFFFF).toNat),
    (64, 8, PlanHdr.partMask (planHdr p.bytes)), (72, 8, d.activeMask p.handle), (96, 32, p.bytes.length),
    (128, 64, leNat (p.digest.take 8))]) 32

/-- PLAN_LIST (R713). -/
def execPlanList (now : Time) (drawer : Fin 64) (s : State) : Host.Outcome State Fault Refusal :=
  s.drawerCommand now drawer 0x0104 fun d => d.reply drawer stOk (d.jobs.plans.flatMap d.planEntry)

/-- A Plan is active, or its activation runs (R737). -/
def Device.planInUse (d : Device) (h : BitVec 16) : Bool :=
  d.jobs.parts.any fun p => p.active == some h || (match p.boundary with
    | some b => (match b.kind with
      | .activate _ k => k == h
      | _ => false)
    | none => false)

/-- PLAN_UNLOAD (R737, R743). -/
def execPlanUnload (now : Time) (drawer : Fin 64) (s : State) : Host.Outcome State Fault Refusal :=
  s.drawerCommand now drawer 0x0103 fun d =>
    let p := d.params drawer
    let h := BitVec.ofNat 16 (fld p 15 0)
    match d.plan h with
    | none => d.fail drawer stConfig
    | some pl =>
      if d.planInUse h then d.fail drawer stBusy
      else
        let plans := match pl.storeId with
          | some id => if bitAt p 16 then d.bur.nv.plansBut id else d.bur.nv.plans
          | none => d.bur.nv.plans
        ({ d with jobs := { d.jobs with plans := d.jobs.plans.filter fun (q : LoadedPlan) => q.handle != h }
                  bur := { d.bur with nv := { d.bur.nv with plans } } }).reply drawer stOk []

/-! ### Step 5 of R574: installation -/

/-- The jobs of the partitions stop: step 6 of R574 starts those with AUTO_START afresh. Control Engine and Fusion jobs
that the new Plan keeps go on (R387, R533). A BACKGROUND period that was due and waited is counted as DROPPED. State of an engine's job goes with the job. -/
def Device.retireJobs (d e : Device) (ps : List Nat) : Device :=
  (d.activeJobs.filter fun r => ps.contains r.part).foldl (fun (d : Device) r =>
    let kept := (e.activeJobs.any fun q => q.id == r.id && q.engine == r.engine && q.part == r.part)
    if kept ∧ (r.engine = engControl ∨ r.engine = engFusion) then d
    else
      let d := match d.run r.id with
        | some x => if x.phase = RunPhase.waiting ∧ x.period.isNone then d.count (clientOf r) 3 1 else d
        | none => d
      let d := (d.dropSaved r.id).jobStopped r.id
      let d := { d with jobs := { d.jobs with runs := d.jobs.runs.del r.id.toNat } }
      if kept then d else
      match r.engine with
      | 4 =>
        let d := match d.eng.solv.find r.id.toNat with
          | some x => x.queue.foldl (fun (d : Device) (b : Batch32) => match b.drawer with
            | some n => d.fail n stConfig
            | none => d) (d.setSolv r.id { x with queue := [], solve := none })
          | none => d
        { d with ce := { d.ce with solver := d.ce.solver.del r.id.toNat } }
      | 3 => { d with eng := { d.eng with plan := d.eng.plan.del r.id.toNat } }
      | 1 => { d with eng := { d.eng with fin := d.eng.fin.del r.id.toNat } }
      | _ => d) d

/-- Memory regions, views and cache ways (R563, R575, R615, R625). -/
def Device.installViews (d e : Device) (ps : List Nat) : Device :=
  let ch := ps.filter fun p => d.viewChanges e p
  let regions := (d.placeRegions e ps).getD d.mem.regions
  let gone (l : CacheLine) : Bool := ps.contains l.part.val &&
    (ch.contains l.part.val || match (e.part l.part.val).record with
      | some r => !bitAt (PartRec.wayMask r) l.way.val
      | none => false)
  let kept : Tbl CacheLine := d.mem.cache.filter fun c => !gone c.2
  let cache := kept.mapVals fun _ (l : CacheLine) =>
    if ps.contains l.part.val then { l with retained := false } else l
  let d := (ch.foldl Device.closePartStreams d).bump
  let main := (regions.filter fun r => ch.contains r.1.val).foldl (fun (m : Memory) r =>
    m.forget (r.2.1.val * 2 ^ 35 + r.2.2.1 * 256) (r.2.2.2 * 256) d.clk.nonce) d.mem.main
  { d with mem := { d.mem with regions, cache, main } }

/-- The Hook allocations of the active Plans (R185, R740). -/
def Device.allocations (d : Device) : Tbl HookAlloc :=
  d.activePlans.foldl (fun (t : Tbl HookAlloc) p => (planImages p.bytes 6).foldl (fun (t : Tbl HookAlloc) x =>
    t.put (HookRec.hook x) { plan := p.handle, init := HookRec.init x
                             job := if HookRec.shared x then none else some (BitVec.ofNat 16 (HookRec.jobId x)) }) t) []

/-- Allocates the Hooks and sets those of an activation to their initial counts (R740); what serves a slot or Fusion
that goes on stands (R387, R533), and so does a shared Hook that another partition uses. -/
def Device.installHooks (d : Device) (ps : List Nat) : Device :=
  let old := d.hooks.alloc
  let new := d.allocations
  let d := { d with hooks := { d.hooks with alloc := new } }
  new.foldl (fun (d : Device) e =>
    let a := e.2
    let again := match a.job with
      | some j => (d.job j).any fun r => ps.contains r.part && r.engine != engControl && r.engine != engFusion
      | none => (List.range 8).all fun p => (d.part p).active != some a.plan || ps.contains p
    if old.find e.1 != some a || again then d.initHook e.1 a.init else d) d

/-- Copies the program images of the partitions' variants into memory (R738). -/
def Device.installImages (d : Device) (ps : List Nat) : Device :=
  (d.activeJobs.filter fun r => ps.contains r.part && r.engine == engTrestle).foldl (fun (d : Device) r =>
    (jobVariants r.image).foldl (fun (d : Device) v =>
      match (planRecords r.plan.bytes 3)[VarRec.programRef v]? with
      | none => d
      | some (_, b) =>
        ((progTiles r.plan.bytes (VarRec.programRef v)).foldl (fun (a : Device × Nat) t =>
          let bs := t.commands.flatMap fun w => natLE w.toNat 16
          let n := roundUp bs.length 1024
          (a.1.writeLines r.part a.2 (bs ++ List.replicate (n - bs.length) 0), a.2 + n))
          (d, ProgSet.imageBase (imageAt b 0 32))).1) d) d

/-- The exposed tiles of the partitions' jobs. -/
def Device.partTiles (d : Device) (ps : List Nat) : List Nat :=
  (((d.activeJobs.filter fun r => ps.contains r.part && r.engine == engTrestle)).flatMap fun r =>
    (List.range (JobRec.variants r.image)).flatMap r.tiles).eraseDups

/-- Loads the tiles of the partitions' jobs (R162, R738). -/
def Device.installTiles (d : Device) (ps : List Nat) : Device :=
  (d.partTiles ps).foldl (fun (d : Device) id => match d.serving id with
    | some s => d.initTile s id
    | none => d) d

/-- A Solver job's structure and values are placed in its instance (R465); WARM PREVIOUS survives (R489). -/
def Device.installSolver (d : Device) (r : JobRef) : Device :=
  match r.desc with
  | none => d
  | some desc =>
    let vals := SStruct.values (r.struct desc)
    match d.eng.solv.find r.id.toNat with
    | some x => if x.inst = SDesc.inst desc then d.setSolv r.id { x with vals, reload := false, solve := none }
        else d.setSolv r.id (SolverJob.fresh (SDesc.inst desc) vals)
    | none => d.setSolv r.id (SolverJob.fresh (SDesc.inst desc) vals)

/-- Fusion takes the active descriptor, and goes on where its job is started (R387). -/
def Device.placeFusion (d : Device) : Device :=
  let r := d.activeJobs.find? fun r => r.engine == engFusion
  let d := d.installFusion (r.map JobRef.id) (r.bind JobRef.desc)
  let started : Bool := match r with
    | some r => d.startedJobs.any fun q => q.id == r.id
    | none => false
  if started ∧ !d.eng.fus.running then d.startFusion else d

/-- Engine state of the partitions' jobs (R387, R406, R434, R436, R465). -/
def Device.installEngines (d : Device) (ps : List Nat) : Device :=
  let d := (d.activeJobs.filter fun r => ps.contains r.part).foldl (fun (d : Device) r =>
    match r.engine with
    | 4 => d.installSolver r
    | 3 =>
      let x := d.planJob r.id
      d.setPlanJob r.id { x with current := none, roadmap := { vertices := [], edges := [] }, run := none }
    | 1 => d.setFin r.id (d.finJob r.id)
    | _ => d) d
  let d := d.placeFusion
  match d.activePlans.find? fun p => (planSection p.bytes 0xB).isSome with
  | none => d.installShelf none 0
  | some p => d.installShelf (planRec p.bytes 0xB 0)
      (((List.range 8).find? fun i => (d.part i).active == some p.handle).getD 0)

/-- State slots of jobs that are gone become free; their requests end (R242, R243). -/
def Device.installSlots (d : Device) : Device :=
  let named := d.activePlans.flatMap fun p => ((planImages p.bytes 0x11).filter fun x =>
    (d.job (BitVec.ofNat 16 (SlotRec.jobId x))).isSome).map SlotRec.slot
  let gone := d.seq.slots.filter fun e => !named.contains e.1
  let d := gone.foldl (fun (d : Device) e => e.2.queue.foldl (fun (d : Device) q => match q with
    | .swapOut n => d.fail n stConfig
    | .swapIn n => d.fail n stConfig
    | .chunk .. => d) d) d
  d.seqState fun q => { q with slots := q.slots.filter fun e => named.contains e.1 }

/-- Control Engine slots (R533): an unchanged descriptor leaves its slot as it stands; a new or changed one of a started
job starts it; a slot without a descriptor is gone. `old` are the descriptors before. -/
def Device.installCe (d : Device) (old : List Image) : Device :=
  let cs := d.ceDescs.map (·.2)
  let gone := old.filter fun c => !cs.any fun n => CeDesc.slot n == CeDesc.slot c
  let d := gone.foldl (fun (d : Device) c => { d with ce := { d.ce with slots := d.ce.slots.del (CeDesc.slot c) } }) d
  (cs.filter fun c => !old.contains c).foldl (fun (d : Device) c =>
    match d.run (BitVec.ofNat 16 (CeDesc.jobId c)) with
    | some x => if x.started ∧ !x.stopping then d.startSlot c else d.setSlot (CeDesc.slot c) CeSlot.idle
    | none => d.setSlot (CeDesc.slot c) CeSlot.idle) d

/-- Ingest streams that feed the partitions' jobs start from an empty destination (R551). -/
def Device.installStreams (d : Device) (ps : List Nat) : Device :=
  (d.activeJobs.filter fun r => ps.contains r.part && r.engine != engFusion && r.engine != engControl).foldl
    Device.restartStreams d

/-- AUTO_START jobs of the partitions start (R574 step 6); those of the Control Engine wait for the outputs (R729). -/
def Device.autoStart (d : Device) (ps : List Nat) : Device :=
  d.activeJobs.foldl (fun (d : Device) r =>
    let started := match d.run r.id with
      | some x => x.started
      | none => false
    if ps.contains r.part ∧ JobRec.autoStart r.image ∧ !started ∧ (r.engine ≠ engControl ∨ d.bur.win.outputsEnabled) then
      d.startJob r
    else d) d

/-- Steps 5 and 6 of R574: the Plan `h` becomes active in the partitions `ps`. -/
def Device.installPlan (d : Device) (ps : List Nat) (h : BitVec 16) : Device :=
  let e := d.withPlan ps h
  let old := d.ceDescs.map (·.2)
  let d := d.retireJobs e ps
  let d := d.installViews e ps
  let d := ps.foldl (fun (d : Device) p =>
    let x := d.part p
    let r := (e.part p).record
    d.setPart p { x with active := some h, record := r, next := none, boundary := none
                         epoch := BitVec.ofNat 16 ((r.map PartRec.initEpoch).getD 0) }) d
  let d := (((d.installHooks ps).installImages ps).installTiles ps).installEngines ps
  let d := ((d.installSlots.installCe old).installStreams ps).installTable
  (d.autoStart ps).settleDomains

/-! ### The boundary (R533, R574, R576) -/

/-- The boundary's part in the Control Engine: a slot that the activation removes has stopped, and one whose descriptor
it changes has finished its period (R533). -/
def Device.slotsQuiet (d e : Device) (p : Nat) : Bool :=
  (d.ceDescs.map (·.2)).all fun c => d.slotPart c != p ||
    (let x := d.slot (CeDesc.slot c)
     match e.ceDesc (CeDesc.slot c) with
     | none => !x.running
     | some c' => c' == c || !x.running || x.stage == 3)

/-- Slots that an activation removes begin their stop (R533). -/
def Device.stopRemoved (d e : Device) (ps : List Nat) : Device :=
  (d.ceDescs.map (·.2)).foldl (fun (d : Device) c =>
    if ps.contains (d.slotPart c) ∧ (e.ceDesc (CeDesc.slot c)).isNone then d.stopSlot (CeDesc.slot c) else d) d

/-- A boundary other than a repair runs in a partition. -/
def Device.changing (d : Device) (p : Nat) : Bool :=
  match (d.part p).boundary with
  | some b => b.kind != .repair
  | none => false

/-- The boundaries of the partitions end. -/
def Device.endBoundary (d : Device) (ps : List Nat) : Device :=
  ps.foldl (fun (d : Device) p => d.setPart p { d.part p with boundary := none }) d

/-- A PARTITION_SET that fails leaves no record behind (R576). -/
def Device.forgetSet (d : Device) (ps : List Nat) : Device :=
  ps.foldl (fun (d : Device) p => d.setPart p { d.part p with next := none }) d

/-- Activation of a Plan in partitions that are quiet: steps 4 to 6, or the return to what was (R576). A PLAN_ACTIVATE
sets or clears the fault bits and replies the digest (R732); a PARTITION_SET does not. -/
def Device.finishActivation (d : Device) (n : Fin 64) (ps : List Nat) (h : BitVec 16) (isSet : Bool) : Device :=
  let d := ps.foldl Device.boundaryStep4 d
  let d := match d.activationFault ps h with
    | some st => if isSet then ((d.endBoundary ps).forgetSet ps).fail n st else (d.endBoundary ps).planFail n st
    | none =>
      let d := d.installPlan ps h
      if isSet then d.reply n stOk [] else d.clearPlanFaults.reply n stOk (natLE d.lect.digest.toNat 8)
  d.startPlanners.settleStarts

/-- Partitions whose boundary is that of one command. -/
def Device.sameBoundary (d : Device) (k : BoundaryKind) : List Nat :=
  (List.range 8).filter fun p => match (d.part p).boundary with
    | some b => b.kind == k
    | none => false

/-- PARTITION_QUIESCED (R574): a partition's periods have ended. A repair ends; an activation goes on once every
partition of its command is quiet. -/
def Device.partitionQuiesced (d : Device) (p : Nat) : Device :=
  match (d.part p).boundary with
  | none => d
  | some b =>
    let ps := d.sameBoundary b.kind
    match b.kind with
    | .repair =>
      if d.quiet p then (((d.boundaryStep4 p).endBoundary [p]).startPlanners).settleStarts else d
    | .activate n h =>
      let e := d.withPlan ps h
      if ps.all fun q => d.quiet q && d.slotsQuiet e q then d.finishActivation n ps h false else d
    | .set n =>
      match (d.part p).active with
      | none => d
      | some h =>
        let e := d.withPlan [p] h
        if d.quiet p && d.slotsQuiet e p then d.finishActivation n [p] h true else d

/-- PARTITION_QUIESCED (R574). -/
def execPartitionQuiesced (now : Time) (part : Fin 8) (s : State) : Host.Outcome State Fault Refusal :=
  s.onUp now fun d => d.partitionQuiesced part.val

/-- PLAN_ACTIVATE (R574, R577, R737). -/
def Device.planActivate (d : Device) (n : Fin 64) : Device :=
  let p := d.params n
  let h := BitVec.ofNat 16 (fld p 15 0)
  let mask := fld p 23 16
  let ps := (List.range 8).filter fun i => bitAt mask i
  match d.plan h with
  | none => d.planFail n stConfig
  | some pl =>
    if ps.isEmpty ∨ ps.any fun i => !bitAt (PlanHdr.partMask (planHdr pl.bytes)) i then d.planFail n stConfig
    else if ps.any d.changing then d.hold n
    else match d.activationFault ps h with
    | some st => d.planFail n st
    | none =>
      let e := d.withPlan ps h
      let d := (d.goOn n).stopRemoved e ps
      ps.foldl (fun (d : Device) i => d.beginBoundary i (.activate n h)) d

/-- PLAN_ACTIVATE (R574). -/
def execPlanActivate (now : Time) (drawer : Fin 64) (s : State) : Host.Outcome State Fault Refusal :=
  s.drawerCommand now drawer 0x0102 fun d => d.planActivate drawer

/-- PARTITION_SET (R560, R573): the record of one partition, installed through its boundary when a Plan is active
there, else kept for the next PLAN_ACTIVATE. -/
def Device.partitionSet (d : Device) (n : Fin 64) : Device :=
  let x := d.params n % 2 ^ 256
  let p := PartRec.part x
  let others := (List.range 8).filterMap fun i =>
    if i ≠ p ∧ (d.part i).active.isSome then (d.part i).record else none
  if !partOk d x || !partsApart (x :: others) then d.fail n stConfig
  else if d.changing p then d.hold n
  else
    let q := d.part p
    let e := d.setPart p { q with next := some x }
    match q.active with
    | none => e.reply n stOk []
    | some h => match e.activationFault [p] h with
      | some st => d.fail n st
      | none => (e.goOn n).beginBoundary p (.set n)

/-- PARTITION_SET (R573). -/
def execPartitionSet (now : Time) (drawer : Fin 64) (s : State) : Host.Outcome State Fault Refusal :=
  s.drawerCommand now drawer 0x0105 fun d => d.partitionSet drawer

end Sys2Proof.Machine
end

