-- ==== Sys2Proof/Machine/DomainRows.lean ====
section
/-!
DEFINITION. Power domains going off and on (R114, R579 to R584, R738, R774): what a domain loses, what it comes back
with, and the rows of their switching.
-/

namespace Sys2Proof.Machine

/-- The counter domain (R352) that a power domain feeds. -/
def counterOf (k : Nat) : Option Nat :=
  if 0x20 ≤ k ∧ k < 0x2C then some (0x10 + (k - 0x20))
  else if 0x2C ≤ k ∧ k < 0x30 then some (0x20 + (k - 0x2C))
  else if k = 0x36 ∨ k = 0x37 then some 1
  else none

/-- A counter starts at 0 when its domain's power switches on, and Fusion discards the crossing's samples (R352,
R356). The CE counter runs while either half is on. -/
def Device.startCounter (d : Device) (k : Nat) : Device :=
  match counterOf k with
  | none => d
  | some c => if (d.clk.counters.find c).isSome then d else
      { d with clk := { d.clk with counters := d.clk.counters.put c 0, phases := d.clk.phases.del c, samples := d.clk.samples.del c } }

def Device.stopCounter (d : Device) (k : Nat) : Device :=
  match counterOf k with
  | none => d
  | some c =>
    if (k = 0x36 ∧ d.domOn 0x37) ∨ (k = 0x37 ∧ d.domOn 0x36) then d
    else { d with clk := { d.clk with counters := d.clk.counters.del c } }

/-- A tile after its group's power has been off: its registry stands, everything else is gone (R114, R159). -/
def TileState.unpowered (x : TileState) : TileState :=
  { t := { (freshTile 0).t with serves := x.t.serves, census := x.t.census, ceCount := x.t.ceCount, bucket := x.t.bucket }
    r := TileRun.fresh }

/-- What a domain loses when it switches off (R114, R581 to R583). -/
def Device.loseDomain (d : Device) (k : Nat) : Device :=
  let d := d.stopCounter k
  if k < 0x20 then
    { d with tiles := d.tiles.mapVals fun t (x : TileState) => if groupOf t = k then x.unpowered else x }
  else if k < 0x2C then
    let p := k - 0x20
    (d.setIn p { d.inPort p with lanes := 0, phy := false, deskewed := false })
  else if k < 0x30 then
    let o := nthOut d (k - 0x2C)
    d.setOut (k - 0x2C) { o with queue := [], wire := [], active := false
                                 counts := { o.counts with lanes := 0, deskewed := false } }
  else if k < 0x34 then
    { d with eng := { d.eng with solv := d.eng.solv.mapVals fun _ (x : SolverJob) =>
        if x.inst = k - 0x30 then { x with prev := none, solve := none, vals := [] } else x } }
  else if k < 0x36 then d.unpin ⟨(k - 0x34) % 2, Nat.mod_lt _ (by decide)⟩
  else if k < 0x38 then
    { d with ce := { d.ce with slots := d.ce.slots.mapVals fun s (x : CeSlot) =>
        if (s < 128) = (k = 0x36) then CeSlot.idle else x } }
  else if k = 0x38 then
    let mine (x : Stream) : Bool := x.boundDesc.any fun y => coreTypes.contains (StreamDesc.dt y)
    { d with ing := { d.ing with
      queue := []
      groups := d.ing.groups.mapVals fun _ (g : Group) => { g with instances := [] }
      streams := d.ing.streams.mapVals fun _ (x : Stream) => if mine x then { x with samples := [], batches := [] } else x } }
  else if 0x38 < k ∧ k < 0x3B then { d with ing := { d.ing with decoders := setAt d.ing.decoders (k - 0x39) none } }
  else if k = 0x3B then
    { d with
      clk := { d.clk with samples := [] }
      eng := { d.eng with
        fin := d.eng.fin.mapVals fun _ (x : FinisherJob) => { x with held := none }
        fus := { FusionState.reset with counts := d.eng.fus.counts, dropped := d.eng.fus.dropped, trackFull := d.eng.fus.trackFull } } }
  else if 0x3C ≤ k ∧ k < 0x40 then
    { d with mem := { d.mem with cache := d.mem.cache.filter fun c => c.2.slice != k - 0x3C } }
  else d

/-- What a domain comes back with (R114, R583, R738, R774). -/
def Device.gainDomain (d : Device) (k : Nat) : Device :=
  let d := d.startCounter k
  if k < 0x20 then
    let ids := ((d.partTiles (List.range 8)).filter fun t => groupOf t == k)
    ids.foldl (fun (d : Device) id => match d.serving id with
      | some s => d.loadTile s id
      | none => d) d
  else if k < 0x2C then
    let p := k - 0x20
    d.setIn p { d.inPort p with lanes := 0, phy := Config.strapPhy p, deskewed := false, setting := d.portSetting p }
  else if k < 0x30 then
    let o := nthOut d (k - 0x2C)
    d.setOut (k - 0x2C) { o with counts := { o.counts with lanes := 4, setting := d.portSetting (k - 0x2C + 16) } }
  else if k < 0x34 then
    (d.activeJobs.filter fun r => r.engine == engSolver && r.desc.any fun x => SDesc.inst x == k - 0x30).foldl
      Device.installSolver d
  else if k = 0x3B then d.placeFusion
  else d

/-- Every switchable domain is off at once, and the module stays so until it is restarted (R596, R802); the memory
sets keep their contents in self-refresh. -/
def Device.shutdown (d : Device) : Device :=
  let d := (List.range 68).foldl (fun (d : Device) k => (d.setDom k .off).loseDomain k) d
  { d with pow := { d.pow with phase := .shut } }

/-- DOMAIN_IDLE_TIMEOUT (R579): the domain's condition has been false for its idle time. -/
def execDomainIdleTimeout (now : Time) (dom : Fin 68) (s : State) : Host.Outcome State Fault Refusal :=
  s.onUp now fun d =>
    match d.dom dom.val with
    | .on (some t) =>
      if !d.needed dom.val ∧ reached d.hub (addT t (usHub (idleUs dom.val))) then
        d.setDom dom.val (.goingOff d.hub false)
      else d
    | _ => d

/-- DOMAIN_ON_DONE (R114, R579): the domain is on. -/
def execDomainOnDone (now : Time) (dom : Fin 68) (s : State) : Host.Outcome State Fault Refusal :=
  s.onUp now fun d =>
    match d.dom dom.val with
    | .goingOn _ =>
      let d := d.setDom dom.val (.on none)
      (((d.gainDomain dom.val).settleDomains).startPlanners).settleStarts
    | _ => d

end Sys2Proof.Machine
end

