-- ==== Sys2Proof/Machine/SelfTest.lean ====
section
/-!
DEFINITION. The periodic self-test (R654, R674 to R679): scheduling of slices, their results, overdue tests, and units
taken out of service.
-/

namespace Sys2Proof.Machine

/-- Diagnostic test interval of a unit, in s (R656). -/
def Device.dtiS (d : Device) : TestUnit → Nat
  | .tile _ => d.lect.policy.tileDtiS
  | .engine _ => d.lect.policy.engineDtiS

/-- Slices of a whole test (R675). -/
def slicesOf : TestUnit → Nat
  | .tile _ => 8
  | .engine _ => 4

/-- Where a unit's notifications come from (R708). -/
def unitSource : TestUnit → BitVec 4 × BitVec 16
  | .tile t => (srcTile, BitVec.ofNat 16 t.val)
  | .engine e => (srcDomain, BitVec.ofNat 16 (engineDom e))

/-- Engine instances of a job (R428, R464, R537). -/
def JobRef.units (r : JobRef) : List EngineUnit :=
  match r.engine with
  | 1 => [.fusion]
  | 2 => [.fusion]
  | 3 => [.planner 0, .planner 1]
  | 4 => match r.desc with
    | some x => [.solver ⟨SDesc.inst x % 4, Nat.mod_lt _ (by decide)⟩]
    | none => []
  | _ => []

/-- A started job's periods use the unit. -/
def Device.usesUnit (d : Device) (r : JobRef) : TestUnit → Bool
  | .tile t => r.engine == engTrestle &&
      (List.range (JobRec.variants r.image)).any fun v => (d.variantTiles r v).contains t
  | .engine e => r.units.contains e

/-- The job's work occupies the unit now. -/
def Device.busyWith (d : Device) (r : JobRef) : TestUnit → Bool
  | .tile t => (d.tile t).t.job == some r.id
  | .engine e => match e with
    | .planner i => d.holder i == some r.id
    | _ => if r.engine = engFusion then !d.eng.fus.cycles.isEmpty else (d.openPeriod r.id).isSome

/-- The start of a job's next reserved window (R674): none where nothing is due, or the hub time `t` itself while a
window is open. -/
def Device.nextWindow (d : Device) (r : JobRef) (t : Time) : Option Time :=
  match d.run r.id with
  | none => none
  | some x =>
    if !x.started then none
    else if r.engine = engFusion then
      (if !d.eng.fus.cycles.isEmpty ∨ !d.eng.fus.due.isEmpty then some t
       else match d.eng.fus.desc with
         | some f => some (if d.eng.fus.first then d.eng.fus.last else addT d.eng.fus.last (usHub (FusDesc.period f)))
         | none => none)
    else if (d.openPeriod r.id).isSome then some t
    else match JobRec.trigger r.image with
      | 0 =>
        let p := 1200 * JobRec.periodUs r.image
        if JobRec.lockEn r.image then
          some (x.gen.due.getD (if x.gen.first then t else addT x.gen.last (p - p / 8)))
        else d.nextDue r
      | 1 => some (addT x.lastEnd (usHub d.lect.policy.hookGapUs))
      | _ => none

/-- A slice of 40 µs that starts now ends before every reserved window of the unit (R675). -/
def Device.sliceFits (d : Device) (u : TestUnit) : Bool :=
  d.activeJobs.all fun r => !d.usesUnit r u ||
    (!d.busyWith r u && (r.background || match d.nextWindow r d.hub with
      | some w => decide (timeDiff (addT d.hub (usHub 40)) w ≤ 0)
      | none => true))

/-- The unit is powered, in service and free, and the limits of R676 leave room for it. -/
def Device.testable (d : Device) (u : TestUnit) : Bool :=
  match u with
  | .tile t =>
    let x := d.tile t
    d.domOn (groupOf t) && !d.hotGroup (groupOf t) && x.t.phase == .idle && x.t.census != .fenced && x.t.census != .lbistFailed
      && decide ((d.tests.filter fun (y : UnitTest) => y.slice.isSome && match y.unit with
        | .tile s => decide (groupOf s < 16) == decide (groupOf t < 16)
        | .engine _ => false).length < 64)
  | .engine e => d.engineOk e && match e with
    | .ingestCore => d.ing.decoders.all Option.isNone
    | .decoder n => (nth d.ing.decoders n.val none).isNone
    | _ => true

/-- SELFTEST_SCHEDULE (R675, R676): the Bureau starts the next slice of a unit whose test is due. -/
def execSelftestSchedule (now : Time) (unit : TestUnit) (s : State) : Host.Outcome State Fault Refusal :=
  s.onUp now fun d =>
    let x := d.test unit
    let due := decide (0 < x.passed) || reached d.hub (addT x.lastSched (usHub (250000 * d.dtiS unit)))
    if x.slice.isNone ∧ !x.failed ∧ due ∧ d.testable unit ∧ d.sliceFits unit then
      d.setTest { x with slice := some d.hub, lastSched := if x.passed = 0 then d.hub else x.lastSched }
    else d

/-! ### Results (R677, R679) -/

/-- A job is stopped with a status until a JOB_START. -/
def Device.stopWith (d : Device) (r : JobRef) (st : Status) : Device :=
  let d := (d.dropSaved r.id).endWith r.id st
  match d.run r.id with
  | some x => if x.started then d.setRun r.id { x with barred := true, prevStatus := st } else d
  | none => d

/-- An engine instance is out of service until a reset, its jobs are stopped, and the Lectern is told (R679). A Planner
job stops when it works on the instance, or when no instance is left. -/
def Device.engineFailed (d : Device) (e : EngineUnit) : Device :=
  let d := d.setTest { d.test (.engine e) with failed := true, slice := none }
  let left (r : JobRef) : Bool := r.units.any fun u => !(d.test (.engine u)).failed
  let d := (d.activeJobs.filter fun r => r.units.contains e && (!left r || d.busyWith r (.engine e))).foldl
    (fun (d : Device) r =>
      let d := if r.engine = engFusion then d.stopFusion else d
      d.stopWith r stSelftestFail) d
  let d := match e with
    | .decoder n => { d with ing := { d.ing with decoders := setAt d.ing.decoders n.val none } }
    | _ => d
  (d.notify stSelftestFail srcDomain (BitVec.ofNat 16 (engineDom e))).startPlanners

/-- A tile's registers are undefined after a slice, and its command buffer is filled again (R162, R677). -/
def Device.afterSlice (d : Device) (t : Fin 4160) : Device :=
  let d := d.bump
  let x := d.tile t
  let regs : TileRegs := { TileRegs.fresh with undef := d.clk.nonce, rngSeed := x.t.regs.rngSeed, rngCount := x.t.regs.rngCount }
  (d.setTile t { x with t := { x.t with regs } }).fillBuffer t
    (match x.t.program with
     | some c => some c
     | none => x.t.serves.bind fun id => d.codeOf id.val)

/-- SLICE_COMPLETE (R677 to R679). -/
def Device.sliceComplete (d : Device) (u : TestUnit) (pass : Bool) : Device :=
  let x := d.test u
  if x.slice.isNone then d
  else
    let d := match u with
      | .tile t => d.afterSlice t
      | .engine _ => d
    if pass then
      let whole := slicesOf u ≤ x.passed + 1
      let d := if whole ∧ x.overdue then d.notifyAgain stTestOverdue (unitSource u).1 (unitSource u).2 else d
      d.setTest (if whole then { x with slice := none, passed := 0, lastPass := d.hub, overdue := false }
        else { x with slice := none, passed := x.passed + 1 })
    else
      let d := d.setTest { x with slice := none, passed := 0 }
      match u with
      | .tile t => d.fenceTile t
      | .engine e => d.engineFailed e

/-- SLICE_COMPLETE (R679). -/
def execSliceComplete (now : Time) (unit : TestUnit) (pass : Bool) (s : State) : Host.Outcome State Fault Refusal :=
  s.onUp now fun d => ((d.sliceComplete unit pass).startPlanners).settleStarts

/-- TEST_OVERDUE (R678): no whole test has passed within the unit's interval. A unit out of service is not tested. -/
def execTestOverdue (now : Time) (unit : TestUnit) (s : State) : Host.Outcome State Fault Refusal :=
  s.onUp now fun d =>
    let x := d.test unit
    let out := x.failed || match unit with
      | .tile t => (d.tile t).t.census == .fenced || (d.tile t).t.census == .lbistFailed
      | .engine _ => false
    if !out ∧ !x.overdue ∧ reached d.hub (addT x.lastPass (usHub (1000000 * d.dtiS unit))) then
      (d.setTest { x with overdue := true }).notify stTestOverdue (unitSource unit).1 (unitSource unit).2
    else d

/-! ### The Control Engine's test row (R654, R679, R687) -/

/-- A half that fails its test goes out of service: the jobs of its slots stop, and the Lectern enters the safe
state. -/
def Device.halfFailed (d : Device) (h : Half) : Device :=
  let d := { d with ce := { d.ce with failed := h :: d.ce.failed } }
  let uses (c : Image) : Bool := match h with
    | .a => decide (CeDesc.slot c < 128)
    | .b => decide (128 ≤ CeDesc.slot c) || d.slotSafety c
  let js := ((d.ceDescs.map (·.2)).filter uses).map fun c => BitVec.ofNat 16 (CeDesc.jobId c)
  let d := js.eraseDups.foldl (fun (d : Device) j =>
    let d := (d.jobSlots j).foldl (fun (d : Device) c =>
      d.setSlot (CeDesc.slot c) { d.slot (CeDesc.slot c) with running := false, stopping := false, stage := 3 }) d
    match d.job j with
    | some r => (d.stopWith r stSelftestFail).settleStop j
    | none => d) d
  d.notify stSelftestFail srcDomain (if h = .a then 0x36 else 0x37)

/-- TEST_ROW (R654, R679). -/
def execTestRow (now : Time) (half : Half) (pass : Bool) (s : State) : Host.Outcome State Fault Refusal :=
  s.onUp now fun d =>
    if pass ∨ !d.domOn (if half = .a then 0x36 else 0x37) ∨ d.ce.failed.contains half then d else d.halfFailed half

end Sys2Proof.Machine
end

