-- ==== Sys2Proof/Machine/Boot.lean ====
section
/-!
DEFINITION. Start-up, reset, standby, recovery and supply events (R609, R724 to R731, R743, R751 to R753, R760 to R764,
R796 to R802).
-/

namespace Sys2Proof.Machine

/-! ### Outputs and NOT_READY (R688, R729 to R731) -/

/-- NOT_READY clears when READY and OUTPUTS_ENABLED are both set (R688). -/
def Device.settleReady (d : Device) : Device :=
  if d.bur.win.ready && d.bur.win.outputsEnabled then d.clearCause .notReady else d

/-- OUTPUTS_ENABLED goes to 0 at once: the safe state, and every Control Engine job stops (R731). -/
def Device.disableOutputs (d : Device) : Device :=
  let d := d.watchStatus fun d => d.win fun w => { w with outputsEnabled := false }
  let d := d.enterQuiet .notReady
  ((d.activeJobs.filter fun r => r.engine == engControl).foldl Device.stopJob d).settlePorts

/-- Some Control Engine job is still stopping. -/
def Device.ceStopping (d : Device) : Bool :=
  d.activeJobs.any fun r => r.engine == engControl && match d.run r.id with
    | some x => x.stopping
    | none => false

/-- OUTPUTS_ENABLE with ENABLE 1 (R730); held while an earlier ENABLE 0 still stops jobs (R577). -/
def Device.enableOutputs (d : Device) (n : Fin 64) : Device :=
  let w := d.bur.win
  if w.planFault || w.sigFault || w.checkerFault || w.lecternFault then d.fail n stConfig
  else if d.inProgress n [0x0101, 0x0102, 0x0105] then d.fail n stBusy
  else if d.ceStopping then d.hold n
  else
    let d := d.watchStatus fun d => d.win fun w => { w with outputsEnabled := true }
    let d := d.autoStart (List.range 8)
    (d.settleReady).reply n stOk []

/-- The rows OUTPUTS_ENABLE and OUTPUTS_DISABLE carry opcode 0x0106 with ENABLE 1 and 0. -/
def Device.outputs (d : Device) (n : Fin 64) : Device :=
  if bitAt (d.params n) 0 then d.enableOutputs n else d.disableOutputs.reply n stOk []

/-- OUTPUTS_ENABLE (R730): the row acts on commands whose ENABLE is 1. -/
def execOutputsEnable (now : Time) (drawer : Fin 64) (s : State) : Host.Outcome State Fault Refusal :=
  s.onAlive now fun d =>
    if bitAt (imageAt (d.drawer drawer).copy 16 8) 0 then d.command drawer 0x0106 fun d => d.outputs drawer else d

/-- OUTPUTS_DISABLE (R731): the row acts on commands whose ENABLE is 0. -/
def execOutputsDisable (now : Time) (drawer : Fin 64) (s : State) : Host.Outcome State Fault Refusal :=
  s.onAlive now fun d =>
    if bitAt (imageAt (d.drawer drawer).copy 16 8) 0 then d else d.command drawer 0x0106 fun d => d.outputs drawer

/-! ### Self-calibration and LBIST (R124, R586, R726) -/

/-- A raw reading corrected with its thermal trim (R747); without a record it stands. -/
def Device.corrected (d : Device) (s : Nat) (raw : Int) : Int :=
  match (d.calRecs 3).find? fun e => fld e.2 7 0 == s with
  | some e => roundDiv (raw * (fld e.2 47 32 : Nat)) 32768 + sfld e.2 31 16
  | none => raw

/-- The sensors that differ from the hub's reference sensor by more than 5 °C (R726). -/
def Device.offSensors (d : Device) (f : BootFindings) : List (Fin 144) :=
  (List.finRange 144).filter fun s => match f.readings[s.val]? with
    | some raw => decide (320 < (d.corrected s.val raw.toInt - f.reference.toInt).natAbs)
    | none => false

/-- Step 4 of R724: excluded sensors, and the estimator fit. -/
def Device.calibrate (d : Device) (f : BootFindings) : Device :=
  let d := d.bump
  let keys := ((d.calRecs 4).map fun e => let x : Image := e.2; fld x 7 0 * 16 + fld x 11 8).eraseDups
  let weights : Tbl F32 := if f.calFitOk then keys.foldl (fun t k => Tbl.put t k (Config.fitWeight d.clk.nonce k)) [] else []
  let d := { d with pow := { d.pow with gov := { d.pow.gov with excluded := d.offSensors f, weights } } }
  if f.calFitOk then d else d.win fun w => { w with calFault := true }

/-- Fences tiles at start-up: they serve no id. -/
def Device.fenceAt (d : Device) (c : CensusState) (ts : List (Fin 4160)) : Device :=
  ts.foldl (fun (d : Device) (t : Fin 4160) =>
    let x := d.tile t
    if x.t.census = .fenced ∨ x.t.census = .lbistFailed then d
    else
      let id : Nat := match x.t.serves with
        | some i => i.val
        | none => 0xFFFF
      let d := d.setTile t { x with t := { x.t with census := c, serves := none } }
      { d with jobs := { d.jobs with fenced := d.jobs.fenced ++ [(t, id)] } }) d

/-- Step 6 of R724: new failures are fenced in ascending id, spares are mapped in the order of fencing (R667), and every
engine test has its pass. -/
def Device.lbist (d : Device) (f : BootFindings) : Device :=
  let new := sortBy (fun (a b : Fin 4160) => decide (a ≤ b)) f.lbistFail
  let old := d.jobs.fenced.length
  let d := d.fenceAt .lbistFailed new
  let d := if old < d.jobs.fenced.length then d.persist else d
  let d := d.jobs.fenced.foldl (fun (d : Device) e => d.mapSpare e.2) d
  f.engineFail.foldl Device.engineFailed d

/-! ### Firmware (R751, R760, R761) -/

def NonVolatile.bank (v : NonVolatile) (b : Bool) : Bytes := if b then v.fwB else v.fwA

/-- The bank that starts: the marked one, or the other when it does not start (R751, R760). -/
def NonVolatile.startBank (v : NonVolatile) (f : BootFindings) : Option Bool :=
  [v.marked, !v.marked].find? fun b => (v.fwCheck (v.bank b)).isNone && !f.bankFails.getLsbD b.toNat

/-- R761: an image with COMMIT_SVN that reaches READY raises the fused minimum to its SEC_VERSION. -/
def raiseFuse (fuse : BitVec 64) (target : Nat) : BitVec 64 :=
  (List.range 64).foldl (fun (f : BitVec 64) i =>
    if !f.getLsbD i && popCount f.toNat 64 < target then f ||| BitVec.ofNat 64 (2 ^ i) else f) fuse

def Device.commitSvn (d : Device) : Device :=
  let h := fwHdr d.bur.fwImage
  if FwHdr.commitSvn h then
    { d with bur := { d.bur with nv := { d.bur.nv with svnFuse := raiseFuse d.bur.nv.svnFuse (FwHdr.secVersion h) } } }
  else d

/-! ### Memory initialisation (R635, R638, R641, R642) -/

/-- The copy of PERSIST in force (R645). -/
def NonVolatile.persistCurrent (v : NonVolatile) : Option PersistCopy :=
  match v.persistA.complete, v.persistB.complete with
  | true, true => some (if v.persistA.seq < v.persistB.seq then v.persistB else v.persistA)
  | true, false => some v.persistA
  | false, true => some v.persistB
  | false, false => none

/-- The log entry of a failed self-test (R642): what it found is not known beforehand. -/
def selftestEntry (nonce : Nat) (t : Time) : ErrEntry :=
  let w (i : Nat) : Nat := (Config.freeWord nonce i).toNat
  { line := BitVec.ofNat 27 (w 0), beat := BitVec.ofNat 4 (w 1), symA := BitVec.ofNat 5 (w 2), symB := BitVec.ofNat 5 (w 3),
    kind := BitVec.ofNat 2 (w 4 % 3), source := 2, patA := BitVec.ofNat 8 (w 5), patB := BitVec.ofNat 8 (w 6),
    syndrome := BitVec.ofNat 32 (w 7), time := t, count := 1 }

/-- Step 5 of R724. -/
def Device.initMemory (d : Device) (f : BootFindings) : Device :=
  let p := d.bur.nv.persistCurrent
  let d := d.bump
  let sets := (List.range 4).map fun k =>
    let bad := f.setFail.getLsbD k
    { MemSet.reset with
      remap := nth ((p.map (·.remaps)).getD []) k (List.replicate 16 none)
      erased := nth ((p.map (·.erased)).getD []) k none
      excluded := bad
      log := if bad then selftestEntry (d.clk.nonce * 4 + k) d.hub :: List.replicate 15 ErrEntry.empty
             else List.replicate 16 ErrEntry.empty }
  let d := { d with mem := { d.mem with main := { cells := [], undef := [], poison := [] }, sets, cache := [] } }
  d.win fun w => { w with memFault := f.setFail != 0, checkerFault := !f.checkerOk }

/-! ### Stored Plans (R743) -/

/-- Loads and activates one stored Plan; a failure sets its bit and skips it, and a success clears
both bits as a PLAN_ACTIVATE does (R732, R743; log entry 39). -/
def Device.startStored (d : Device) (p : StoredPlan) : Device :=
  let bad (st : Status) : Device := d.win fun w => { w with
    planFault := w.planFault || decide (st ≠ stSignature), sigFault := w.sigFault || decide (st = stSignature), lastStatus := st }
  if 16 ≤ d.jobs.plans.length then bad stOverrun
  else match d.planCheck p.bytes p.bytes.length with
  | some st => bad st
  | none =>
    let e := d.addPlan p.bytes (some p.storeId)
    let ps := (List.range 8).filter fun i => bitAt (PlanHdr.partMask (planHdr p.bytes)) i
    match e.1.activationFault ps e.2.handle with
    | some st => bad st
    | none => (e.1.installPlan ps e.2.handle).win fun w => { w with planFault := false, sigFault := false }

def Device.startStoredPlans (d : Device) : Device :=
  (sortBy (fun (a b : StoredPlan) => decide (a.storeId ≤ b.storeId))
    (d.bur.nv.plans.filter fun p => PlanHdr.autoActivate (planHdr p.bytes))).foldl Device.startStored d

/-! ### The sequence of R724 -/

/-- Every switchable domain is on after step 6, and its idle time begins. -/
def Device.powerAll (d : Device) : Device :=
  (List.range 68).foldl (fun (d : Device) k =>
    let d := d.setDom k (.on (some d.hub))
    match counterOf k with
    | some c => if (d.clk.counters.find c).isSome then d else
        -- the domain came on at some point of steps 2 to 6
        d.setCounter c (BitVec.ofNat 48 (min (Config.elapsed (BitVec.ofNat 8 c) d.clk.nonce d.hub.toNat)
          (elapsedUnits c d.clk.nonce (min d.hub.toNat (usHub 1426000))) / cycleUnits))
    | none => d) d

/-- Each input port reads its strap (R774), and each output port its rate straps; an output
transmits on four lanes (R775). Each takes its PHY settings (R745). -/
def Device.strapPorts (d : Device) : Device :=
  { d with ports := { d.ports with
      ins := d.ports.ins.zipIdx.map fun (e : PortCounts × Nat) => { e.1 with phy := Config.strapPhy e.2, setting := d.portSetting e.2 }
      outs := d.ports.outs.zipIdx.map fun (e : OutPort × Nat) => { e.1 with
        rate := Config.strapRate e.2, counts := { e.1.counts with lanes := 4, setting := d.portSetting (e.2 + 16) } } } }

/-- Step 7 ends: READY is set, with its IBI (R724), and what starts with it begins (R664, R678). -/
def Device.reachReady (d : Device) : Device :=
  let d := d.watchStatus fun d => d.win fun w => { w with ready := true, step := 7 }
  ((({ d with readyAt := d.hub, leakAt := d.hub }).settleReady).settleDomains.startPlanners).settleStarts

/-- Input 0 in recovery: D-PHY on one lane (R777). -/
def Device.recoveryPort (d : Device) : Device := d.setIn 0 { d.inPort 0 with lanes := 1, phy := false, deskewed := false }

/-- The steps of R724 from step 2 on a device that holds step 1 (R727, R728). -/
def Device.bootFrom2 (d : Device) (f : BootFindings) : Device :=
  let d := { d with lect := { d.lect with bootOk := f.lecternOk } }
  let d := if f.lecternOk then d
    else (d.enterSafe .lecternFault stLecternFault 0).win fun w => { w with lecternFault := true }
  match d.bur.nv.startBank f with
  | none =>
    let d := d.recoveryPort
    { d with pow := { d.pow with phase := .recovery }
             bur := { d.bur with fwBank := none, fwImage := [], recovery := []
                                 win := { d.bur.win with step := 3, sigFault := true } } }
  | some b =>
    let d := { d with pow := { d.pow with phase := .up }
                      bur := { d.bur with fwBank := some b, fwImage := d.bur.nv.bank b } }
    let d := if d.bur.nv.calCurrent.isNone then d.win fun w => { w with calFault := true } else d
    let d := (d.calibrate f).initMemory f
    let d := d.fenceAt .fenced ((d.bur.nv.persistCurrent.map (·.fences)).getD [])
    let d := ((d.lbist f).strapPorts).powerAll
    let d := d.startStoredPlans.reachReady.commitSvn
    if b = d.bur.nv.marked then d else d.event stFwFallback srcNone 0 0

/-- Step 1 after power has come: everything at reset but the non-volatile store, the hub counter started (R724). -/
def Device.powerUp (d : Device) (now : Time) : Device :=
  let e := Device.reset
  let n := d.clk.nonce + 1
  { e with
    clk := { hub := now, samples := [], hostUse := false, nonce := n
             counters := [2, 3].map fun k => (k, BitVec.ofNat 48 (elapsedUnits k n now.toNat / cycleUnits))
             phases := [2, 3].map fun k => (k, elapsedUnits k n now.toNat % cycleUnits) }
    pow := { e.pow with phase := .held }
    bur := { e.bur with nv := d.bur.nv }
    lect := { e.lect with changed := now } }

/-- BATTERY_TURN_ON (R724): BATT+ has been above 22 V for 10 ms; `now` is the hub counter when the sequence ends, the
counter having started at 0 in step 1. -/
def execBatteryTurnOn (now : Time) (f : BootFindings) (s : State) : Host.Outcome State Fault Refusal :=
  s.act now fun d => if d.pow.phase = .off then (d.powerUp now).bootFrom2 f else d

/-- The state of step 1 under RESET_N (R728): the always-on counters run on, and the Lectern's log is kept (R655). -/
def Device.holdReset (d : Device) : Device :=
  let e := Device.reset
  { e with
    clk := { d.clk with counters := d.clk.counters.filter fun c => c.1 == 2 || c.1 == 3
                        phases := d.clk.phases.filter fun c => c.1 == 2 || c.1 == 3
                        samples := [], hostUse := false }
    pow := { e.pow with phase := .held }
    bur := { e.bur with nv := d.bur.nv }
    lect := { e.lect with changed := d.hub, log := d.lect.log, nextNumber := d.lect.nextNumber } }

/-- RESET_N_ASSERT (R728, R796). -/
def execResetNAssert (now : Time) (s : State) : Host.Outcome State Fault Refusal :=
  s.act now fun d => if d.pow.phase = .off then d else d.holdReset

/-- RESET_N_RELEASE (R728). -/
def execResetNRelease (now : Time) (f : BootFindings) (s : State) : Host.Outcome State Fault Refusal :=
  s.act now fun d => if d.pow.phase = .held then d.bootFrom2 f else d

/-- The Lectern detects a cause of its own: the safe state and its event (R685). -/
def Device.lecternCause (d : Device) (c : SafeCause) (st : Status) : Device :=
  (d.enterSafe c st 0).event st srcLectern 0 0

/-- BROWN_OUT (R801): the safe state, then every domain off; the non-volatile store alone is kept. -/
def execBrownOut (now : Time) (s : State) : Host.Outcome State Fault Refusal :=
  s.act now fun d =>
    if d.pow.phase = .off then d
    else
      let d := d.lecternCause .supplyFault stSupplyFault
      let e := Device.reset
      { e with clk := { e.clk with nonce := d.clk.nonce }, bur := { e.bur with nv := d.bur.nv } }

/-- OVER_VOLTAGE_TRIP (R802). -/
def execOverVoltageTrip (now : Time) (s : State) : Host.Outcome State Fault Refusal :=
  s.onAlive now fun d =>
    let d := d.lecternCause .supplyFault stSupplyFault
    if d.pow.phase = .shut then d else d.shutdown

/-! ### Standby (R609, R753, R797) -/

/-- Every switchable domain is off. -/
def Device.allOff (d : Device) : Bool := d.pow.doms.all (· == .off)

/-- The module is in standby: its command ends. -/
def Device.inStandby (d : Device) (n : Fin 64) : Device :=
  let d := d.watchStatus fun d => d.win fun w => { w with standby := true }
  ({ d with pow := { d.pow with phase := .standby } }).reply n stOk []

/-- Step 7 on leaving standby: the sections of the active Plans are installed again, and their AUTO_START jobs start
(R753). -/
def Device.reinstall (d : Device) : Device :=
  let ps := (List.range 8).filter fun p => (d.part p).active.isSome
  (((((d.installHooks ps).installImages ps).installTiles ps).installEngines ps).installStreams ps).autoStart ps

/-- Leaves standby through steps 4, 6 and 7 of R724 (R705, R753): the Drawers are idle but the one that leaves. -/
def Device.leaveStandby (d : Device) (own : Option (Fin 64)) (f : BootFindings) : Device :=
  let idle := (List.finRange 64).map fun n => if some n = own then d.drawer n else { Drawer.reset with area := (d.drawer n).area }
  let d := { d with
    pow := { d.pow with phase := .up, wake := none }
    tests := []
    bur := { d.bur with drawers := idle, queue := [], holds := [], bulk := []
                        win := { d.bur.win with negotiated := false, minorNeg := 0xFF } } }
  let d := d.watchStatus fun d => d.win fun w => { w with standby := false }
  let d := (((d.calibrate f).lbist f).strapPorts).powerAll
  let d := (d.reinstall).reachReady
  match own with
  | some n => d.reply n stOk []
  | none => d

/-- STANDBY with ENTER 1 (R609, R753): the outputs are disabled, every job stops, then every domain switches off. -/
def Device.enterStandby (d : Device) (n : Fin 64) : Device :=
  let d := (d.goOn n).disableOutputs
  let d := d.activeJobs.foldl Device.stopJob d
  let d := d.settleStandby
  if d.allOff then d.inStandby n else d

/-- STANDBY_ENTER (R609): the row acts on commands whose ENTER is 1; in standby already, it completes at once. -/
def execStandbyEnter (now : Time) (drawer : Fin 64) (s : State) : Host.Outcome State Fault Refusal :=
  s.onAlive now fun d =>
    if bitAt (imageAt (d.drawer drawer).copy 16 8) 0 then
      d.command drawer 0x0706 fun d => if d.pow.phase = .up then d.enterStandby drawer else d.reply drawer stOk []
    else d

/-- STANDBY_LEAVE (R705, R753): the row acts on commands whose ENTER is 0. -/
def execStandbyLeave (now : Time) (drawer : Fin 64) (f : BootFindings) (s : State) : Host.Outcome State Fault Refusal :=
  s.onAlive now fun d =>
    if bitAt (imageAt (d.drawer drawer).copy 16 8) 0 then d
    else d.command drawer 0x0706 fun d =>
      if d.pow.phase = .standby then d.leaveStandby (some drawer) f else d.reply drawer stOk []

/-- WAKE_EDGE (R753, R797): ignored outside standby; an edge during the entry acts once standby has been entered. -/
def execWakeEdge (now : Time) (f : BootFindings) (s : State) : Host.Outcome State Fault Refusal :=
  s.act now fun d =>
    if d.pow.phase = .standby then d.leaveStandby none f
    else if d.pow.phase = .up ∧ d.enteringStandby.isSome then { d with pow := { d.pow with wake := some f } }
    else d

/-- DOMAIN_OFF_DONE (R579, R584): the domain is off; a switch-on held meanwhile begins. The last one of an entry to
standby completes it. -/
def Device.domainOff (d : Device) (k : Nat) : Device :=
  match d.dom k with
  | .goingOff _ again =>
    let d := (d.setDom k .off).loseDomain k
    match d.enteringStandby with
    | some n =>
      if !d.allOff then d
      else
        let d := d.inStandby n
        match d.pow.wake with
        | some f => d.leaveStandby none f
        | none => d
    | none => if again ∨ d.needed k then d.setDom k (.goingOn d.hub) else d
  | _ => d

/-- DOMAIN_OFF_DONE (R584). -/
def execDomainOffDone (now : Time) (dom : Fin 68) (s : State) : Host.Outcome State Fault Refusal :=
  s.onUp now fun d => d.domainOff dom.val

/-! ### Recovery (R764, R777) -/

/-- RECOVERY_PACKET (R764): the ROM gathers one image; a packet that breaks the rules discards it. A packet lost to its
header or its CRC shows in the next OFFSET. -/
def Device.recoveryPacket (d : Device) (p : Pkt) (f : BootFindings) : Device :=
  let h := imageAt p.payload 0 16
  let b := imageAt p.payload 16 16
  let body := p.payload.drop 32
  let keep (x : Bytes) : Device := { d with bur := { d.bur with recovery := x } }
  if p.port.val ≠ 0 ∨ p.vc ≠ 0 ∨ p.dt ≠ 0x37 ∨ p.ecc = .bad ∨ !p.crcOk ∨ p.payload.length < 16
    ∨ StrHdr.tag h ≠ 0xFFF ∨ StrHdr.kind h ≠ 0x50 ∨ StrHdr.seq h ≠ 0 then d
  else
    let got := d.bur.recovery ++ body
    let len := FwHdr.totalLen (imageAt got 0 128)
    let known := decide (24 ≤ got.length)
    if !rsvdZero h StrHdr.rsvd ∨ fld b 127 48 ≠ 0 ∨ fld b 47 0 ≠ d.bur.recovery.length ∨ body.isEmpty then keep []
    else if StrHdr.isPartial h then (if known ∧ len ≤ got.length then keep [] else keep got)
    else if !known ∨ len ≠ got.length then keep []
    else match d.bur.nv.fwCheck got with
      | some _ => keep []
      | none =>
        let e := d.holdReset
        ({ e with bur := { e.bur with nv := { e.bur.nv with fwA := got, marked := false } } }).bootFrom2 f

/-- RECOVERY_PACKET (R764). -/
def execRecoveryPacket (now : Time) (p : Pkt) (f : BootFindings) (s : State) : Host.Outcome State Fault Refusal :=
  s.act now fun d => if d.pow.phase = .recovery then d.recoveryPacket p f else d

/-! ### PERSIST (R127, R635, R645, R752) -/

/-- Writes the copy with the older sequence number and makes it current (R645). -/
def NonVolatile.putPersist (v : NonVolatile) (c : PersistCopy) : NonVolatile :=
  let c := { c with seq := max v.persistA.seq v.persistB.seq + 1, complete := true }
  if v.persistA.seq ≤ v.persistB.seq then { v with persistA := c } else { v with persistB := c }

/-- The records of `c` that are not among those of `gone`. -/
def PersistCopy.without (c gone : PersistCopy) : PersistCopy :=
  let drop {α : Type} [DecidableEq α] (a b : Option α) : Option α := if a = b then none else a
  { c with
    fences := c.fences.filter fun t => !gone.fences.contains t
    remaps := List.zipWith (List.zipWith drop) c.remaps gone.remaps
    erased := List.zipWith drop c.erased gone.erased }

/-- The records of the running state: fences, remap tables and erased dies. -/
def Device.records (d : Device) : PersistCopy :=
  { seq := 0, complete := true, fences := (d.jobs.fenced.map (·.1)).eraseDups
    remaps := d.mem.sets.map (·.remap), erased := d.mem.sets.map (·.erased) }

/-- PERSIST_RECORD (R127, R635): the records of the running state, but those that SERVICE_CLEAR has removed (R752). -/
def execPersistRecord (now : Time) (s : State) : Host.Outcome State Fault Refusal :=
  s.onUp now fun d =>
    match d.bur.persistDue with
    | none => d
    | some _ =>
      { d with bur := { d.bur with nv := d.bur.nv.putPersist (d.records.without d.bur.cleared), persistDue := none } }

/-- SERVICE_CLEAR (R752): the selected records leave PERSIST; the running state stands. -/
def execServiceClear (now : Time) (drawer : Fin 64) (s : State) : Host.Outcome State Fault Refusal :=
  s.drawerCommand now drawer 0x0707 fun d =>
    let p := d.params drawer
    let v := d.bur.nv
    let old := v.persistCurrent.getD PersistCopy.empty
    let gone := d.bur.cleared
    let c : PersistCopy := { old with
      fences := if bitAt p 0 then [] else old.fences
      remaps := if bitAt p 1 then PersistCopy.empty.remaps else old.remaps
      erased := if bitAt p 2 then PersistCopy.empty.erased else old.erased }
    let gone : PersistCopy := { gone with
      fences := if bitAt p 0 then gone.fences ++ old.fences else gone.fences
      remaps := if bitAt p 1 then List.zipWith (List.zipWith fun a b => a.or b) old.remaps gone.remaps else gone.remaps
      erased := if bitAt p 2 then List.zipWith (fun a b => a.or b) old.erased gone.erased else gone.erased }
    ({ d with bur := { d.bur with nv := v.putPersist c, cleared := gone } }).reply drawer stOk []

/-! ### FW_UPDATE and ATTEST (R750, R762, R769 to R771) -/

/-- FW_UPDATE (R750): arms its transfer. -/
def execFwUpdate (now : Time) (drawer : Fin 64) (s : State) : Host.Outcome State Fault Refusal :=
  s.drawerCommand now drawer 0x0801 fun d =>
    if d.inProgress drawer [0x0801] then d.fail drawer stBusy
    else d.armBulk drawer (fld (d.params drawer) 383 128) (2 ^ 28) none

/-- The image of an FW_UPDATE has arrived (R750, R762). -/
def Device.finishFwUpdate (d : Device) (n : Fin 64) (img : Bytes) : Device :=
  let v := d.bur.nv
  match v.fwCheck img with
  | some st => d.fail n st
  | none =>
    let running := d.bur.fwBank.getD false
    let v : NonVolatile := if running then { v with fwA := img } else { v with fwB := img }
    let v : NonVolatile := { v with marked := if bitAt (d.params n) 0 then !running else running }
    ({ d with bur := { d.bur with nv := v } }).reply n stOk (natLE (FwHdr.fwVersion (fwHdr img)) 8)

/-- The current calibration copy as a byte string, for its digest: its records in ascending key. -/
def Device.calBytes (d : Device) : Bytes :=
  match d.bur.nv.calCurrent with
  | some c => natLE c.seq 4 ++ c.recs.flatMap fun e => natLE e.1 4 ++ e.2
  | none => []

def Device.attestReport (d : Device) (nonce : Nat) : Bytes :=
  let v := d.bur.nv
  let img := d.bur.fwImage
  let mask (f : Nat → Bool) : Nat := (List.range 4).foldl (fun m k => if f k then m + 2 ^ k else m) 0
  let ps := sortBy (fun (a b : LoadedPlan) => decide (a.handle ≤ b.handle)) d.jobs.plans
  let hdr := natLE (mkImage [(0, 4, 1), (4, 2, (d.bur.fwBank.getD false).toNat), (6, 2, FwHdr.keySlot (fwHdr img)),
    (8, 4, mask fun k => nth v.revoked k 0 != 0), (12, 4, mask fun k => v.usable img k), (16, 8, v.svnMin),
    (24, 8, ps.length), (32, 32, FwHdr.fwVersion (fwHdr img)), (64, 64, Config.serial.toNat), (128, 48, d.hub.toNat),
    (192, 256, nonce), (448, 256, leNat (sha256 (img.take 1664))), (704, 256, leNat (sha256 d.calBytes))]) 128
  let body := hdr ++ ps.flatMap fun p => natLE (mkImage [(0, 16, p.handle.toNat),
    (16, 8, PlanHdr.partMask (planHdr p.bytes)), (24, 8, d.activeMask p.handle), (32, 2, p.keySlot.toNat),
    (64, 32, (p.storeId.getD 0xFFFFFFFF).toNat), (128, 256, leNat p.digest)]) 48
  body ++ Config.identitySign body

/-- ATTEST (R769, R771): held while a command that changes what it reports is in progress. -/
def Device.attest (d : Device) (n : Fin 64) : Device :=
  if d.inProgress n [0x0101, 0x0102, 0x0103, 0x0105, 0x0602, 0x0804] then d.hold n
  else d.reply n stOk (d.attestReport (d.params n % 2 ^ 256))

/-- ATTEST (R769). -/
def execAttest (now : Time) (drawer : Fin 64) (s : State) : Host.Outcome State Fault Refusal :=
  s.drawerCommand now drawer 0x0802 fun d => d.attest drawer

end Sys2Proof.Machine
end

