-- ==== Sys2Proof/Machine/Bulk.lean ====
section
/-!
DEFINITION. Bulk data (R715 to R723): MEM_WRITE, the packets of armed transfers, and their time limit.
-/

namespace Sys2Proof.Machine

/-- MEM_WRITE (R713, R716): arms its transfer into a partition's memory view. -/
def Device.memWrite (d : Device) (n : Fin 64) : Device :=
  let p := d.params n
  let part := fld p 2 0
  let addr := fld p 111 64
  match (d.part part).record with
  | none => d.fail n stConfig
  | some r =>
    if (d.part part).active.isNone ∨ addr % 256 ≠ 0 then d.fail n stConfig
    else d.armBulk n (fld p 383 128) (PartRec.memGib r * 2 ^ 30 - addr) (some (⟨part % 8, Nat.mod_lt _ (by decide)⟩, addr, 0))

/-- MEM_WRITE (R722). -/
def execMemWrite (now : Time) (drawer : Fin 64) (s : State) : Host.Outcome State Fault Refusal :=
  s.drawerCommand now drawer 0x0504 fun d => d.memWrite drawer

def Device.setBulk (d : Device) (b : Bulk) : Device :=
  { d with bur := { d.bur with bulk := d.bur.bulk.map fun (x : Bulk) => if x.drawer = b.drawer then b else x } }

/-- The transfer is no longer armed. -/
def Device.dropBulk (d : Device) (n : Fin 64) : Device :=
  { d with bur := { d.bur with bulk := d.bur.bulk.filter fun (x : Bulk) => x.drawer != n } }

/-- The bytes of a failed MEM_WRITE are undefined, rounded up to a whole line (R722). -/
def Device.undefineView (d : Device) (p a n : Nat) : Device :=
  let d := d.bump
  (List.range (ceilDiv n 256)).foldl (fun (d : Device) i => match d.viewPhys p (a + 256 * i) with
    | some x => { d with mem := { d.mem with main := d.mem.main.forget x 256 d.clk.nonce } }
    | none => d) d

/-- A transfer fails, and its command ends with the status (R721, R722). -/
def Device.failBulk (d : Device) (b : Bulk) (st : Status) : Device :=
  let d := d.dropBulk b.drawer
  let d := match b.dest with
    | some (p, a, w) => (d.undefineView p.val a b.length).reply b.drawer st (natLE w 8)
    | none => if d.cmdOpcode b.drawer = 0x0101 then d.planFail b.drawer st else d.fail b.drawer st
  d.settleDomains

/-- The lines of a MEM_WRITE whose bytes have all arrived are written (R722); at the object's end, the last one is padded. -/
def Device.writeArrived (d : Device) (b : Bulk) (last : Bool) : Device × Bulk :=
  match b.dest with
  | none => (d, b)
  | some (p, a, w) =>
    let n := if last then b.got.length else b.got.length / 256 * 256
    if n ≤ w then (d, b)
    else (d.writeLines p.val (a + w) (slice b.got w (n - w)), { b with dest := some (p, a, n) })

/-- The whole object has arrived: its command goes on (R719, R722, R723). -/
def Device.finishBulk (d : Device) (b : Bulk) : Device :=
  if crc32 b.got ≠ b.crc then d.failBulk b stCorrupt
  else
    let (d, b) := d.writeArrived b true
    let d := d.dropBulk b.drawer
    let n := b.drawer
    let d := match d.cmdOpcode n with
      | 0x0101 => d.loadPlan n b.got
      | 0x0501 => d.queueMap n b.got
      | 0x0502 => d.queueDelta n b.got
      | 0x0504 => d.reply n stOk (natLE b.length 8)
      | 0x0602 => d.putCal n b.got
      | 0x0801 => d.finishFwUpdate n b.got
      | _ => d
    d.settleDomains

/-- A packet of an armed transfer (R720, R721). -/
def Device.bulkData (d : Device) (b : Bulk) (hdr : Image) (payload : Bytes) : Device :=
  let h := imageAt payload 16 16
  let data := payload.drop 32
  if fld h 47 0 ≠ b.got.length ∧ 32 ≤ payload.length then d.failBulk b stCorrupt
  else if data.isEmpty then d.failBulk b stCorrupt
  else if fld h 127 48 ≠ 0 then d.failBulk b stReserved
  else
    let total := b.got.length + data.length
    let last := !StrHdr.isPartial hdr
    if b.length < total ∨ (last ∧ total < b.length) then d.failBulk b stLimit
    else
      let b : Bulk := { b with got := b.got ++ data, last := d.hub }
      let (d, b) := d.writeArrived b false
      let d := d.setBulk b
      if last then d.finishBulk b else d

/-- BULK_PACKET (R719 to R723, R785). -/
def execBulkPacket (now : Time) (p : Pkt) (s : State) : Host.Outcome State Fault Refusal :=
  s.onUp now fun d =>
    if p.dt ≠ 0x37 then d else
    let armed (d : Device) (h : Image) : Option Bulk := d.bur.bulk.find? fun b =>
      b.port == p.port.val && b.vc == p.vc.toNat && b.tag == StrHdr.tag h && b.seq == StrHdr.seq h
    match d.arrive p with
    | (d, .gone) => d
    | (d, .badCrc) => d
    | (d, .badHeader h kind) => match armed d h with
      | some b => d.failBulk b (if kind then stCorrupt else stReserved)
      | none => d
    | (d, .ok h) => match armed d h with
      | some b => d.bulkData b h p.payload
      | none => d.countUnbound p.port

/-- BULK_TIMEOUT (R721): TIMEOUT_MS has passed without a packet. -/
def execBulkTimeout (now : Time) (drawer : Fin 64) (s : State) : Host.Outcome State Fault Refusal :=
  s.onUp now fun d =>
    match d.bur.bulk.find? fun b => b.drawer == drawer with
    | some b => if reached d.hub (addT b.last (usHub (1000 * b.timeoutMs))) then d.failBulk b stTimeout else d
    | none => d

end Sys2Proof.Machine
end

