-- ==== Sys2Proof/Machine/Counts.lean ====
section
/-!
DEFINITION. COUNTERS (R396, R568, R788) and TILE_CENSUS (R129, R130).
-/

namespace Sys2Proof.Machine

def word32 (n : Nat) : Bytes := natLE (sat32 n) 4

/-- The counts of a set, in index order (R713). -/
def CeCounts.list (k : CeCounts) : List Nat := [k.dropped, k.stale, k.plaus, k.mismatch, k.early, k.missedEdge]

def SensorCounts.list (k : SensorCounts) : List Nat := [k.late, k.gated, k.nonfinite, k.timeRange, k.corrupt, k.unused]

/-- A port record (R788); an output uses PACKETS, DISCARDED, LANES and PHY only. -/
def PortCounts.record (k : PortCounts) (out : Bool) : Bytes :=
  natLE (if out then mkImage [(0, 32, k.packets), (320, 32, k.discarded), (352, 3, k.lanes.toNat), (355, 1, k.phy.toNat)]
    else mkImage [(0, 32, k.packets), (32, 32, k.hdrCorrected), (64, 32, k.hdrDropped), (96, 32, k.crcErrors),
      (128, 32, k.unbound), (160, 32, k.headerErrors), (192, 32, k.shorts), (224, 6, k.lastDt.toNat),
      (232, 5, k.lastVc.toNat), (240, 16, k.lastData.toNat), (256, 48, k.lastTime.toNat), (320, 32, k.discarded),
      (352, 3, k.lanes.toNat), (355, 1, k.phy.toNat), (356, 1, k.deskewed.toNat)]) 64

def Device.countersReply (d : Device) (set : Nat) : Bytes :=
  match set with
  | 0 => d.jobs.clients.flatMap fun c => (List.range 5).flatMap fun k => word32 (nth c k 0)
  | 1 => ((List.range 512).flatMap fun s => match d.eng.fus.counts.find s with
      | some k => k.list.flatMap word32
      | none => List.replicate 24 0) ++ word32 d.eng.fus.trackFull
  | 2 => (List.range 256).flatMap fun s => match d.ce.counts.find s with
      | some k => k.list.flatMap word32
      | none => List.replicate 24 0
  | _ => (d.ports.ins.flatMap fun k => k.record false) ++ d.ports.outs.flatMap fun o => o.counts.record true

def Device.countersClear (d : Device) (set : Nat) : Device :=
  match set with
  | 0 => { d with jobs := { d.jobs with clients := List.replicate 64 [0, 0, 0, 0, 0] } }
  | 1 => d.fus fun x => { x with counts := [], trackFull := 0 }
  | 2 => { d with ce := { d.ce with counts := [] } }
  | _ => { d with ports := { d.ports with
      ins := d.ports.ins.map PortCounts.cleared
      outs := d.ports.outs.map fun (o : OutPort) => { o with counts := o.counts.cleared } } }

/-- COUNTERS (R568, R713, R788): the counts of a set as they stand; CLEAR then zeroes them. -/
def Device.counters (d : Device) (n : Fin 64) : Device :=
  let set := fld (d.params n) 3 0
  if 3 < set then d.fail n stConfig
  else
    let bs := d.countersReply set
    (if bitAt (d.params n) 4 then d.countersClear set else d).reply n stOk bs

def execCounters (now : Time) (drawer : Fin 64) (s : State) : Host.Outcome State Fault Refusal :=
  s.drawerCommand now drawer 0x0703 fun d => d.counters drawer

/-- STATE of a census record (R130). -/
def CensusState.code : CensusState → Nat
  | .active => 0 | .spareIdle => 1 | .spareMapped => 2 | .fenced => 3 | .lbistFailed => 4

/-- A census record (R129). -/
def Device.censusRecord (d : Device) (t : Nat) : Bytes :=
  let x := (d.tile t).t
  let serves : Nat := match x.serves with
    | some i => i.val
    | none => 0xFFFF
  natLE (mkImage [(0, 16, t), (16, 16, serves), (32, 4, (Config.fmaxCode t).toNat), (36, 4, x.census.code),
    (40, 5, groupOf t), (48, 16, min 65535 x.ceCount)]) 8

/-- TILE_CENSUS (R129): COUNT records from FIRST; a range past the last record fails with ST_CONFIG. -/
def Device.tileCensus (d : Device) (n : Fin 64) : Device :=
  let first := fld (d.params n) 12 0
  let count := fld (d.params n) 25 13
  if count = 0 ∨ 4160 < first + count then d.fail n stConfig
  else d.reply n stOk (((List.range count).map (first + ·)).flatMap d.censusRecord)

def execTileCensus (now : Time) (drawer : Fin 64) (s : State) : Host.Outcome State Fault Refusal :=
  s.drawerCommand now drawer 0x0705 fun d => d.tileCensus drawer

end Sys2Proof.Machine
end

