-- ==== Sys2Proof/Machine/Edges.lean ====
section
/-!
DEFINITION. The PERIOD_IN pins (R370, R519, R543, R796): rising edges, and the ends of edge windows.
-/

namespace Sys2Proof.Machine

/-- The period of a locked job in hub cycles (R543). -/
def lockPeriod (r : JobRef) : Nat := usHub (JobRec.periodUs r.image)

/-- A job's generator is locked to a pin and runs. -/
def Device.lockedRun (d : Device) (r : JobRef) : Option JobRun :=
  if JobRec.trigger r.image ≠ 0 ∨ !JobRec.lockEn r.image ∨ r.engine = engFusion ∨ r.engine = engControl then none
  else match d.run r.id with
    | some x => if x.started && !x.stopping && !x.barred then some x else none
    | none => none

/-- A rising edge at a locked job (R543): a period is due 16 hub cycles after an accepted edge. -/
def Device.jobEdge (d : Device) (r : JobRef) : Device :=
  match d.lockedRun r with
  | none => d
  | some x => match x.gen.edge d.hub (lockPeriod r) 16 with
    | some g => if x.gen.due.isSome then d else (d.setRun r.id { x with gen := g }).edgeAccepted x.gen srcJob r.id
    | none => d

/-- A rising edge at a locked Fusion (R370): every edge is a tick. -/
def Device.fusionEdge (d : Device) (pin : Nat) : Device :=
  match d.fusionJob with
  | some (_, desc) =>
    if d.eng.fus.running ∧ FusDesc.lockEn desc ∧ FusDesc.pin desc = pin then
      d.fus fun x => { x with due := x.due ++ [d.hub] }
    else d
  | none => d

/-- PERIOD_IN_EDGE (R519, R543, R370): one rising edge of a pin, sampled for each of its users. -/
def execPeriodInEdge (now : Time) (pin : Fin 8) (s : State) : Host.Outcome State Fault Refusal :=
  s.onUp now fun d =>
    let d := (d.ceDescs.map (·.2)).foldl (fun (d : Device) c =>
      if CeDesc.pin c = pin.val then d.slotEdge (CeDesc.slot c) c else d) d
    let d := (d.activeJobs.filter fun r => JobRec.pin r.image == pin.val).foldl Device.jobEdge d
    d.fusionEdge pin.val

/-- The edge window of a locked job ends without an edge (R519, R543): a period is due at that cycle. -/
def Device.jobWindow (d : Device) (r : JobRef) : Device :=
  match d.lockedRun r with
  | none => d
  | some x =>
    if x.gen.due.isSome ∨ !reached d.hub (x.gen.windowEnd (lockPeriod r)) then d
    else
      let (g, tell) := x.gen.miss (lockPeriod r)
      let d := d.setRun r.id { x with gen := g }
      let d := if tell then d.notify stPeriodLost srcJob r.id else d
      d.periodicDue r (x.gen.windowEnd (lockPeriod r))

/-- EDGE_WINDOW_EXPIRY (R519, R520, R543). -/
def execEdgeWindowExpiry (now : Time) (user : LockUser) (s : State) : Host.Outcome State Fault Refusal :=
  s.onUp now fun d =>
    match user with
    | .slot n => match d.ceDesc n.val with
      | some c => d.slotWindow n.val c
      | none => d
    | .job j => match d.job j with
      | some r => d.jobWindow r
      | none => d

end Sys2Proof.Machine
end

