-- ==== Sys2Proof/Machine/Governor.lean ====
section
/-!
DEFINITION. The power governor (R585 to R608): its intervals, the trim, the junction sensors, the limit record, telemetry
and droop.
-/

namespace Sys2Proof.Machine

def Device.gov (d : Device) (f : Governor → Governor) : Device := { d with pow := { d.pow with gov := f d.pow.gov } }

/-! ### The estimate (R585, R586) -/

/-- The weights in force, by unit × 16 + counter: those of the fit, or those of the calibration set (R586, R745). -/
def Device.weightTable (d : Device) : Tbl F32 :=
  if !d.pow.gov.weights.isEmpty then d.pow.gov.weights
  else (d.calRecs 4).foldl (fun (t : Tbl F32) (e : Nat × Image) =>
    t.put (fld e.2 7 0 * 16 + fld e.2 11 8) (BitVec.ofNat 32 (fld e.2 63 32))) []

/-- w × c ÷ 2 µs in µW, rounded to the nearest; 0 for a weight that is not finite. -/
def termUw (w : F32) (c : Nat) : Int :=
  ((FVal.mul (f32v w) (.ofInt (500000000000 * c : Nat))).toInt).getD 0

/-- P_base: the static power of what is powered at the present temperatures and clocks, with the trim (R585,
R587). -/
def Device.pBase (d : Device) (ws : Tbl F32) : Int :=
  let base := (ws.filter fun e => e.1 / 16 == 255).map fun e => (e.1, e.2.toNat)
  let on := (List.range 68).map fun k => (d.domOn k).toNat
  Config.basePower base on d.pow.gov.sensors d.pow.gov.caps + d.pow.gov.trim

/-- The power of a count, in µW. -/
def activityUw (ws : Tbl F32) (c : Activity) : Int := termUw (ws.getD (c.unit.toNat * 16 + c.counter.toNat) 0) c.count

/-- P_est of an interval, in µW. -/
def Device.estimate (d : Device) (cs : List Activity) : Int :=
  let ws := d.weightTable
  cs.foldl (fun (p : Int) c => p + activityUw ws c) (d.pBase ws)

/-- The counter of a fabric group's clock-running cycles (R585, R748). -/
def clockCount (c : Activity) : Bool := decide (c.unit.toNat < 0x20) && c.counter.toNat == 8

/-- The energy that an interval attributes to each job, in nJ (R604): its activity over 2 µs, and for running tile clocks their share
of static power. -/
def Device.attributed (d : Device) (cs : List Activity) : List (BitVec 16 × Nat) :=
  let ws := d.weightTable
  ((cs.filterMap (·.job)).eraseDups).map fun j =>
    let mine := cs.filter fun (c : Activity) => c.job == some j
    let static := if mine.any clockCount then Config.staticShare d.clk.nonce j else 0
    (j, (roundDiv (mine.foldl (fun (p : Int) c => p + activityUw ws c) static) 500).toNat)

/-! ### Energy (R604 to R607) -/

/-- nJ of an interval go to the open period of their job until its completion or cancellation (R605), and to the cycles of a Fusion
job. -/
def Device.addEnergyNj (d : Device) (j : BitVec 16) (nj : Nat) : Device :=
  let d := d.modPeriod j fun p => if p.done.isSome ∨ p.cause.isSome then p else { p with energyNj := p.energyNj + nj }
  if d.eng.fus.job = some j then
    let cycles := d.eng.fus.cycles.map fun (c : FusionCycle) => { c with energyNj := c.energyNj + nj }
    { d with eng := { d.eng with fus := { d.eng.fus with cycles } } }
  else d

def Device.attribute (d : Device) (jobNj : List (BitVec 16 × Nat)) (pinNj : Nat) : Device :=
  let d := jobNj.foldl (fun (d : Device) e => d.addEnergyNj e.1 e.2) d
  let ce := (jobNj.filter fun e => (d.job e.1).any fun r => r.engine == engControl).map (·.2)
  let e := d.pow.energy
  let energy : Energy := { shares := (jobNj :: e.shares).take 500, ceNj := e.ceNj + ce.foldl (· + ·) 0, totalNj := e.totalNj + pinNj }
  { d with pow := { d.pow with energy } }

/-! ### Frequencies (R592, R595, R726) -/

/-- The hottest sensor of a group reads above TJ_TARGET. -/
def Device.groupHot (d : Device) (k : Nat) : Bool :=
  match d.groupTemp k with
  | some t => decide ((64 * d.pow.gov.limits.tjTarget : Nat) < t)
  | none => false

/-- Every sensor of a group reads at most TJ_TARGET − 2 °C. -/
def Device.groupCool (d : Device) (k : Nat) : Bool :=
  match d.groupTemp k with
  | some t => decide (t ≤ 64 * ((d.pow.gov.limits.tjTarget : Int) - 2))
  | none => true

/-- An occupied tile as the rules of R592 see it. -/
structure CapRow where
  tile : Nat
  cls : Nat
  cap : Nat
  floor : Nat
  top : Nat
  deriving DecidableEq, Repr

/-- The occupied tiles, by class. -/
def Device.capRows (d : Device) : List CapRow :=
  (List.range 4).flatMap fun c => ((d.classTiles c).filter fun t => d.tileClass t == some c).map fun t =>
    { tile := t, cls := c, cap := d.capOf t, floor := d.floorStep c t, top := d.fmax t }

/-- P_est > P_eff: the lowest class with a tile above its floor goes down by one step. -/
def lowerClass (rs : List CapRow) : List CapRow :=
  match [3, 2, 1, 0].find? fun c => rs.any fun (r : CapRow) => r.cls == c && decide (r.floor < r.cap) with
  | some c => rs.map fun (r : CapRow) => if r.cls = c ∧ r.floor < r.cap then { r with cap := r.cap - 1 } else r
  | none => rs

/-- Hot groups go down by one step. -/
def Device.lowerHot (d : Device) (rs : List CapRow) : List CapRow :=
  rs.map fun (r : CapRow) => if d.groupHot (groupOf r.tile) ∧ r.floor < r.cap then { r with cap := r.cap - 1 } else r

/-- P_est < 0.97 P_eff: the highest class below its FMAX in cool groups goes up by one step. -/
def Device.raiseClass (d : Device) (rs : List CapRow) : List CapRow :=
  let can (r : CapRow) : Bool := d.groupCool (groupOf r.tile) && decide (r.cap < r.top)
  match (List.range 4).find? fun c => rs.any fun (r : CapRow) => r.cls == c && can r with
  | some c => rs.map fun (r : CapRow) => if r.cls = c ∧ can r then { r with cap := r.cap + 1 } else r
  | none => rs

/-- P_est has stayed below 0.97 × P_eff. -/
def belowLimit (est eff : Int) : Bool := decide (100 * est < 97 * eff)

/-- The tile that serves an exposed id is in a test slice. -/
def Device.tileInSlice (d : Device) (id : Nat) : Bool :=
  match (d.serving id).bind finTile with
  | some t => d.inSlice (.tile t)
  | none => false

/-- The caps of the next interval (R592), with R595 and R726 above the floors. -/
def Device.stepCaps (d : Device) : Device :=
  let g := d.pow.gov
  let rs := d.capRows
  let one := if g.pEff < g.pEst then lowerClass rs else rs
  let two := d.lowerHot one
  let three := if belowLimit g.pEst g.pEff then d.raiseClass two else two
  -- the clock of a tile in a test slice does not change, except under R595 (R675)
  let three := three.map fun (r : CapRow) => if d.tileInSlice r.tile then { r with cap := d.capOf r.tile } else r
  let held := three.map fun (r : CapRow) =>
    if d.hotGroup (groupOf r.tile) ∨ g.blind (groupOf r.tile) then { r with cap := 24 } else r
  let caps := held.foldl (fun (t : Tbl Nat) (r : CapRow) => t.put r.tile r.cap) []
  let limited := held.any fun (r : CapRow) => decide (r.cap < r.top)
  d.gov fun g => { g with
    caps
    lastHeat := if two ≠ one then some d.hub else g.lastHeat
    limitedUs := if limited then sat32 (g.limitedUs + 2) else g.limitedUs }

/-- Every occupied tile stands at its floor or below, and no BACKGROUND period runs (R594). -/
def Device.atFloors (d : Device) : Bool :=
  (d.capRows.all fun (r : CapRow) => decide (r.cap ≤ r.floor))
    && d.activeJobs.all fun r => !r.background || (d.openPeriod r.id).isNone

/-- How long the conditions of R593 and R594 have held. -/
def Device.watchPower (d : Device) : Device :=
  let g := d.pow.gov
  let above := decide (g.pEff < g.pEst)
  let below := belowLimit g.pEst g.pEff
  let keep (c : Bool) (t : Option Time) : Option Time := if c then some (t.getD d.hub) else none
  let belowSince := keep below g.belowSince
  let limitClear := keep (decide (g.pEst < g.pEff)) g.limitClear
  let passed (t : Option Time) (us : Nat) : Bool := t.any fun t => reached d.hub (addT t (usHub us))
  let overSince := keep (above && d.backgroundAtFloor) g.overSince
  let limitSince := keep (above && d.atFloors) g.limitSince
  d.gov fun g => { g with
    lastOver := if above then some d.hub else g.lastOver
    overSince, belowSince, limitSince, limitClear
    barred := g.barred && !passed belowSince 1000
    limitRaised := g.limitRaised && !passed limitClear 10000 }

/-- GOVERNOR_INTERVAL (R585, R590, R592, R604): the estimate of the interval, its consequences, and its energies. -/
def execGovernorInterval (now : Time) (r : GovernorReading) (s : State) : Host.Outcome State Fault Refusal :=
  s.onUp now fun d =>
    let d := d.bump
    let est := d.estimate r.counts
    let d := d.gov fun g => { g with
      vBatt := r.battMv, iBatt := r.battMa, pEst := est, history := (est :: g.history).take 500, pPeak := max g.pPeak est }
    ((d.attribute (d.attributed r.counts) r.pinNj).watchPower).stepCaps

/-- TRIM_UPDATE (R587): the measured power of the millisecond, in µW, against the mean of the estimates. -/
def execTrimUpdate (now : Time) (measured : Int) (s : State) : Host.Outcome State Fault Refusal :=
  s.onUp now fun d => d.gov fun g => { g with trim := g.trim + max (-3000000) (min 3000000 (measured - g.p1ms)) }

/-! ### Temperature (R591, R595, R596, R747) -/

/-- The die of a sensor (R591): 0, 1, or 2 for the hub die. -/
def sensorDie (s : Nat) : Nat := if s < 64 then 0 else if s < 128 then 1 else 2

/-- Sensors in use. -/
def Governor.inUse (g : Governor) (s : Nat) : Bool := !g.excluded.any fun e => e.val == s

/-- Test slices of tiles whose frequency R595 has lowered are abandoned (R675): they are due again. -/
def Device.abandonSlices (d : Device) : Device :=
  d.tests.foldl (fun (d : Device) (x : UnitTest) => match x.unit with
    | .tile t =>
      if x.slice.isSome ∧ d.hotGroup (groupOf t) then
        (d.afterSlice t).setTest { x with
          slice := none
          lastSched := if x.passed = 0 then x.lastSched - BitVec.ofNat 48 (usHub (250000 * d.dtiS x.unit)) else x.lastSched }
      else d
    | .engine _ => d) d

/-- A die enters the emergency of R595 by sensor `s`. -/
def Device.emergency (d : Device) (s : Nat) (t : Int) : Device :=
  let k := sensorDie s
  if (nth d.pow.gov.heat k ⟨false, none⟩).emergency then d
  else
    let d := d.gov fun g => { g with heat := setAt g.heat k ⟨true, none⟩ }
    let d := d.gov fun g => { g with caps := g.caps.mapVals fun u c => if d.hotGroup (groupOf u) then 24 else c }
    let d := (d.activeJobs.filter JobRef.background).foldl (fun (d : Device) r => (d.dropSaved r.id).endWith r.id stCancelled) d
    let d := d.abandonSlices
    let d := d.notify stThermal srcSensor (BitVec.ofNat 16 s)
    d.event stThermal srcSensor (BitVec.ofNat 16 s)
      (BitVec.ofNat 112 (mkImage [(0, 8, s), (8, 8, (roundDiv t 64 % 256).toNat)]))

/-- The Lectern's safe state for temperature, and every switchable domain off (R596). -/
def Device.thermalStop (d : Device) (s : Nat) : Device :=
  let d := d.enterSafe .thermal stThermal (BitVec.ofNat 16 s)
  (d.event stThermal srcSensor (BitVec.ofNat 16 s) 0).shutdown

/-- JUNCTION_SENSOR_READ (R591, R595, R596): readings in 1/64 °C, two's complement, sensor 0 first. -/
def Device.readSensors (d : Device) (raw : List (BitVec 16)) : Device :=
  let rs := ((raw.take 144).zipIdx.map fun (e : BitVec 16 × Nat) => d.corrected e.2 e.1.toInt)
  let g := d.pow.gov
  let used := (rs.zipIdx.map fun (e : Int × Nat) => (e.2, e.1)).filter fun e => g.inUse e.1
  let hot := used.filter fun e => decide (6720 ≤ e.2)
  let hotSince : Tbl Time := hot.foldl (fun (t : Tbl Time) e => t.put e.1 (g.hotSince.getD e.1 d.hub)) []
  let cool (k : Nat) : Bool := (used.filter fun e => sensorDie e.1 == k).all fun e => decide (e.2 < (64 * g.limits.tjTarget : Nat))
  let heat := g.heat.zipIdx.map fun (e : DieHeat × Nat) =>
    { e.1 with coolSince := if cool e.2 then some (e.1.coolSince.getD d.hub) else none }
  let d := d.gov fun g => { g with sensors := rs, hotSince, heat }
  let d := hot.foldl (fun (d : Device) e => d.emergency e.1 e.2) d
  match used.find? fun e => decide (7040 ≤ e.2) with
  | some e => d.thermalStop e.1
  | none => d

def execJunctionSensorRead (now : Time) (readings : List (BitVec 16)) (s : State) : Host.Outcome State Fault Refusal :=
  s.onUp now fun d => d.readSensors readings

/-- THERMAL_HOLD_EXPIRY (R596): a sensor has read 105 °C or more for 100 ms without a break. -/
def execThermalHoldExpiry (now : Time) (s : State) : Host.Outcome State Fault Refusal :=
  s.onUp now fun d =>
    match d.pow.gov.hotSince.find? fun e => reached d.hub (addT e.2 (usHub 100000)) with
    | some e => d.thermalStop e.1
    | none => d

/-- THERMAL_RECOVERY (R595): every sensor of the die has read below TJ_TARGET for 1 ms. -/
def execThermalRecovery (now : Time) (die : Die) (s : State) : Host.Outcome State Fault Refusal :=
  s.onUp now fun d =>
    let k : Nat := match die with
      | .die0 => 0
      | .die1 => 1
      | .hub => 2
    let h := nth d.pow.gov.heat k ⟨false, none⟩
    if h.emergency ∧ h.coolSince.any fun t => reached d.hub (addT t (usHub 1000)) then
      d.gov fun g => { g with heat := setAt g.heat k { h with emergency := false } }
    else d

/-! ### Events and droop (R594, R597, R599) -/

/-- POWER_LIMIT_EVENT (R594): raised once. -/
def execPowerLimitEvent (now : Time) (s : State) : Host.Outcome State Fault Refusal :=
  s.onUp now fun d =>
    if !d.pow.gov.limitRaised ∧ d.pow.gov.limitSince.any fun t => reached d.hub (addT t (usHub 10000)) then
      (d.gov fun g => { g with limitRaised := true }).event stPowerLimit srcNone 0 0
    else d

/-- DROOP_DETECT (R597 to R599): the stretch changes no cycle count; the event is counted. -/
def execDroopDetect (now : Time) (_die : Die) (s : State) : Host.Outcome State Fault Refusal :=
  s.onUp now fun d => d.gov fun g => { g with droops := sat32 (g.droops + 1) }

/-! ### POWER_LIMIT and TELEMETRY (R589, R607, R608) -/

/-- Every field of a limit record lies in its range (R589). -/
def limitsOk (x : Image) : Bool :=
  let l := LimRec.limits x
  (70 ≤ l.tjTarget && l.tjTarget ≤ 105) && (30 ≤ l.pLimitW && l.pLimitW ≤ 280)
    && (l.iLimitMa == 0 || (500 ≤ l.iLimitMa && l.iLimitMa ≤ 12000)) && (1 ≤ l.margin && l.margin ≤ 20)
    && l.floors.all fun f => 300 ≤ f && f ≤ 900

def execPowerLimit (now : Time) (drawer : Fin 64) (s : State) : Host.Outcome State Fault Refusal :=
  s.drawerCommand now drawer 0x0701 fun d =>
    let x := d.params drawer % 2 ^ 256
    if !limitsOk x then d.fail drawer stConfig
    else (d.gov fun g => { g with limits := LimRec.limits x }).reply drawer stOk []

/-- LIMITING (R608): the highest of the limits that bind. -/
def Device.limiting (d : Device) : Nat :=
  let g := d.pow.gov
  let within (t : Option Time) : Bool := t.any fun t => decide (timeDiff d.hub t ≤ usHub 1000)
  if g.heat.any (·.emergency) then 4
  else if within g.lastHeat then 3
  else if !within g.lastOver then 0
  else if g.pEff < g.limits.pLimitW * 1000000 then 2
  else 1

/-- The hottest junction reading and its sensor: the first of several. -/
def Governor.hottest (g : Governor) : Option (Nat × Int) :=
  ((g.sensors.zipIdx.map fun (e : Int × Nat) => (e.2, e.1)).filter fun e => g.inUse e.1).foldl
    (fun (m : Option (Nat × Int)) e => match m with
      | some u => if u.2 < e.2 then some e else some u
      | none => some e) none

/-- A power in units of 10 mW, in 16 bits (R607). -/
def tenMw (p : Int) : Nat := min 65535 (roundDiv p 10000).toNat

/-- The telemetry record (R607). -/
def Device.telemetryRecord (d : Device) : Image :=
  let g := d.pow.gov
  let h := g.hottest.getD (0, 0)
  mkImage [(0, 16, tenMw g.p1ms), (16, 16, tenMw g.pPeak), (32, 16, g.vBatt.toNat), (48, 16, min 65535 g.iBatt),
    (64, 8, (roundDiv h.2 64 % 256).toNat), (72, 8, h.1), (80, 4, d.limiting), (96, 32, g.droops), (128, 32, g.limitedUs),
    (160, 32, sat32 (roundDiv d.pow.energy.ceNj 1000000).toNat), (192, 64, (roundDiv d.pow.energy.totalNj 1000000).toNat)]

/-- TELEMETRY (R607): the record as it stands; P_PEAK and LIMITED_US are then cleared. -/
def execTelemetry (now : Time) (drawer : Fin 64) (s : State) : Host.Outcome State Fault Refusal :=
  s.drawerCommand now drawer 0x0702 fun d =>
    (d.gov fun g => { g with pPeak := 0, limitedUs := 0 }).reply drawer stOk (natLE d.telemetryRecord 32)

end Sys2Proof.Machine
end

