-- ==== Sys2Proof/Machine/Jpeg.lean ====
section
/-!
DEFINITION. Baseline sequential JPEG (R273, R276): marker segments, Huffman decoding, restart intervals and the conversion to RGB,
as ISO/IEC 10918-1 and JFIF give them (PRESUMED, log entry 9). The inverse transform and the chroma interpolation, which neither
fixes, are free.
-/

namespace Sys2Proof.Machine

/-! ### Marker segments -/

/-- A component of SOF0: its id, sampling factors and quantisation table. -/
structure JpegComp where
  id : Nat
  h : Nat
  v : Nat
  tq : Nat
  deriving DecidableEq, Repr

/-- A Huffman table: its codes, each with its length, value and symbol. -/
abbrev Huff := List (Nat × Nat × Nat)

/-- What the marker segments have said so far. -/
structure JpegHead where
  size : Option (Nat × Nat)
  comps : List JpegComp
  /-- Quantisation tables, each in zigzag order. -/
  quant : List (Nat × List Nat)
  /-- Huffman tables by 16 × class + number; class 0 is DC, 1 is AC. -/
  huff : List (Nat × Huff)
  interval : Nat
  deriving DecidableEq, Repr

def JpegHead.none_ : JpegHead := { size := none, comps := [], quant := [], huff := [], interval := 0 }

/-- Two bytes, the high one first. -/
def be16 (b : Bytes) : Nat := (nth b 0 0).toNat * 256 + (nth b 1 0).toNat

/-- Canonical codes from the number of codes of each length (1 to 16) and the symbols. -/
def huffCodes : List Nat → Nat → Nat → List Nat → Huff
  | [], _, _, _ => []
  | n :: r, len, code, syms =>
    ((syms.take n).zipIdx.map fun s => (len, code + s.2, s.1)) ++ huffCodes r (len + 1) (2 * (code + n)) (syms.drop n)

/-- A DHT segment: the tables that it holds. -/
def dhtTables : Nat → Bytes → Option (List (Nat × Huff))
  | _, [] => some []
  | 0, _ => none
  | n + 1, t :: b =>
    let counts := (b.take 16).map (·.toNat)
    let total := counts.foldl (· + ·) 0
    let syms := ((b.drop 16).take total).map (·.toNat)
    if counts.length ≠ 16 ∨ syms.length ≠ total ∨ 1 < t.toNat / 16 ∨ 1 < t.toNat % 16 then none
    else (dhtTables n (b.drop (16 + total))).map fun r => r ++ [(t.toNat, huffCodes counts 1 0 syms)]

/-- A DQT segment: the tables that it holds, of 8-bit elements. -/
def dqtTables : Nat → Bytes → Option (List (Nat × List Nat))
  | _, [] => some []
  | 0, _ => none
  | n + 1, t :: b =>
    let q := (b.take 64).map (·.toNat)
    if q.length ≠ 64 ∨ 3 < t.toNat then none else (dqtTables n (b.drop 64)).map fun r => r ++ [(t.toNat, q)]

/-- An SOF0 segment: 8-bit samples and its components. -/
def sof0 (x : JpegHead) (b : Bytes) : Option JpegHead :=
  let n := (nth b 5 0).toNat
  let at_ (i : Nat) : Nat := (nth b i 0).toNat
  let comps := (List.range n).map fun k : Nat =>
    ({ id := at_ (6 + 3 * k), h := at_ (7 + 3 * k) / 16, v := at_ (7 + 3 * k) % 16, tq := at_ (8 + 3 * k) } : JpegComp)
  if at_ 0 ≠ 8 ∨ b.length ≠ 6 + 3 * n ∨ x.size.isSome ∨ comps.any fun c => c.h = 0 ∨ 4 < c.h ∨ c.v = 0 ∨ 4 < c.v then none
  else some { x with size := some (be16 (b.drop 3), be16 (b.drop 1)), comps }

/-- Takes one marker segment of R273 other than SOI, SOS, RSTn and EOI: `m` is the marker, `b` its contents. -/
def JpegHead.take (x : JpegHead) (m : Nat) (b : Bytes) : Option JpegHead :=
  if m = 0xC0 then sof0 x b
  else if m = 0xC4 then (dhtTables b.length b).map fun t => { x with huff := t ++ x.huff }
  else if m = 0xDB then (dqtTables b.length b).map fun t => { x with quant := t ++ x.quant }
  else if m = 0xDD then if b.length = 2 then some { x with interval := be16 b } else none
  else if m = 0xFE ∨ (0xE0 ≤ m ∧ m ≤ 0xEF) then some x
  else none

/-- Reads the segments up to the first that `stop` names: what they say, that segment, and the bytes after it. `n` bounds the
number of segments. -/
def jpegSegments (stop : Nat) : Nat → JpegHead → Bytes → Option (JpegHead × Bytes × Bytes)
  | 0, _, _ => none
  | n + 1, x, 0xFF :: m :: r =>
    if m = 0xFF then jpegSegments stop n x (m :: r)
    else
      let len := be16 r
      let b := (r.drop 2).take (len - 2)
      if len < 2 ∨ b.length ≠ len - 2 then none
      else if m.toNat = stop then some (x, b, r.drop len)
      else match x.take m.toNat b with
        | some y => jpegSegments stop n y (r.drop len)
        | none => none
  | _, _, _ => none

/-- The stream after SOI. -/
def jpegBody : Bytes → Option Bytes
  | 0xFF :: 0xD8 :: r => some r
  | _ => none

/-- The frame as its SOF0 gives it (R283), before any entropy-coded data is read. -/
def jpegFrame (b : Bytes) : Option JpegHead :=
  match jpegBody b with
  | none => none
  | some r =>
    -- everything before SOF0 is of the kinds that R273 names, and SOF0 itself is baseline
    match jpegSegments 0xC0 b.length JpegHead.none_ r with
    | none => none
    | some (x, s, _) => sof0 x s

/-- Components and sampling that a decoder takes (R273): one; or three in 4:4:4, 4:2:2 or 4:2:0. -/
def jpegSampling (colour : Bool) (s : List JpegComp) : Bool :=
  if colour then
    match s with
    | [y, u, v] =>
      u.h == v.h && u.v == v.v && y.h % u.h == 0 && y.v % u.v == 0 && decide (y.h * y.v + 2 * (u.h * u.v) ≤ 10)
        && [(1, 1), (2, 1), (2, 2)].contains (y.h / u.h, y.v / u.v)
    | _ => false
  else s.length == 1

/-! ### Entropy-coded data -/

/-- The entropy-coded data up to the next marker other than RSTn: its restart intervals, each but the first with the number of
the RSTn before it, and the bytes from that marker on. -/
def scanData : Nat → Bytes → Bytes → Option (List Bytes × List Nat × Bytes)
  | 0, _, _ => none
  | n + 1, acc, 0xFF :: m :: r =>
    if m = 0 then scanData n (0xFF :: acc) r
    else if m = 0xFF then scanData n acc (m :: r)
    else if 0xD0 ≤ m.toNat ∧ m.toNat ≤ 0xD7 then
      (scanData n [] r).map fun e => (acc.reverse :: e.1, (m.toNat - 0xD0) :: e.2.1, e.2.2)
    else some ([acc.reverse], [], 0xFF :: m :: r)
  | n + 1, acc, b :: r => if b = 0xFF then none else scanData n (b :: acc) r
  | _, _, [] => none

/-- The bits of a byte string, the high bit of each byte first. -/
def bitsOf (b : Bytes) : List Bool := b.flatMap fun x => (List.range 8).map fun i => x.getLsbD (7 - i)

/-- Decodes one symbol. -/
def huffRead (t : Huff) : Nat → Nat → Nat → List Bool → Option (Nat × List Bool)
  | 0, _, _, _ => none
  | _, _, _, [] => none
  | n + 1, len, code, b :: r =>
    let len := len + 1
    let code := 2 * code + b.toNat
    match t.find? fun e => e.1 == len && e.2.1 == code with
    | some e => some (e.2.2, r)
    | none => huffRead t n len code r

/-- Reads `n` bits as a magnitude, the high bit first, and extends its sign. -/
def receive (n : Nat) (b : List Bool) : Option (Int × List Bool) :=
  if b.length < n then none else
  let v : Nat := (b.take n).foldl (fun (a : Nat) (x : Bool) => 2 * a + x.toNat) 0
  some (if n = 0 then 0 else if v < 2 ^ (n - 1) then (v : Int) - 2 ^ n + 1 else v, b.drop n)

/-- The AC coefficients of a block in zigzag order, from position `k` on. -/
def acRead (t : Huff) : Nat → Nat → List Bool → Option (List (Nat × Int) × List Bool)
  | 0, k, b => if k = 64 then some ([], b) else none
  | n + 1, k, b =>
    if k = 64 then some ([], b) else
    match huffRead t 16 0 0 b with
    | none => none
    | some (rs, b) =>
      let run := rs / 16
      let size := rs % 16
      if size = 0 then
        if run = 0 then some ([], b) else if run = 15 ∧ k + 16 ≤ 64 then acRead t n (k + 16) b else none
      else if 10 < size ∨ 63 < k + run then none
      else match receive size b with
        | none => none
        | some (v, b) => (acRead t n (k + run + 1) b).map fun e => ((k + run, v) :: e.1, e.2)

/-- Row-major position of each zigzag index. -/
def zigzag : List Nat :=
  [0, 1, 8, 16, 9, 2, 3, 10, 17, 24, 32, 25, 18, 11, 4, 5, 12, 19, 26, 33, 40, 48, 41, 34, 27, 20, 13, 6, 7, 14, 21, 28]
    ++ [35, 42, 49, 56, 57, 50, 43, 36, 29, 22, 15, 23, 30, 37, 44, 51, 58, 59, 52, 45, 38, 31, 39, 46, 53, 60, 61, 54, 47, 55, 62, 63]

/-- A component of the scan: quantisation table, Huffman tables, blocks of an MCU. -/
structure ScanComp where
  quant : List Nat
  dc : Huff
  ac : Huff
  blocks : Nat
  deriving DecidableEq, Repr

/-- Decodes a block of a component whose last DC value is `pred`: the dequantised coefficients, row by row, the DC value, and the
bits left. -/
def blockRead (c : ScanComp) (pred : Int) (b : List Bool) : Option (List Int × Int × List Bool) :=
  match huffRead c.dc 16 0 0 b with
  | none => none
  | some (t, b) =>
    if 11 < t then none else
    match receive t b with
    | none => none
    | some (diff, b) => match acRead c.ac 63 1 b with
      | none => none
      | some (ac, b) =>
        let dc := pred + diff
        let zz (i : Nat) : Int := if i = 0 then dc else ((ac.find? fun e => e.1 == i).map (·.2)).getD 0
        some ((List.range 64).map (fun p => let i := zigzag.idxOf p
                                            zz i * nth c.quant i 0), dc, b)

/-- Decodes `n` blocks of a component. -/
def blocksRead (c : ScanComp) : Nat → Int → List Bool → Option (List (List Int) × Int × List Bool)
  | 0, pred, b => some ([], pred, b)
  | n + 1, pred, b => match blockRead c pred b with
    | none => none
    | some (x, dc, b) => (blocksRead c n dc b).map fun e => (x :: e.1, e.2)

/-- Decodes an MCU: the blocks of each component, and the components' DC values. -/
def mcuRead : List ScanComp → List Int → List Bool → Option (List (List (List Int)) × List Int × List Bool)
  | c :: cs, p :: ps, b => match blocksRead c c.blocks p b with
    | none => none
    | some (x, dc, b) => (mcuRead cs ps b).map fun e => (x :: e.1, dc :: e.2.1, e.2.2)
  | _, _, b => some ([], [], b)

/-- Decodes `n` MCUs. -/
def mcusRead (cs : List ScanComp) : Nat → List Int → List Bool → Option (List (List (List (List Int))) × List Bool)
  | 0, _, b => some ([], b)
  | n + 1, ps, b => match mcuRead cs ps b with
    | none => none
    | some (m, ps, b) => (mcusRead cs n ps b).map fun e => (m :: e.1, e.2)

/-- Decodes the restart intervals, each from a clean start (R276): `left` MCUs remain, `per` of them belong to one interval. An
interval that holds more than its MCUs, or that begins with another RSTn than the next in turn, cannot be decoded. -/
def intervalsRead (cs : List ScanComp) (per : Nat) : Nat → Nat → List Bytes → List Nat →
    Option (List (List (List (List Int))))
  | _, 0, [], _ => some []
  | k, left, i :: r, marks =>
    let n := if per = 0 then left else min per left
    match mcusRead cs n (List.replicate cs.length 0) (bitsOf i) with
    | none => none
    | some (ms, rest) =>
      if n = 0 ∨ 8 ≤ rest.length ∨ (marks.head?.any fun m => m != k % 8) ∨ (per = 0 ∧ !r.isEmpty) then none
      else (intervalsRead cs per (k + 1) (left - n) r marks.tail).map fun e => ms ++ e
  | _, _, [], _ => none

/-! ### The image -/

/-- The scan header names every component of the frame, in its order, with its tables (R273: one scan). -/
def JpegHead.scan (x : JpegHead) (b : Bytes) : Option (List ScanComp) :=
  let n := x.comps.length
  let at_ (i : Nat) : Nat := (nth b i 0).toNat
  if at_ 0 ≠ n ∨ b.length ≠ 4 + 2 * n ∨ at_ (1 + 2 * n) ≠ 0 ∨ at_ (2 + 2 * n) ≠ 63 ∨ at_ (3 + 2 * n) ≠ 0 then none
  else x.comps.zipIdx.mapM fun e =>
    let t := at_ (2 + 2 * e.2)
    if at_ (1 + 2 * e.2) ≠ e.1.id then none
    else match x.quant.find? fun q => q.1 == e.1.tq, x.huff.find? fun h => h.1 == t / 16, x.huff.find? fun h => h.1 == 16 + t % 16 with
      | some q, some dc, some ac =>
        some { quant := q.2, dc := dc.2, ac := ac.2, blocks := if n = 1 then 1 else e.1.h * e.1.v }
      | _, _, _ => none

/-- A sample from 0 to 255. -/
def toSample (n : Nat) : Nat := min 255 n

/-- A decoded component: its samples by row and column. -/
structure Plane where
  w : Nat
  h : Nat
  px : Nat → Nat → Nat

/-- The plane of component `k`, whose MCU is `h` × `v` blocks, in an image of `perRow` MCUs a row. -/
def planeOf (mcus : List (List (List (List Int)))) (perRow k h v w ht : Nat) : Plane :=
  { w, h := ht
    px := fun y x =>
      let m := nth mcus (y / (8 * v) * perRow + x / (8 * h)) []
      let blk := nth (nth m k []) (y / 8 % v * h + x / 8 % h) []
      toSample (Config.idct blk (y % 8 * 8 + x % 8)) }

/-- A chroma value at a position of the image, of a plane of one sample for `sx` × `sy` pixels. -/
def Plane.at_ (p : Plane) (sx sy y x : Nat) : Nat :=
  if sx = 1 ∧ sy = 1 then p.px y x else
  let near (n : Nat) (i : Nat) (d : Nat) : Nat := min (n - 1) (i + d - 1)
  toSample (Config.chroma (sx * 4 + sy) (y % sy * 4 + x % sx)
    ((List.range 9).map fun i => p.px (near p.h (y / sy) (i / 3)) (near p.w (x / sx) (i % 3))))

/-- YCbCr to RGB by the full-range equations of JFIF, rounded to integers from 0 to 255 (R273). -/
def ycc (y cb cr : Nat) : List Nat :=
  let clip (n : Int) : Nat := (max 0 (min 255 (roundDiv n 100000))).toNat
  let b : Int := (cb : Int) - 128
  let r : Int := (cr : Int) - 128
  let l : Int := 100000 * (y : Int)
  [clip (l + 140200 * r), clip (l - 34414 * b - 71414 * r), clip (l + 177200 * b)]

/-- The values of the decoded image, row by row, channels innermost. -/
def JpegHead.values (x : JpegHead) (w h : Nat) (mcus : List (List (List (List Int)))) : List Nat :=
  match x.comps with
  | [y, u, v] =>
    let row := ceilDiv w (8 * y.h)
    let sx := y.h / u.h
    let sy := y.v / u.v
    let py := planeOf mcus row 0 y.h y.v w h
    let pu := planeOf mcus row 1 u.h u.v (ceilDiv w sx) (ceilDiv h sy)
    let pv := planeOf mcus row 2 v.h v.v (ceilDiv w sx) (ceilDiv h sy)
    (List.range h).flatMap fun i => (List.range w).flatMap fun j => ycc (py.px i j) (pu.at_ sx sy i j) (pv.at_ sx sy i j)
  | _ =>
    let p := planeOf mcus (ceilDiv w 8) 0 1 1 w h
    (List.range h).flatMap fun i => (List.range w).map fun j => p.px i j

/-- MCUs of the image. -/
def JpegHead.mcus (x : JpegHead) (w h : Nat) : Nat :=
  match x.comps with
  | [y, _, _] => ceilDiv w (8 * y.h) * ceilDiv h (8 * y.v)
  | _ => ceilDiv w 8 * ceilDiv h 8

/-- Decodes a whole JPEG stream (R273, R276): width, height and values; none where it cannot be decoded, has no EOI, or holds other
data than its SOF0 tells. -/
def jpegDecode (b : Bytes) : Option (Nat × Nat × List Nat) :=
  match (jpegBody b).bind (jpegSegments 0xDA b.length JpegHead.none_) with
  | none => none
  | some (x, sos, r) => match x.size, x.scan sos, scanData r.length [] r with
    | some (w, h), some cs, some (intervals, marks, 0xFF :: 0xD9 :: _) =>
      (intervalsRead cs x.interval 0 (x.mcus w h) intervals marks).map fun ms => (w, h, x.values w h ms)
    | _, _, _ => none

end Sys2Proof.Machine
end

