-- ==== Sys2Proof/Machine/IngestImg.lean ====
section
/-!
DEFINITION. What Ingest computes of a sample's contents (R271, R272, R281, R282, R289 to R297): unpacking,
demosaic, regions, resizing, augmentation, normalisation, space-to-depth and the tensor's bytes. Resizing is one
operation, exact until it rounds once to FP32 (log entry 55).
-/

namespace Sys2Proof.Machine

/-! ### Decoders (R262, R271, R272) -/

/-- Data type that a decoder needs (R262); none for a value that names no decoder. -/
def decoderDt (k : Nat) : Option Nat := [0x2A, 0x2B, 0x2C, 0x2D, 0x2E, 0x2F, 0x1E, 0x24, 0x36, 0x36, 0x35, 0x35][k]?

def StreamDesc.isRaw (x : Image) : Bool := StreamDesc.decoder x ≤ 5
def StreamDesc.isBayer (x : Image) : Bool := StreamDesc.isRaw x && StreamDesc.cfa x != 4
def StreamDesc.isJpeg (x : Image) : Bool := StreamDesc.decoder x == 8 || StreamDesc.decoder x == 9
def StreamDesc.isList (x : Image) : Bool := StreamDesc.decoder x == 0xA
def StreamDesc.isDepth (x : Image) : Bool := StreamDesc.decoder x == 0xB
/-- A frame stream: its samples lie between Frame Start and Frame End (R266). -/
def StreamDesc.isFrame (x : Image) : Bool := StreamDesc.decoder x ≤ 7

/-- Output channels before regrouping (R262); a point list is counted with its widest layout. -/
def StreamDesc.channels (x : Image) : Nat :=
  if StreamDesc.isRaw x then (if StreamDesc.cfa x = 4 then 1 else 3)
  else if StreamDesc.decoder x = 8 ∨ StreamDesc.isDepth x then 1 else if StreamDesc.isList x then 4 else 3

/-- Bits of a pixel on the wire: RAWn, YUV422 and RGB888. -/
def StreamDesc.pixelBits (x : Image) : Nat := nth [8, 10, 12, 14, 16, 20, 16, 24] (StreamDesc.decoder x) 8

/-- RAW10 packing: four high bytes, then their low two bits (PRESUMED from the CSI-2 specification that R271 names, as
are the other packings; log entry 56). -/
def unpack10 : Bytes → List Nat
  | a :: b :: c :: e :: l :: r =>
    [a.toNat * 4 + fld l.toNat 1 0, b.toNat * 4 + fld l.toNat 3 2, c.toNat * 4 + fld l.toNat 5 4,
     e.toNat * 4 + fld l.toNat 7 6] ++ unpack10 r
  | _ => []

def unpack12 : Bytes → List Nat
  | a :: b :: l :: r => [a.toNat * 16 + fld l.toNat 3 0, b.toNat * 16 + fld l.toNat 7 4] ++ unpack12 r
  | _ => []

def unpack14 : Bytes → List Nat
  | a :: b :: c :: e :: x :: y :: z :: r =>
    let l := leNat [x, y, z]
    [a.toNat * 64 + fld l 5 0, b.toNat * 64 + fld l 11 6, c.toNat * 64 + fld l 17 12, e.toNat * 64 + fld l 23 18] ++ unpack14 r
  | _ => []

def unpack16 : Bytes → List Nat
  | a :: b :: r => (a.toNat * 256 + b.toNat) :: unpack16 r
  | _ => []

/-- Two 10-bit halves make one 20-bit pixel. -/
def pairs10 : List Nat → List Nat
  | a :: b :: r => (a * 1024 + b) :: pairs10 r
  | _ => []

/-- U, Y, V, Y: Y, U, V of the two pixels (R272). -/
def unpackYuv : Bytes → List Nat
  | u :: y :: v :: z :: r => [y.toNat, u.toNat, v.toNat, z.toNat, u.toNat, v.toNat] ++ unpackYuv r
  | _ => []

/-- B, G, R: R, G, B of a pixel. -/
def unpackRgb : Bytes → List Nat
  | b :: g :: r :: t => [r.toNat, g.toNat, b.toNat] ++ unpackRgb t
  | _ => []

/-- The values of a line (R271, R272): one per RAW pixel, three per YUV or RGB pixel. -/
def unpackLine (decoder : Nat) (b : Bytes) : List Nat :=
  match decoder with
  | 0 => b.map (·.toNat)
  | 1 => unpack10 b
  | 2 => unpack12 b
  | 3 => unpack14 b
  | 4 => unpack16 b
  | 5 => pairs10 (unpack10 b)
  | 6 => unpackYuv b
  | _ => unpackRgb b

/-- An image: width, height, channels, its values scaled by 2^exp. -/
structure Img where
  w : Nat
  h : Nat
  c : Nat
  exp : Int
  px : Nat → Nat → Nat → Nat

/-- A coordinate moved into 0 to n - 1 (replicated borders). -/
def clampTo (n : Nat) (i : Int) : Nat := (max 0 (min i ((n : Int) - 1))).toNat

/-- The colour of a Bayer position (R260): 0 R, 1 G, 2 B. -/
def cfaColour (cfa : Nat) (y x : Int) : Nat :=
  let i := (y % 2 * 2 + x % 2).toNat
  nth (nth [[0, 1, 1, 2], [1, 0, 2, 1], [1, 2, 0, 1], [2, 1, 1, 0]] cfa []) i 0

/-- Demosaic (R271): a missing colour is the mean of that colour in the 3 × 3 neighbourhood, to nearest even; border
pixels are replicated. -/
def demosaic (cfa w h : Nat) (raw : Nat → Nat → Nat) (y x c : Nat) : Nat :=
  if cfaColour cfa y x = c then raw y x
  else
    let vs := [(-1, -1), (-1, 0), (-1, 1), (0, -1), (0, 1), (1, -1), (1, 0), (1, 1)].filterMap fun (e : Int × Int) =>
      if cfaColour cfa (y + e.1) (x + e.2) = c then some (raw (clampTo h (y + e.1)) (clampTo w (x + e.2))) else none
    (roundDiv (vs.foldl (· + ·) 0 : Nat) vs.length).toNat

/-- The image of an uncompressed frame. -/
def frameImg (x : Image) (rows : List (List Nat)) : Img :=
  let w := StreamDesc.srcWidth x
  let h := StreamDesc.srcHeight x
  let at_ (y i : Nat) : Nat := nth (nth rows y []) i 0
  if StreamDesc.isBayer x then { w, h, c := 3, exp := 0, px := demosaic (StreamDesc.cfa x) w h at_ }
  else if StreamDesc.isRaw x then { w, h, c := 1, exp := 0, px := fun y i _ => at_ y i }
  else { w, h, c := 3, exp := 0, px := fun y i c => at_ y (3 * i + c) }

/-- An image from its values row by row, channels innermost. -/
def flatImg (w h c : Nat) (exp : Int) (vs : List Nat) : Img :=
  { w, h, c, exp, px := fun y x k => nth vs ((y * w + x) * c + k) 0 }

/-! ### Regions (R289) -/

/-- A region clipped, cut to the largest size, and rounded down to multiples of f; none when it is left empty. -/
def Region.fit (r : Region) (w h maxW maxH f : Nat) : Option Region :=
  let x0 := min r.x0 w
  let x1 := min r.x1 w
  let y0 := min r.y0 h
  let y1 := min r.y1 h
  if x1 ≤ x0 ∨ y1 ≤ y0 then none
  else
    let bw := min (x1 - x0) maxW
    let bh := min (y1 - y0) maxH
    let a := min (x0 + (x1 - x0 - bw) / 2) (w - bw)
    let b := min (y0 + (y1 - y0 - bh) / 2) (h - bh)
    let cw := bw / f * f
    let ch := bh / f * f
    if cw = 0 ∨ ch = 0 then none else some { x0 := a, y0 := b, x1 := a + cw, y1 := b + ch }

/-! ### Resizing (R291) -/

/-- The taps of one output position on one axis: source index and weight; the weights add up to `tapSum`. -/
def boxOf (src out : Nat) : Nat := if 2 * out < src then src / out else 1
def tapSum (src out : Nat) : Nat := 2 * out * boxOf src out * boxOf src out

def taps (src out u : Nat) : List (Nat × Nat) :=
  let k := boxOf src out
  let den := 2 * out * k
  let num : Int := ((2 * u + 1) * src : Nat) - ((out * k : Nat) : Int)
  let i0 := num / (den : Int)
  let r := (num % (den : Int)).toNat
  let boxes := ceilDiv src k
  let box (j : Int) (wt : Nat) : List (Nat × Nat) :=
    (List.range k).map fun t => (min (clampTo boxes j * k + t) (src - 1), wt)
  box i0 (den - r) ++ box (i0 + 1) r

/-- An exact quotient, times 2^e, rounded once to FP32. -/
def ratioF32 (n m : Nat) (e : Int) : F32 := f32r (FVal.div (.fin false n e) (.fin false m 0))

/-- A source value with the window shifted and its borders replicated (R292 step 1). -/
def Img.shifted (g : Img) (jx jy : Int) (y x c : Nat) : Nat := g.px (clampTo g.h (y + jy)) (clampTo g.w (x + jx)) c

/-- Value of the resized, shifted image (R291). -/
def Img.resized (g : Img) (jx jy : Int) (ow oh : Nat) (y x c : Nat) : F32 :=
  let total := (taps g.h oh y).foldl (fun a ty =>
    a + ty.2 * (taps g.w ow x).foldl (fun b tx => b + tx.2 * g.shifted jx jy ty.1 tx.1 c) 0) 0
  ratioF32 total (tapSum g.h oh * tapSum g.w ow) g.exp

/-- Value of a region part at full resolution (R290, R292). -/
def Img.cut (g : Img) (jx jy : Int) (r : Region) (y x c : Nat) : F32 :=
  F32.ofDyadic (g.px (clampTo g.h (r.y0 + y + jy)) (clampTo g.w (r.x0 + x + jx)) c) g.exp

/-! ### Augmentation and normalisation (R292 to R295) -/

/-- The identity record (R294). -/
def augIdentity : Image := mkImage [(128, 16, 0x3F80), (144, 16, 0x3F80), (160, 16, 0x3F80)]

def augGain (a : Image) (c : Nat) : F32 := if c < 3 then AugRec.gain a c else f32One
def augOffset (a : Image) (c : Nat) : F32 := if c < 3 then AugRec.offset a c else 0

/-- R292 step 3, by output position: where the pixel (y, x) of the turned part comes from. -/
def unturn (a : Image) (w h : Nat) (p : Nat × Nat) : Nat × Nat :=
  let q : Nat × Nat := match AugRec.rot a with
    | 1 => (h - 1 - p.2, p.1)
    | 2 => (h - 1 - p.1, w - 1 - p.2)
    | 3 => (p.2, w - 1 - p.1)
    | _ => p
  let q := if AugRec.vflip a then (h - 1 - q.1, q.2) else q
  if AugRec.hflip a then (q.1, w - 1 - q.2) else q

/-- R292 step 4. -/
def normalise (x a : Image) (c : Nat) (v : F32) : F32 :=
  F32.add (F32.mul (F32.mul (F32.sub v (StreamDesc.mean x c)) (StreamDesc.invStd x c)) (augGain a c)) (augOffset a c)

/-- The FP32 values of a part, (y, x, channel) with channels innermost, after R292 and R296. -/
def partValues (x a : Image) (w h ch : Nat) (v : Nat → Nat → Nat → F32) : List F32 :=
  let f := StreamDesc.s2d x
  let at_ (y i c : Nat) : F32 := let q := unturn a w h (y, i)
                                 normalise x a c (v q.1 q.2 c)
  (List.range (h / f)).flatMap fun y => (List.range (w / f)).flatMap fun i =>
    (List.range (ch * f * f)).map fun k =>
      let c := k % ch
      let t := k / ch
      at_ (y * f + t / f) (i * f + t % f) c

/-! ### Tensor write (R297) -/

/-- A value as INT8: divided by the scale, rounded and saturated (R49, R297). -/
def int8Code (s v : F32) : Nat :=
  match FVal.div (f32v v) (f32v s) with
  | .nan => 0
  | .inf neg => intCode 8 (if neg then -128 else 127)
  | q => intCode 8 (satInt 8 ((FVal.toInt q).getD 0))

/-- Consecutive blocks of 32 values. -/
def blocks32 : Nat → List F32 → List (List F32)
  | 0, _ => []
  | n + 1, l => l.take 32 :: blocks32 n (l.drop 32)

/-- The bytes of a tensor in OUT_FMT; an MX tensor's scale plane follows its element plane (log entry 57). -/
def tensorBytes (x : Image) (vs : List F32) : Bytes :=
  match StreamDesc.outFmt x with
  | 7 => vs.map fun v => BitVec.ofNat 8 (int8Code (StreamDesc.int8Scale x) v)
  | 3 =>
    let bs := (blocks32 (vs.length / 32) vs).map (mxBlock .mxfp8e4m3 none)
    (bs.flatMap fun b => b.2.map fun e => BitVec.ofNat 8 e) ++ bs.map fun b => BitVec.ofNat 8 b.1
  | 8 => vs.flatMap fun v => natLE (convert .bf16 none v).1 2
  | 9 => vs.flatMap fun v => natLE (convert .fp16 none v).1 2
  | _ => vs.flatMap fun (v : F32) => natLE v.toNat 4

/-- Bytes of a tensor of `n` elements. -/
def tensorSize (x : Image) (n : Nat) : Nat :=
  match StreamDesc.outFmt x with
  | 7 => n
  | 3 => n + n / 32
  | 8 | 9 => 2 * n
  | _ => 4 * n

/-- The largest tensor that a descriptor allows (R263). -/
def StreamDesc.largest (x : Image) : Nat :=
  if StreamDesc.isList x then tensorSize x (StreamDesc.maxPoints x * 4)
  else
    let c := StreamDesc.channels x
    let whole := tensorSize x (StreamDesc.outWidth x * StreamDesc.outHeight x * c)
    if StreamDesc.roiSrc x = 0 then whole
    else max whole (tensorSize x (StreamDesc.roiMaxW x * StreamDesc.roiMaxH x * c))

/-! ### The blanking test (R668, R669) -/

/-- A row of a test pattern from its 64 outputs: the low bits that the pixel width needs, as values of the decoder's
line; a YUV pixel takes its luma above its colour difference, an RGB pixel R, G and B from the lowest bit (log entry
47). -/
def testRowOf (x : Image) (ws : List Nat) : List Nat :=
  let ws := ws.map fun w => w % 2 ^ StreamDesc.pixelBits x
  if StreamDesc.isRaw x then ws
  else if StreamDesc.decoder x = 6 then
    (List.range 64).flatMap fun i => [nth ws i 0 / 256, nth ws (i / 2 * 2) 0 % 256, nth ws (i / 2 * 2 + 1) 0 % 256]
  else ws.flatMap fun w => [fld w 7 0, fld w 15 8, fld w 23 16]

/-- The expected CRC-32 of a test pattern (R669), which the Bureau computes at STREAM_BIND: the frame of 64 × 16 pixels
goes through the stream's own decoder, resizing to 32 × 8, normalisation, regrouping and conversion. -/
def testCrc (x : Image) (p : Nat) : BitVec 32 :=
  let y := x / 2 ^ 96 * 2 ^ 96 + x % 2 ^ 64 + 64 * 2 ^ 64 + 16 * 2 ^ 80
  let ws := (lfsrOutputs p 1024).map (·.toNat)
  let g := frameImg y ((List.range 16).map fun r => testRowOf x ((ws.drop (64 * r)).take 64))
  crc32 (tensorBytes x (partValues x augIdentity 32 8 g.c (g.resized 0 0 32 8)))

end Sys2Proof.Machine
end

