-- ==== Sys2Proof/Machine/Ingest.lean ====
section
/-!
DEFINITION. Samples, slots, records and aligned groups (R257 to R314), and the input tests (R668 to R673).
-/

namespace Sys2Proof.Machine

/-! ### Streams and samples -/

def Device.stream (d : Device) (tag : BitVec 12) : Option Stream := d.ing.streams.find tag.toNat
def Device.setStream (d : Device) (tag : BitVec 12) (x : Stream) : Device :=
  { d with ing := { d.ing with streams := d.ing.streams.put tag.toNat x } }

/-- A stream with its first binding pending. -/
def Stream.fresh : Stream :=
  { desc := none, pending := none, samples := [], batches := [], lastFrame := none, frameNo := 0, fsTime := none,
    frameCount := 0, avg := 0, completed := 0, nextSlot := 0, posted := [], errorCounts := [], roi := none, lastTableSeq := none, dropSeq := none,
    testPattern := none, abandoned := 0, overdueTold := false, withholdNext := false }

/-- The sample whose packets are arriving. -/
def Stream.arriving (x : Stream) : Option Sample := x.samples.find? fun s => s.stage != .ended && !s.whole

/-- The sample in progress with a sequence number. -/
def Stream.live (x : Stream) (seq : BitVec 32) : Option Sample := x.samples.find? fun s => s.stage != .ended && s.seq == seq

def Stream.putSample (x : Stream) (s : Sample) : Stream :=
  { x with samples := x.samples.map fun q => if q.stage != .ended && q.seq == s.seq then s else q }

/-- Error entries are counted in the stream's counters (R306). -/
def Stream.countErrors (x : Stream) (es : List SampleError) : Stream :=
  { x with errorCounts := es.foldl (fun (t : Tbl Nat) e => t.put e.status.toNat (t.getD e.status.toNat 0 + 1)) x.errorCounts }

/-- The partition of the job that consumes a stream. -/
def Device.descPart (d : Device) (x : Image) : Nat := ((d.streamDest x).map fun r => r.1.part).getD 0

/-! ### Batches (R301, R304 to R306) -/

/-- A new sample belongs to the open batch, or opens one (R304); a batch takes BATCH samples. -/
def Stream.join (x : Stream) (now : Time) (desc : Image) (seq : BitVec 32) : Stream :=
  match x.batches.findIdx? fun b => !b.closed && decide (b.taken < StreamDesc.batch b.desc) with
  | some i => { x with batches := x.batches.modify i fun b => { b with taken := b.taken + 1, members := b.members ++ [seq] } }
  | none => { x with batches := x.batches ++ [{ opened := now, desc, taken := 1, members := [seq], descs := [], errors := [],
                                                windowExpired := false, closed := false, closeTime := 0 }] }

/-- Changes the open batch of a sample. -/
def Stream.inBatch (x : Stream) (seq : BitVec 32) (f : Batch → Batch) : Stream :=
  { x with batches := x.batches.map fun b => if !b.closed && b.members.contains seq then f b else b }

/-- BATCH samples of the batch have completed or failed (R304). -/
def Stream.batchDone (x : Stream) (b : Batch) : Bool :=
  decide (StreamDesc.batch b.desc ≤ b.taken)
    && b.members.all fun q => x.samples.all fun s => s.seq != q || s.stage == .ended

/-- The record names at least one slot (R306). -/
def Batch.names (b : Batch) : Bool := !b.descs.isEmpty || b.errors.any fun e => e.slot.isSome

/-- A batch leaves the stream, with its samples. -/
def Stream.dropBatch (x : Stream) (b : Batch) : Stream :=
  { x with batches := x.batches.erase b
           samples := x.samples.filter fun s => !(s.stage == .ended && b.members.contains s.seq) }

/-- Closes the batches that a test picks; a record that would name no slot is not posted (R306). -/
def Stream.closeIf (x : Stream) (t : Batch → Time) (p : Batch → Bool) : Stream :=
  let x := { x with batches := x.batches.map fun (b : Batch) =>
    if !b.closed && p b then { b with closed := true, closeTime := t b } else b }
  (x.batches.filter fun (b : Batch) => b.closed && !b.names).foldl Stream.dropBatch x

/-- After a change: full batches close, an unbound stream that holds nothing more goes, and a stream without a sample
of the old epoch acknowledges a mode change (R264, R304, R570). -/
def Device.settleStream (d : Device) (tag : BitVec 12) : Device :=
  match d.stream tag with
  | none => d
  | some x =>
    let y := x.closeIf (fun b => d.counter (0x10 + StreamDesc.port b.desc)) x.batchDone
    let gone := y.desc.isNone && y.pending.isNone && y.samples.isEmpty && y.batches.isEmpty
    let d := if gone then { d with ing := { d.ing with streams := d.ing.streams.del tag.toNat } } else d.setStream tag y
    if y.samples.all fun s => s.epoch == (d.part (d.descPart s.desc)).epoch then (d.ackStream tag).finishModes else d

/-! ### The end of a sample -/

/-- A decoder that works on the sample, or its place in the queue, becomes free (R277, R287). -/
def Device.releaseDecoder (d : Device) (tag : BitVec 12) (seq : BitVec 32) : Device :=
  { d with ing := { d.ing with
      queue := d.ing.queue.filter fun q => q != (tag, seq)
      decoders := d.ing.decoders.map fun q => if q == some (tag, seq) then none else q } }

/-- A sample fails with its error entries (R303, R305). -/
def Device.endSample (d : Device) (tag : BitVec 12) (s : Sample) (es : List SampleError) : Device :=
  match d.stream tag with
  | none => d
  | some x =>
    let x := (x.putSample { s with stage := .ended, bytes := [], rows := [], points := [] }).inBatch s.seq fun b =>
      { b with errors := b.errors ++ es }
    let x := x.countErrors es
    let x := if s.whole || StreamDesc.isFrame s.desc then x else { x with dropSeq := some s.seq }
    let d := (d.setStream tag x).releaseDecoder tag s.seq
    let d := if s.grouped then d.failMember tag s.seq else d
    d.settleStream tag

/-- A sample fails at a stage; the slots it has taken stay named (R303). -/
def Device.failSample (d : Device) (tag : BitVec 12) (seq : BitVec 32) (stage : Nat) (st : Status) : Device :=
  match (d.stream tag).bind fun x => x.live seq with
  | none => d
  | some s =>
    d.endSample tag s (if s.parts.isEmpty then [⟨seq, 0, stage, st, none⟩]
      else s.parts.map fun p => ⟨seq, p.part, stage, st, some p.slot⟩)

/-- A failed input test withholds the sample and tells the Lectern (R307). -/
def Device.withholdSample (d : Device) (tag : BitVec 12) (seq : BitVec 32) : Device :=
  (d.failSample tag seq 2 stInputTest).notify stInputTest srcStream (tag.setWidth 16)

/-! ### Aligned groups (R309 to R312, R749) -/

/-- Counter cycles of a port in 1 µs (R352). -/
def portUs : Nat := 250

/-- The time of a member in the group's reference domain, its timing offset taken off. -/
def Device.memberTime (d : Device) (g : Group) (x : Image) (fs : Time) : Option Time :=
  let a := 0x10 + StreamDesc.port x
  let b := 0x10 + GroupRec.refPort g.record
  (if a = b then some fs else d.convertTime a b fs).map fun t => t - BitVec.ofInt 48 (d.timingOffset (StreamDesc.tag x))

def GroupInstance.full (i : GroupInstance) (members : Nat) : Bool :=
  (List.range 8).all fun p => !bitAt members p || i.members.any fun m => m.pos == p

/-- Distance of a time from t₀, and whether it fits the window (R309). -/
def GroupInstance.fits (i : GroupInstance) (t : Time) (win : Nat) : Bool :=
  decide (2 * (timeDiff t i.t0).natAbs ≤ win * portUs)
def GroupInstance.before (i : GroupInstance) (t : Time) (win : Nat) : Bool :=
  decide (2 * timeDiff t i.t0 < -((win * portUs : Nat) : Int))

/-- A member frame takes its place (R309 to R312): the group, and whether the frame is listed or late. -/
def Group.place (g : Group) (m : GroupMember) : Group × Bool × Bool :=
  let win := GroupRec.window g.record
  let members := GroupRec.members g.record
  let has (i : GroupInstance) : Bool := i.members.any fun q => q.pos == m.pos
  let opened (l : List GroupInstance) : Group :=
    let i : GroupInstance := { t0 := m.t, members := [m], closed := false, expired := false }
    { g with instances := l ++ [{ i with closed := i.full members }] }
  match g.instances.findIdx? fun i => !i.closed && i.fits m.t win && !has i with
  | some k => ({ g with instances := g.instances.modify k fun i =>
      let i : GroupInstance := { i with members := i.members ++ [m] }
      { i with closed := i.full members } }, true, false)
  | none =>
    if g.instances.any fun i => !i.closed && has i && !i.before m.t win then
      (opened (g.instances.map fun (i : GroupInstance) =>
        if !i.closed && has i && !i.before m.t win then { i with closed := true } else i), true, false)
    else if g.instances.any fun i => !i.closed && i.before m.t win then (g, false, true)
    else (opened g.instances, true, false)

/-- The sample of a grouped stream joins its group. -/
def Device.joinGroup (d : Device) (x : Image) (s : Sample) : Device × Sample :=
  match d.ing.groups.find (StreamDesc.group x) with
  | none => (d, s)
  | some g =>
    if !StreamDesc.grouped x || !bitAt (GroupRec.members g.record) (StreamDesc.member x) then (d, s)
    else match d.memberTime g x s.fsTime with
    | none => (d, s)
    | some t =>
      let (g, listed, late) := g.place { pos := StreamDesc.member x, seq := s.seq, tag := BitVec.ofNat 12 (StreamDesc.tag x),
                                         t, failed := false }
      ({ d with ing := { d.ing with groups := d.ing.groups.put (StreamDesc.group x) g } },
        { s with grouped := listed, lateMember := late })

/-! ### The start of a sample (R264, R266 to R269, R288) -/

/-- A pending binding or unbinding takes effect (R264). -/
def Stream.applyPending (x : Stream) : Stream :=
  match x.pending with
  | none => x
  | some none => { x with desc := none, pending := none, roi := none, testPattern := none, dropSeq := none }
  | some (some y) =>
    let moved : Bool := match x.desc with
      | some o => StreamDesc.destRef o != StreamDesc.destRef y
      | none => true
    let x := if x.desc.isNone then { x with lastFrame := none, frameCount := 0 } else x
    let x := { x with desc := some y, pending := none, avg := 0, completed := 0 }
    if moved then { x with nextSlot := 0, posted := x.posted.put (StreamDesc.destRef y) 0 } else x

/-- A sample passes stage 1 (R257, R304): it opens under the descriptor in force. -/
def Device.openSample (d : Device) (tag : BitVec 12) (desc : Image) (seq : BitVec 32) (fs : Time) : Device :=
  match d.stream tag with
  | none => d
  | some x =>
    let table := match x.roi with
      | some t => if StreamDesc.roiSrc desc ≠ 0 ∧ 0 < t.frames then t.regions else []
      | none => []
    let x := { x with roi := x.roi.map fun (t : RoiTable) => { t with frames := t.frames - 1 }
                      fsTime := none, dropSeq := none }
    let s : Sample := { seq, fsTime := fs, desc, epoch := (d.part (d.descPart desc)).epoch, stage := .gathering, bytes := [],
                        rows := [], points := [], pointsSeen := 0, header := 0, packets := 0, whole := false,
                        dims := (StreamDesc.srcWidth desc, StreamDesc.srcHeight desc), parts := [], regions := table,
                        augMissing := false, aug := augIdentity, withhold := x.withholdNext, testLine := none,
                        grouped := false, lateMember := false }
    let (d, s) := d.joinGroup desc s
    let x := ({ x with withholdNext := false, samples := x.samples ++ [s] }).join d.hub desc seq
    let d := d.setStream tag x
    if s.withhold then d.failSample tag seq 2 stInputTest else d

/-! ### Stage 4 and the slots (R283, R290, R293 to R298) -/

/-- The parts of a sample: the whole frame, then one for each remaining region (R289, R290). -/
def Sample.partsOf (s : Sample) : List (Nat × Region) :=
  let x := s.desc
  let (w, h) := s.dims
  let rs := s.regions.filterMap fun r => r.fit w h (StreamDesc.roiMaxW x) (StreamDesc.roiMaxH x) (StreamDesc.s2d x)
  (0, { x0 := 0, y0 := 0, x1 := w, y1 := h }) :: rs.zipIdx.map fun e => (e.2 + 1, e.1)

/-- The augmentation record that a sample uses, and AUG_MISSING (R293, R294); none where its bytes are poisoned (R632). -/
def Device.augFor (d : Device) (r : JobRef) (dest : Image) (s : Sample) : Device × Option (Image × Bool) :=
  if !StreamDesc.augEn s.desc then (d, some (augIdentity, false))
  else if DestRec.augRing dest = 0 ∨ DestRec.augRecords dest = 0 then (d, some (augIdentity, true))
  else
    let at_ := DestRec.augRing dest + 32 * (s.seq.toNat % DestRec.augRecords dest)
    let (d, bad) := d.hubRead r.part at_ 32
    let a := leNat (d.readView r.part at_ 32)
    (d, if bad then none
        else some (if AugRec.seq a = s.seq.toNat ∧ AugRec.tag a = StreamDesc.tag s.desc then (a, false) else (augIdentity, true)))

/-- R295: what makes a matching augmentation record fail its sample. -/
def augBad (s : Sample) (a : Image) : Bool :=
  let (w, h) := s.dims
  let square (p : Nat × Region) : Bool :=
    if p.1 = 0 then StreamDesc.outWidth s.desc == StreamDesc.outHeight s.desc
    else p.2.x1 - p.2.x0 == p.2.y1 - p.2.y0
  (List.range 3).any (fun c => !F32.isFinite (AugRec.gain a c) || !F32.isFinite (AugRec.offset a c))
    || !rsvdZero a AugRec.rsvd || (AugRec.rot a % 2 == 1 && s.partsOf.any fun p => !square p)
    || decide (w < 2 * (AugRec.jitX a).natAbs) || decide (h < 2 * (AugRec.jitY a).natAbs)

/-- Takes one slot with TRY 1 on FREE_HOOK (R298). -/
def Device.takeSlot (d : Device) (tag : BitVec 12) (dest : Image) : Device × Option Nat :=
  match d.tryHook (DestRec.freeHook dest) 1, d.stream tag with
  | (e, true), some x =>
    (e.setStream tag { x with nextSlot := (x.nextSlot + 1) % max 1 (DestRec.slots dest) }, some x.nextSlot)
  | _, _ => (d, none)

/-- Each part takes its own slot, in part order (R290). -/
def Device.takeParts (d : Device) (tag : BitVec 12) (dest : Image) : List (Nat × Region) → Device × List Part × List Nat
  | [] => (d, [], [])
  | (k, r) :: rest =>
    match d.takeSlot tag dest with
    | (e, some slot) => let (d', ps, bad) := e.takeParts tag dest rest
                        (d', ⟨k, slot, r⟩ :: ps, bad)
    | (e, none) => let (d', ps, bad) := e.takeParts tag dest rest
                   (d', ps, k :: bad)

/-- Stage 4 has passed its limits: the augmentation record is read and checked, and the slots are taken. A sample whose record is
poisoned fails with ST_UNCORRECTABLE (R632, R820; DEDUCED, log entry 26). -/
def Device.stage4 (d : Device) (tag : BitVec 12) (seq : BitVec 32) : Device :=
  match (d.stream tag).bind fun x => x.live seq with
  | none => d
  | some s => match d.streamDest s.desc with
    | none => d.failSample tag seq 4 stLimit
    | some (r, dest) =>
      match d.augFor r dest s with
      | (d, none) => d.failSample tag seq 4 stUncorrectable
      | (d, some (a, missing)) =>
      if augBad s a then d.failSample tag seq 4 stLimit
      else
        let (d, ps, bad) := d.takeParts tag dest s.partsOf
        let es : List SampleError := bad.map fun k => ⟨seq, k, 8, stOverrun, none⟩
        let s := { s with parts := ps, aug := a, augMissing := missing }
        if ps.isEmpty then d.endSample tag s es
        else match d.stream tag with
          | some x => d.setStream tag (((x.putSample s).inBatch seq fun b => { b with errors := b.errors ++ es }).countErrors es)
          | none => d

/-- Changes a sample in progress. -/
def Device.modSample (d : Device) (tag : BitVec 12) (seq : BitVec 32) (f : Sample → Sample) : Device :=
  match d.stream tag with
  | some x => match x.live seq with
    | some s => d.setStream tag (x.putSample (f s))
    | none => d
  | none => d

/-- A JPEG or Bayer sample enters the decoders' common queue (R277). -/
def Device.enqueue (d : Device) (tag : BitVec 12) (seq : BitVec 32) : Device :=
  match (d.stream tag).bind fun x => x.live seq with
  | none => d
  | some _ =>
    if d.ing.queue.length ≥ 64 then d.failSample tag seq 3 stOverrun
    else { d.modSample tag seq (fun s => { s with stage := .queued }) with
      ing := { (d.modSample tag seq fun s => { s with stage := .queued }).ing with queue := d.ing.queue ++ [(tag, seq)] } }

/-! ### Packets of frames (R266, R277, R283) -/

/-- The streams with a data type among those bound on a port and virtual channel. -/
def Device.streamsOn (d : Device) (port vc : Nat) (p : Image → Bool) : List (BitVec 12) :=
  d.ing.streams.filterMap fun e => match e.2.boundDesc with
    | some x => if StreamDesc.port x = port ∧ StreamDesc.vc x = vc ∧ p x then some (BitVec.ofNat 12 e.1) else none
    | none => none

/-- R268: the 16-bit frame number extended by its wraps; number 0 is counted from 1. -/
def Stream.number (x : Stream) (n : Nat) : BitVec 32 :=
  if n = 0 then BitVec.ofNat 32 (x.frameCount + 1)
  else match x.lastFrame with
    | none => BitVec.ofNat 32 n
    | some l =>
      let wraps := l.toNat / 65536
      BitVec.ofNat 32 ((if n ≤ l.toNat % 65536 then wraps + 1 else wraps) * 65536 + n)

/-- A test frame that has not cleared the core is abandoned (R671). -/
def Device.abandonTest (d : Device) (tag : BitVec 12) : Device :=
  match d.stream tag with
  | none => d
  | some x =>
    if x.testPattern.isNone then d else
    let n := x.abandoned + 1
    let tell := decide (64 ≤ n) && !x.overdueTold
    let d := d.setStream tag { x with testPattern := none, abandoned := n, overdueTold := x.overdueTold || tell }
    if tell then d.notify stTestOverdue srcStream (tag.setWidth 16) else d

/-- A Frame Start on a frame stream. A frame whose identifier a sample in progress still has is dropped (log entry 64). -/
def Device.frameStart (d : Device) (tag : BitVec 12) (n : Nat) (t : Time) : Device :=
  let d := match (d.stream tag).bind Stream.arriving with
    | some s => d.failSample tag s.seq 3 stCorrupt
    | none => d
  let d := d.abandonTest tag
  match d.stream tag with
  | none => d
  | some x =>
    let d := d.setStream tag x.applyPending
    match d.stream tag with
    | none => d
    | some x => match x.desc with
      | none => d.settleStream tag
      | some desc =>
        if !d.engineOk .ingestCore then d
        else
          let seq := x.number n
          let d := d.setStream tag { x with lastFrame := some seq, frameNo := BitVec.ofNat 16 n, frameCount := x.frameCount + 1 }
          if (x.live seq).isSome then d else d.openSample tag desc seq t

/-- FRAME_START (R266, R264, R671). -/
def execFrameStart (now : Time) (p : ShortPkt) (s : State) : Host.Outcome State Fault Refusal :=
  s.onUp now fun d =>
    if !d.inPowered p.port.val ∨ p.dt ≠ 0 then d else
    match (d.portAt (0x10 + p.port.val) p.portTime).header p.port p.ecc with
    | (d, false) => d
    | (d, true) =>
      let users := d.streamsOn p.port.val p.vc.toNat fun x => !StreamDesc.isFrame x
      let d := users.foldl (fun (d : Device) tag => match d.stream tag with
        | some x => d.setStream tag { x with fsTime := some p.portTime }
        | none => d) d
      let frames := d.streamsOn p.port.val p.vc.toNat StreamDesc.isFrame
      (frames.foldl (fun (d : Device) tag => d.frameStart tag p.data.toNat p.portTime) d).settleDomains

/-- A Frame End on a frame stream: the line count and the test line are checked, and the test frame is injected. A Frame End whose
number is not that of the stream's last Frame Start matches no frame (R266). -/
def Device.frameEnd (d : Device) (tag : BitVec 12) (n : BitVec 16) : Device :=
  if !((d.stream tag).any fun x => x.frameNo == n) then d else
  let d := match (d.stream tag).bind Stream.arriving with
    | none => d
    | some s =>
      let d := d.modSample tag s.seq fun s => { s with whole := true }
      if StreamDesc.testLines s.desc ∧ s.testLine.isNone then d.withholdSample tag s.seq
      else if s.rows.length ≠ StreamDesc.srcHeight s.desc then d.failSample tag s.seq 3 stCorrupt
      else d
  match d.stream tag with
  | some x => match x.desc, x.lastFrame with
    | some _, some l =>
      if d.engineOk .ingestCore then
        d.setStream tag { x with testPattern := some ⟨l.toNat % 16, Nat.mod_lt _ (by decide)⟩ }
      else d
    | _, _ => d
  | none => d

/-- FRAME_END (R266, R668, R673). -/
def execFrameEnd (now : Time) (p : ShortPkt) (s : State) : Host.Outcome State Fault Refusal :=
  s.onUp now fun d =>
    if !d.inPowered p.port.val ∨ p.dt ≠ 1 then d else
    match (d.portAt (0x10 + p.port.val) p.portTime).header p.port p.ecc with
    | (d, false) => d
    | (d, true) =>
      (d.streamsOn p.port.val p.vc.toNat StreamDesc.isFrame).foldl (fun (d : Device) tag => d.frameEnd tag p.data) d

/-- Lines of queued Bayer frames that wait in the core's line buffer of a port (R277). -/
def Device.linesWaiting (d : Device) (port : Nat) : Nat :=
  d.ing.streams.foldl (fun n e => e.2.samples.foldl (fun n (s : Sample) =>
    if s.stage = .queued ∧ StreamDesc.isFrame s.desc ∧ StreamDesc.port s.desc = port then n + s.rows.length else n) n) 0

/-- A line of a frame (R266, R277, R283). -/
def Device.frameLine (d : Device) (tag : BitVec 12) (s : Sample) (b : Bytes) : Device :=
  let x := s.desc
  let fits := b.length * 8 = StreamDesc.srcWidth x * StreamDesc.pixelBits x
  let push (d : Device) : Device :=
    d.modSample tag s.seq fun s => { s with rows := s.rows ++ [unpackLine (StreamDesc.decoder x) b] }
  let full (d : Device) : Device :=
    if ((d.stream tag).bind fun y => y.live s.seq).any (fun s => s.stage == .queued) ∧ 64 ≤ d.linesWaiting (StreamDesc.port x) then
      d.failSample tag s.seq 3 stOverrun
    else d
  if s.rows.isEmpty then
    if !fits then d.failSample tag s.seq 4 stLimit
    else
      let d := (push d).stage4 tag s.seq
      if StreamDesc.isBayer x then full (d.enqueue tag s.seq)
      else d.modSample tag s.seq fun s => { s with stage := .decoding }
  else if !fits ∨ StreamDesc.srcHeight x ≤ s.rows.length then d.failSample tag s.seq 3 stCorrupt
  else full (push d)

/-- Data types of packets that the other rows take. -/
def otherDt (dt : Nat) : Bool := dt == 0x12 || (0x33 ≤ dt && dt ≤ 0x37)

/-- IMAGE_LINE_PACKET (R259, R266, R283). -/
def execImageLinePacket (now : Time) (p : Pkt) (s : State) : Host.Outcome State Fault Refusal :=
  s.onUp now fun d =>
    if otherDt p.dt.toNat then d else
    let tags := d.streamsOn p.port.val p.vc.toNat fun x => StreamDesc.isFrame x && StreamDesc.dt x == p.dt.toNat
    match d.arrive p with
    | (d, .gone) => d
    | (d, .badHeader ..) => d
    | (d, .badCrc) => tags.foldl (fun (d : Device) t => match (d.stream t).bind Stream.arriving with
      | some s => d.failSample t s.seq 3 stCorrupt
      | none => d) d
    | (d, .ok _) =>
      -- a binding that is not in force yet matches nothing (R264, R265)
      if tags.all fun t => ((d.stream t).bind fun x => x.desc).isNone then d.countUnbound p.port
      else tags.foldl (fun (d : Device) t => match (d.stream t).bind Stream.arriving with
        | some s => d.frameLine t s p.payload
        | none => d) d

/-- EMBEDDED_DATA_PACKET (R673): the first packet of data type 0x12 of a frame against the signature of its stream. -/
def execEmbeddedDataPacket (now : Time) (p : Pkt) (s : State) : Host.Outcome State Fault Refusal :=
  s.onUp now fun d =>
    if p.dt ≠ 0x12 then d else
    match d.arrive p with
    | (d, .ok _) =>
      let tags := d.streamsOn p.port.val p.vc.toNat StreamDesc.isFrame
      tags.foldl (fun (d : Device) t => match (d.stream t).bind Stream.arriving with
        | some s =>
          if !StreamDesc.testLines s.desc ∨ s.testLine.isSome then d else
          let c := crc32 p.payload
          let d := d.modSample t s.seq fun s => { s with testLine := some c }
          if d.testLine t.toNat = some c then d else d.withholdSample t s.seq
        | none => d) d
    | (d, _) => d

/-! ### Packets of JPEG and point samples (R267, R274, R275, R278 to R283) -/

/-- The stream that a packet of data type 0x35 or 0x36 names. -/
def Device.userStream (d : Device) (p : Pkt) (h : Image) : Option (BitVec 12) :=
  (d.streamsOn p.port.val p.vc.toNat fun x =>
    !StreamDesc.isFrame x && StreamDesc.dt x == p.dt.toNat && StreamDesc.tag x == StrHdr.tag h).head?

/-- A sample of data type 0x35 or 0x36 starts, with a pending binding taking effect first (R264). -/
def Device.startUser (d : Device) (tag : BitVec 12) (seq : BitVec 32) (port : Fin 12) (t : Time) :
    Device × Option (BitVec 32) :=
  match d.stream tag with
  | none => (d, none)
  | some x =>
    let x := x.applyPending
    let d := d.setStream tag x
    match x.desc with
    | none => ((d.countUnbound port).settleStream tag, none)
    | some desc =>
      if !d.engineOk .ingestCore ∨ (x.live seq).isSome then (d, none)
      else (d.openSample tag desc seq (x.fsTime.getD t), some seq)

/-- The sample of a packet: the arriving one, or a new one; a change of sequence number fails the arriving one (R267).
None: the packet is dropped. -/
def Device.packetSample (d : Device) (tag : BitVec 12) (h : Image) (port : Fin 12) (t : Time) : Device × Option (BitVec 32) :=
  let seq := BitVec.ofNat 32 (StrHdr.seq h)
  match d.stream tag with
  | none => (d, none)
  | some x =>
    if x.dropSeq = some seq then
      (if StrHdr.isPartial h then d else d.setStream tag { x with dropSeq := none }, none)
    else match x.arriving with
    | some s => if s.seq = seq then (d, some seq) else (d.failSample tag s.seq 3 stCorrupt).startUser tag seq port t
    | none => d.startUser tag seq port t

/-- The last packet of a sample has come. -/
def Device.markWhole (d : Device) (tag : BitVec 12) (seq : BitVec 32) (h : Image) : Device :=
  if StrHdr.isPartial h then d else d.modSample tag seq fun s => { s with whole := true }

/-- A JPEG sample that is whole reaches stage 4 with its SOF0 (R273, R283), then the queue. -/
def Device.jpegWhole (d : Device) (tag : BitVec 12) (s : Sample) : Device :=
  let x := s.desc
  match (jpegFrame s.bytes).bind fun f => f.size.map fun z => (f, z) with
  | none => d.failSample tag s.seq 3 stCorrupt
  | some (f, w, h) =>
    if !jpegSampling (StreamDesc.decoder x == 9) f.comps ∨ w = 0 ∨ h = 0 then d.failSample tag s.seq 3 stCorrupt
    else if StreamDesc.srcWidth x < w ∨ StreamDesc.srcHeight x < h then d.failSample tag s.seq 4 stLimit
    else
      let d := (d.modSample tag s.seq fun s => { s with dims := (w, h) }).stage4 tag s.seq
      d.enqueue tag s.seq

/-- A packet of a JPEG sample (R274, R275). -/
def Device.jpegData (d : Device) (tag : BitVec 12) (seq : BitVec 32) (h : Image) (payload : Bytes) : Device :=
  let d := d.markWhole tag seq h
  match (d.stream tag).bind fun x => x.live seq with
  | none => d
  | some s =>
    let c := imageAt payload 16 16
    let data := payload.drop 32
    if payload.length < 33 ∨ fld c 127 48 ≠ 0 ∨ fld c 47 0 ≠ s.bytes.length then d.failSample tag seq 3 stCorrupt
    else if StreamDesc.maxBytes s.desc < s.bytes.length + data.length then d.failSample tag seq 4 stLimit
    else
      let s := { s with bytes := s.bytes ++ data }
      let d := d.modSample tag seq fun _ => s
      if s.whole then d.jpegWhole tag s else d

/-- What the port makes of a packet of data type 0x35 or 0x36, and its sample: `f` handles an accepted packet. -/
def Device.userPacket (d : Device) (p : Pkt) (f : Device → BitVec 12 → BitVec 32 → Image → Device) : Device :=
  match d.arrive p with
  | (d, .gone) => d
  | (d, .badCrc) => d
  | (d, .badHeader h _) => match d.userStream p h with
    | none => d
    | some tag => match d.packetSample tag h p.port p.portTime with
      | (d, some seq) => (d.markWhole tag seq h).failSample tag seq 3 stCorrupt
      | (d, none) => d
  | (d, .ok h) => match d.userStream p h with
    | none => d.countUnbound p.port
    | some tag => match d.packetSample tag h p.port p.portTime with
      | (d, some seq) => f d tag seq h
      | (d, none) => d

/-- JPEG_PACKET (R267, R274, R275). -/
def execJpegPacket (now : Time) (p : Pkt) (s : State) : Host.Outcome State Fault Refusal :=
  s.onUp now fun d =>
    if p.dt ≠ 0x36 then d else (d.userPacket p fun d tag seq h => d.jpegData tag seq h p.payload).settleDomains

/-- Bytes of a point (R279); none for a value that names no layout. -/
def pointSize (layout : Nat) : Option Nat := [6, 8, 12, 2][layout]?

/-- A point with a return as FP32 values (R279, R281); none without a return. -/
def pointValues (layout : Nat) (e : Int) (b : Bytes) : Option (List F32) :=
  let w := if layout = 2 then 4 else 2
  let co (k : Nat) : Int := signedOf (8 * w) (imageAt b (w * k) w)
  if imageAt b 0 w = 2 ^ (8 * w - 1) then none
  else some ((List.range 3).map (fun k => F32.ofDyadic (co k) e) ++ if layout = 1 then [F32.ofInt (imageAt b 6 2)] else [])

/-- A packet of points (R278 to R283). Depths are kept scaled by 2^128, so that packets of different scales share one
image. -/
def Device.pointData (d : Device) (tag : BitVec 12) (seq : BitVec 32) (h : Image) (payload : Bytes) : Device :=
  let d := d.markWhole tag seq h
  match (d.stream tag).bind fun x => x.live seq with
  | none => d
  | some s =>
    let x := s.desc
    let g := imageAt payload 16 16
    let layout := fld g 23 16
    let total := fld g 63 32
    let n := fld g 111 96
    let e := sfld g 119 112
    let size := (pointSize layout).getD 0
    let first := s.packets = 0
    let ok := 32 ≤ payload.length ∧ size ≠ 0 ∧ payload.length = 32 + n * size ∧ fld g 15 0 = 1
      ∧ 0 < n ∧ fld g 95 64 = s.pointsSeen ∧ (first ∨ (fld s.header 23 16 = layout ∧ fld s.header 63 32 = total))
      ∧ (layout = 3) = (StreamDesc.isDepth x = true) ∧ (!s.whole ∨ s.pointsSeen + n = total)
    if !ok then d.failSample tag seq 3 stCorrupt
    else if StreamDesc.isList x ∧ (StreamDesc.maxPoints x < total
        ∨ StreamDesc.maxBytes x < total * size + 32 * (s.packets + 1)) then d.failSample tag seq 4 stLimit
    else if StreamDesc.isDepth x ∧ total ≠ StreamDesc.srcWidth x * StreamDesc.srcHeight x then d.failSample tag seq 4 stLimit
    else
      let pts := (List.range n).map fun i => slice payload (32 + size * i) size
      let d := d.modSample tag seq fun s =>
        { s with stage := .decoding, header := if first then g else s.header, packets := s.packets + 1,
                 pointsSeen := s.pointsSeen + n
                 points := if StreamDesc.isList x then s.points ++ pts.filterMap (pointValues layout e) else s.points
                 rows := if StreamDesc.isDepth x then s.rows ++ [pts.map fun b => leNat b * 2 ^ (e + 128).toNat] else s.rows }
      if first then d.stage4 tag seq else d

/-- POINT_PACKET (R267, R280). -/
def execPointPacket (now : Time) (p : Pkt) (s : State) : Host.Outcome State Fault Refusal :=
  s.onUp now fun d =>
    if p.dt ≠ 0x35 then d else (d.userPacket p fun d tag seq h => d.pointData tag seq h p.payload).settleDomains

/-! ### Decoders (R273, R277, R285 to R287) -/

/-- DECODER_TAKE (R277): a free decoder takes the head of the queue. -/
def execDecoderTake (now : Time) (dec : Fin 2) (s : State) : Host.Outcome State Fault Refusal :=
  s.onUp now fun d =>
    match d.ing.queue with
    | [] => d
    | (tag, seq) :: rest =>
      if nth d.ing.decoders dec.val none ≠ none ∨ !d.engineFree (.decoder dec) then d
      else
        let d := { d with ing := { d.ing with queue := rest, decoders := setAt d.ing.decoders dec.val (some (tag, seq)) } }
        d.modSample tag seq fun s => { s with stage := .decoding }

/-- The cap of a stream's samples (R286). -/
def Stream.cap (x : Stream) (desc : Image) : Nat :=
  let m := if StreamDesc.capMult desc = 0 then 8 else StreamDesc.capMult desc
  if x.completed < 16 then StreamDesc.workMax desc else min (m * x.avg) (StreamDesc.workMax desc)

/-- The image of a sample; none where it cannot be decoded (R276). -/
def Sample.image (s : Sample) : Option Img :=
  let x := s.desc
  if StreamDesc.isFrame x then some (frameImg x s.rows)
  else if StreamDesc.isDepth x then some (flatImg s.dims.1 s.dims.2 1 (-128) s.rows.flatten)
  else match jpegDecode s.bytes with
    | some (w, h, vs) => if (w, h) = s.dims then some (flatImg w h (StreamDesc.channels x) 0 vs) else none
    | none => none

/-- Writes a tensor into a slot of its destination (R297, R619, R742). -/
def Device.writeTensor (d : Device) (r : JobRef) (dest : Image) (slot : Nat) (bs : Bytes) : Device :=
  if DestRec.kind dest = 0 then
    let ids := progTileIds r.plan.bytes (DestRec.programRef dest)
    let p := roundUp (ceilDiv (DestRec.slotBytes dest) ids.length) 32
    ids.zipIdx.foldl (fun (d : Device) (e : Nat × Nat) => match d.serving e.1 with
      | some t => d.setTile t ((d.tile t).putStore (DestRec.storeAddr dest * 32 + slot * p) (slice bs (e.2 * p) p))
      | none => d) d
  else
    let a := DestRec.slotBase dest + slot * DestRec.slotStride dest
    let n := roundUp bs.length 256
    let d := d.writeViewBytes r.part a (bs ++ List.replicate (n - bs.length) 0)
    let d := (List.range (n / 256)).foldl (fun (d : Device) i => match d.viewPhys r.part (a + 256 * i) with
      | some y => d.wroteLine y
      | none => d) d
    d.cacheTouch r.part a n (if DestRec.kind dest = 1 then 2 else 1) true

/-- The sample descriptor of a part (R302). -/
def sampleDesc (s : Sample) (p : Part) (w h ch points : Nat) : SampleDesc :=
  mkImage [(0, 32, s.seq.toNat), (32, 16, StreamDesc.tag s.desc), (48, 5, p.part), (56, 1, s.augMissing.toNat),
    (57, 1, s.grouped.toNat), (58, 1, s.lateMember.toNat), (64, 48, s.fsTime.toNat), (112, 16, s.epoch.toNat), (128, 16, w),
    (144, 16, h), (160, 16, ch), (176, 16, p.slot), (192, 24, points),
    (224, 16, if p.part = 0 then 0 else p.region.x0), (240, 16, if p.part = 0 then 0 else p.region.y0)]

/-- The values of a point list (R281, R292 step 4). -/
def Sample.listValues (s : Sample) (ch : Nat) : List F32 :=
  let x := s.desc
  let vs := s.points.flatMap fun (q : List F32) => q.zipIdx.map fun (e : F32 × Nat) => normalise x augIdentity e.2 e.1
  vs ++ List.replicate (StreamDesc.maxPoints x * ch - vs.length) 0

/-- The tensor and the descriptor of each part of a completed sample (R290 to R297). -/
def Device.writeParts (d : Device) (r : JobRef) (dest : Image) (s : Sample) (g : Option Img) : Device × List SampleDesc :=
  let x := s.desc
  let f := StreamDesc.s2d x
  let d := d.bump
  s.parts.foldl (fun (a : Device × List SampleDesc) (p : Part) =>
    match g with
    | none =>
      let ch := if fld s.header 23 16 = 1 then 4 else 3
      let rows := StreamDesc.maxPoints x
      let h := if rows < 65536 then rows else (Config.freeWord d.clk.nonce 0).toNat
      (a.1.writeTensor r dest p.slot (tensorBytes x (s.listValues ch)), a.2 ++ [sampleDesc s p 0 h ch s.points.length])
    | some g =>
      let jx := AugRec.jitX s.aug
      let jy := AugRec.jitY s.aug
      let w := if p.part = 0 then StreamDesc.outWidth x else p.region.x1 - p.region.x0
      let h := if p.part = 0 then StreamDesc.outHeight x else p.region.y1 - p.region.y0
      let v := if p.part = 0 then g.resized jx jy w h else g.cut jx jy p.region
      (a.1.writeTensor r dest p.slot (tensorBytes x (partValues x s.aug w h g.c v)),
        a.2 ++ [sampleDesc s p (w / f) (h / f) (g.c * f * f) 0])) (d, [])

/-- A sample completes: its tensors are written, its descriptors join the batch, and the average takes its work (R285). -/
def Device.completeSample (d : Device) (tag : BitVec 12) (s : Sample) (g : Option Img) (work : Nat) : Device :=
  match d.streamDest s.desc with
  | none => d.failSample tag s.seq 8 stOverrun
  | some (r, dest) =>
    let (d, ds) := d.writeParts r dest s g
    match d.stream tag with
    | none => d
    | some x =>
      let x := (x.putSample { s with stage := .ended, bytes := [], rows := [], points := [] }).inBatch s.seq fun b =>
        { b with descs := b.descs ++ ds }
      let a := ((x.avg : Int) + Int.tdiv ((work : Int) - x.avg) 16).toNat
      ((d.setStream tag { x with avg := a, completed := x.completed + 1 }).releaseDecoder tag s.seq).settleStream tag

/-- DECODE_DONE (R276, R285): the decode of a whole sample ends with `work` cycles spent on it. -/
def execDecodeDone (now : Time) (tag : BitVec 12) (seq : BitVec 32) (work : Nat) (s : State) : Host.Outcome State Fault Refusal :=
  s.onUp now fun d =>
    match d.stream tag with
    | none => d
    | some x => match x.live seq with
      | none => d
      | some s =>
        if s.stage ≠ .decoding ∨ !s.whole then d
        else if x.cap s.desc ≤ work then d.failSample tag seq 3 stTimeout
        else if StreamDesc.isList s.desc then d.completeSample tag s none work
        else match s.image with
          | none => d.failSample tag seq 3 stCorrupt
          | some g => d.completeSample tag s (some g) work

/-- WORK_CAP_REACHED (R287). -/
def execWorkCapReached (now : Time) (tag : BitVec 12) (seq : BitVec 32) (s : State) : Host.Outcome State Fault Refusal :=
  s.onUp now fun d =>
    match (d.stream tag).bind fun x => x.live seq with
    | some s => if s.stage = .decoding then d.failSample tag seq 3 stTimeout else d
    | none => d

/-! ### Records (R301 to R306) -/

/-- An error entry (R303). -/
def SampleError.bytes (e : SampleError) (tag : Nat) : Bytes :=
  natLE (mkImage [(0, 32, e.seq.toNat), (32, 16, tag), (48, 5, e.part), (56, 4, e.stage), (64, 16, e.status.toNat),
    (80, 16, e.slot.getD 0xFFFF)]) 16

/-- A record (R301). -/
def Batch.bytes (b : Batch) (tag : Nat) : Bytes :=
  natLE (mkImage [(0, 4, 1), (16, 16, tag), (32, 16, b.descs.length), (48, 16, b.errors.length), (64, 48, b.closeTime.toNat),
    (112, 1, b.windowExpired.toNat)]) 32
    ++ b.descs.flatMap (fun x => natLE x 32) ++ b.errors.flatMap fun e => e.bytes tag

/-- Posts the first closed record of a stream and signals DESC_HOOK by 1 (R306). -/
def Device.postRecord (d : Device) (tag : BitVec 12) : Device :=
  match d.stream tag with
  | none => d
  | some x => match x.batches.find? (·.closed) with
    | none => d
    | some b =>
      let d := (d.setStream tag (x.dropBatch b))
      let d := match d.streamDest b.desc with
        | none => d
        | some (r, dest) =>
          let k := StreamDesc.destRef b.desc
          let n := x.posted.getD k 0
          let d := d.writeLines r.part (ringAt (DestRec.recRing dest) (max 1 (DestRec.slots dest)) 12320 n) (b.bytes tag.toNat)
          let d := match d.stream tag with
            | some y => d.setStream tag { y with posted := y.posted.put k (n + 1) }
            | none => d
          d.signalHook (.ingest tag) (DestRec.descHook dest) 1
      d.settleStream tag

/-- RECORD_POST (R306). -/
def execRecordPost (now : Time) (tag : BitVec 12) (s : State) : Host.Outcome State Fault Refusal :=
  s.onUp now fun d => d.postRecord tag

/-- BATCH_WINDOW_EXPIRY (R304): every batch whose window has passed closes, and its samples still in progress are cancelled with
ST_LATE, at stage 3 (DESIGN CHOICE, log entry 64). -/
def execBatchWindowExpiry (now : Time) (tag : BitVec 12) (s : State) : Host.Outcome State Fault Refusal :=
  s.onUp now fun d =>
    match d.stream tag with
    | none => d
    | some x =>
      let due (b : Batch) : Bool := !b.closed && reached d.hub (addT b.opened (usHub (StreamDesc.batchWindow b.desc)))
      let late (b : Batch) : Batch := if due b then { b with windowExpired := true, taken := StreamDesc.batch b.desc } else b
      if !x.batches.any due then d else
      let d := d.setStream tag { x with batches := x.batches.map late }
      let d := (x.batches.filter due).foldl (fun (d : Device) b =>
        b.members.foldl (fun (d : Device) q => d.failSample tag q 3 stLate) d) d
      d.settleStream tag

/-! ### Group records (R311, R313, R314) -/

/-- GROUP_WINDOW_EXPIRY (R311): the reference counter has reached t₀ + WINDOW. -/
def execGroupWindowExpiry (now : Time) (group : Fin 8) (s : State) : Host.Outcome State Fault Refusal :=
  s.onUp now fun d =>
    match d.ing.groups.find group.val with
    | none => d
    | some g =>
      let c := d.counter (0x10 + GroupRec.refPort g.record)
      let due (i : GroupInstance) : Bool := !i.closed && reached c (addT i.t0 (GroupRec.window g.record * portUs))
      let mark (i : GroupInstance) : GroupInstance := if due i then { i with closed := true, expired := true } else i
      let g := { g with instances := g.instances.map mark }
      { d with ing := { d.ing with groups := d.ing.groups.put group.val g } }

/-- A group record (R313). -/
def GroupInstance.bytes (i : GroupInstance) (group : Nat) (seq : BitVec 32) (members : Nat) : Bytes :=
  let at_ (p : Nat) : Option GroupMember := i.members.find? fun m => m.pos == p && !m.failed
  let present := (List.range 8).foldl (fun n p => if (at_ p).isSome then n + 2 ^ p else n) 0
  natLE (mkImage [(0, 32, seq.toNat), (32, 3, group), (48, 8, present), (56, 8, members - present), (64, 48, i.t0.toNat),
    (112, 1, i.expired.toNat)]) 32
    ++ (List.range 8).flatMap fun p => match at_ p with
      | some m => natLE (mkImage [(0, 32, m.seq.toNat), (32, 16, m.tag.toNat), (64, 48, m.t.toNat)]) 16
      | none => List.replicate 16 0

/-- Every member frame that the record lists has posted its own record (R314): its sample has left its stream. -/
def Device.membersPosted (d : Device) (i : GroupInstance) : Bool :=
  i.members.all fun m => m.failed || match d.stream m.tag with
    | some x => x.samples.all fun s => s.seq != m.seq
    | none => true

/-- The partition whose view holds a group's ring: that of the job that its GROUP_HOOK is allocated to. -/
def Device.hookPart (d : Device) (h : Nat) : Option Nat :=
  (d.hooks.alloc.find h).bind fun a => match a.job with
    | some j => (d.job j).map JobRef.part
    | none => (List.range 8).find? fun p => (d.part p).active == some a.plan

/-- GROUP_RECORD_POST (R313, R314). -/
def execGroupRecordPost (now : Time) (group : Fin 8) (s : State) : Host.Outcome State Fault Refusal :=
  s.onUp now fun d =>
    match d.ing.groups.find group.val with
    | none => d
    | some g => match g.instances.find? fun i => i.closed && d.membersPosted i with
      | none => d
      | some i =>
        let next : Group := { g with seq := g.seq + 1, instances := g.instances.erase i }
        let d := { d with ing := { d.ing with groups := d.ing.groups.put group.val next } }
        match d.hookPart (GroupRec.hook g.record) with
        | none => d
        | some p =>
          let d := d.writeLines p (ringAt (GroupRec.ring g.record) 64 160 g.seq.toNat)
            (i.bytes group.val g.seq (GroupRec.members g.record))
          d.signalHook (.ingest 0) (GroupRec.hook g.record) 1

/-! ### The blanking test (R669, R670) -/

/-- TEST_FRAME_COMPARE (R669, R670): `crc` is the CRC-32 of what reached the tensor writer. -/
def execTestFrameCompare (now : Time) (tag : BitVec 12) (crc : BitVec 32) (s : State) : Host.Outcome State Fault Refusal :=
  s.onUp now fun d =>
    match d.stream tag with
    | none => d
    | some x => match x.testPattern, x.desc with
      | some p, some desc =>
        let d := d.setStream tag { x with testPattern := none, abandoned := 0 }
        if crc = testCrc desc p.val then
          (match d.stream tag with
           | some y => d.setStream tag { y with overdueTold := false }
           | none => d).notifyAgain stTestOverdue srcStream (tag.setWidth 16)
        else
          (match d.stream tag with
           | some y => d.setStream tag { y with withholdNext := true }
           | none => d).notify stInputTest srcStream (tag.setWidth 16)
      | _, _ => d

end Sys2Proof.Machine
end

