-- ==== Sys2Proof/Machine/IngestBind.lean ====
section
/-!
DEFINITION. Bindings and groups: STREAM_BIND, STREAM_UNBIND, OUT_BIND and GROUP_SET (R260 to R265, R308, R577, R620,
R778, R779, R787).
-/

namespace Sys2Proof.Machine

/-- A finite BF16 or FP32 value that stands above zero. -/
def F32.positive (x : F32) : Bool := F32.isFinite x && F32.lt 0 x

/-- R260, R263: every field lies inside its range. -/
def StreamDesc.rangesOk (x : Image) : Bool :=
  decide (StreamDesc.port x ≤ 11)
    && (decide (StreamDesc.vc x ≤ 15) || Config.strapPhy (StreamDesc.port x))
    && decide (StreamDesc.tag x ≤ 4095)
    && (if StreamDesc.isRaw x then decide (StreamDesc.cfa x ≤ 4) else StreamDesc.cfa x == 0)
    && decide (StreamDesc.roiSrc x ≤ 2) && decide (1 ≤ StreamDesc.roiHold x)
    && decide (16 ≤ StreamDesc.srcWidth x) && decide (StreamDesc.srcWidth x ≤ 8192)
    && decide (1 ≤ StreamDesc.srcHeight x) && decide (StreamDesc.srcHeight x ≤ 8192)
    && (!StreamDesc.isList x || (decide (1 ≤ StreamDesc.maxPoints x) && decide (StreamDesc.maxPoints x ≤ 1048576)))
    && decide (StreamDesc.maxBytes x ≤ 67108864) && decide (1 ≤ StreamDesc.workMax x) && StreamDesc.capMult x != 1
    && [3, 7, 8, 9, 10].contains (StreamDesc.outFmt x)
    && decide (1 ≤ StreamDesc.batch x) && decide (StreamDesc.batch x ≤ 256) && decide (1 ≤ StreamDesc.batchWindow x)

/-- R263: the resized size is between a sixteenth and twice the source size, and every size a multiple of f. -/
def StreamDesc.sizesOk (x : Image) : Bool :=
  let f := StreamDesc.s2d x
  let near (src out : Nat) : Bool := decide (src ≤ 16 * out) && decide (out ≤ 2 * src)
  [StreamDesc.outWidth x, StreamDesc.outHeight x, StreamDesc.roiMaxW x, StreamDesc.roiMaxH x].all (fun n => n % f == 0)
    && if StreamDesc.isList x then
      StreamDesc.roiSrc x == 0 && !StreamDesc.augEn x && f == 1 && StreamDesc.outWidth x == 0 && StreamDesc.outHeight x == 0
    else near (StreamDesc.srcWidth x) (StreamDesc.outWidth x) && near (StreamDesc.srcHeight x) (StreamDesc.outHeight x)

/-- R263: the numbers of the descriptor, and the conditions that tie fields to one another. -/
def StreamDesc.fieldsOk (x : Image) : Bool :=
  let f := StreamDesc.s2d x
  (StreamDesc.outFmt x != 3 || StreamDesc.channels x * f * f % 32 == 0)
    && (StreamDesc.roiSrc x == 0 || StreamDesc.batch x == 1)
    && !(StreamDesc.grouped x && decide (1 < StreamDesc.batch x))
    && (List.range 4).all (fun c => F32.isFinite (StreamDesc.mean x c) && F32.isFinite (StreamDesc.invStd x c))
    && (if StreamDesc.outFmt x = 7 then F32.positive (StreamDesc.int8Scale x) else StreamDesc.int8Scale x == 0)
    && !(StreamDesc.isBayer x && (StreamDesc.srcWidth x % 2 == 1 || StreamDesc.srcHeight x % 2 == 1))
    && !(StreamDesc.decoder x == 6 && StreamDesc.srcWidth x % 2 == 1)

/-- R263, R620: the destination's slots hold the largest tensor, and those in a view start on multiples of 256. -/
def destFits (x dest : Image) : Bool :=
  decide (StreamDesc.largest x ≤ DestRec.slotBytes dest)
    && (DestRec.kind dest == 0 || (DestRec.slotBase dest % 256 == 0 && DestRec.slotStride dest % 256 == 0))

/-- A tag is bound inbound to another port, virtual channel or data type (R263). -/
def Device.boundElsewhere (d : Device) (x : Image) : Bool :=
  let other (y : Image) : Bool :=
    StreamDesc.port y != StreamDesc.port x || StreamDesc.vc y != StreamDesc.vc x || StreamDesc.dt y != StreamDesc.dt x
  ((d.ing.streams.find (StreamDesc.tag x)).any fun s => s.boundDesc.any other)
    || (d.ing.feedback.find (StreamDesc.tag x)).any other

/-- Inbound bindings in force or pending (R265). -/
def Device.inboundCount (d : Device) : Nat :=
  (d.ing.streams.filter fun e => e.2.boundDesc.isSome).length + d.ing.feedback.length

def Device.boundIn (d : Device) (tag : Nat) : Bool :=
  ((d.ing.streams.find tag).any fun s => s.boundDesc.isSome) || (d.ing.feedback.find tag).isSome

/-- Binds a feedback stream (R787): in force when the command is DONE (R264). -/
def Device.bindFeedback (d : Device) (n : Fin 64) (x : Image) : Device :=
  let rest := x / 2 ^ 4 % 2 ^ 4 + x / 2 ^ 48
  if rest ≠ 0 ∨ 11 < StreamDesc.port x ∨ 4095 < StreamDesc.tag x
      ∨ (15 < StreamDesc.vc x ∧ !Config.strapPhy (StreamDesc.port x)) ∨ d.boundElsewhere x then d.fail n stConfig
  else if 4096 ≤ d.inboundCount ∧ !d.boundIn (StreamDesc.tag x) then d.fail n stLimit
  else
    (({ d with ing := { d.ing with feedback := d.ing.feedback.put (StreamDesc.tag x) x } }).settleDomains).reply n stOk []

/-- STREAM_BIND (R260 to R265, R298, R577, R673): a binding that gives the stream a destination starts it there, with FREE_HOOK at
SLOTS; Hooks that the destination before it used go on (DEDUCED, log entry 64). -/
def Device.streamBind (d : Device) (n : Fin 64) : Device :=
  let x := d.params n % 2 ^ 640
  let tag := BitVec.ofNat 12 (StreamDesc.tag x)
  if StreamDesc.dt x = 0x33 ∨ StreamDesc.dt x = 0x34 then d.bindFeedback n x
  else if decoderDt (StreamDesc.decoder x) ≠ some (StreamDesc.dt x) ∨ !StreamDesc.rangesOk x ∨ !StreamDesc.sizesOk x
      ∨ !StreamDesc.fieldsOk x ∨ d.boundElsewhere x
      ∨ (StreamDesc.testLines x ∧ (d.testLine (StreamDesc.tag x)).isNone) then d.fail n stConfig
  else match d.streamDest x with
  | none => d.fail n stConfig
  | some (_, dest) =>
    if !destFits x dest then d.fail n stConfig
    else if 4096 ≤ d.inboundCount ∧ !d.boundIn (StreamDesc.tag x) then d.fail n stLimit
    else
      let y := (d.stream tag).getD Stream.fresh
      if y.pending = some none then d.hold n
      else
        let old := (y.boundDesc.bind d.streamDest).map (·.2)
        let fresh (h : Nat) : Bool := !old.any fun o => DestRec.descHook o == h || DestRec.freeHook o == h
        let set (h k : Nat) (d : Device) : Device := if fresh h then d.initHook h k else d
        let d := d.setStream tag { y with pending := some (some x) }
        let d := set (DestRec.freeHook dest) (DestRec.slots dest) (set (DestRec.descHook dest) 0 d)
        d.settleDomains.reply n stOk []

/-- STREAM_BIND (R263). -/
def execStreamBind (now : Time) (drawer : Fin 64) (s : State) : Host.Outcome State Fault Refusal :=
  s.drawerCommand now drawer 0x0301 fun d => d.streamBind drawer

/-- STREAM_UNBIND (R264): of an inbound sample stream at its next frame or sample, of a feedback stream or an outbound
tag at once. A binding that has not taken effect is withdrawn at once (DEDUCED, log entry 64). -/
def Device.streamUnbind (d : Device) (n : Fin 64) : Device :=
  let p := d.params n
  let tag := fld p 15 0
  if bitAt p 16 then
    (({ d with ports := { d.ports with outBinds := d.ports.outBinds.del tag } }).settleDomains).reply n stOk []
  else if (d.ing.feedback.find tag).isSome then
    (({ d with ing := { d.ing with feedback := d.ing.feedback.del tag } }).settleDomains).reply n stOk []
  else
    let d := match d.ing.streams.find tag with
      | some x =>
        if x.desc.isSome then
          { d with ing := { d.ing with streams := d.ing.streams.put tag { x with pending := some none } } }
        else (({ d with ing := { d.ing with streams := d.ing.streams.put tag { x with pending := none } } }).settleStream
          (BitVec.ofNat 12 tag)).settleDomains
      | none => d
    d.reply n stOk []

/-- STREAM_UNBIND (R264). -/
def execStreamUnbind (now : Time) (drawer : Fin 64) (s : State) : Host.Outcome State Fault Refusal :=
  s.drawerCommand now drawer 0x0302 fun d => d.streamUnbind drawer

/-- OUT_BIND (R778, R779). -/
def Device.outBind (d : Device) (n : Fin 64) : Device :=
  let p := d.params n
  let tag := fld p 15 0
  let vc := fld p 22 18
  let dt := fld p 29 24
  if 4095 < tag ∨ 15 < vc ∨ dt < 0x30 ∨ 0x33 < dt then d.fail n stConfig
  else
    let b : Fin 4 × BitVec 4 × BitVec 6 :=
      (⟨fld p 17 16 % 4, Nat.mod_lt _ (by decide)⟩, BitVec.ofNat 4 vc, BitVec.ofNat 6 dt)
    let e := { d with ports := { d.ports with outBinds := d.ports.outBinds.put tag b } }
    if e.outboundOk then e.settleDomains.reply n stOk [] else d.fail n stConfig

/-- OUT_BIND (R778). -/
def execOutBind (now : Time) (drawer : Fin 64) (s : State) : Host.Outcome State Fault Refusal :=
  s.drawerCommand now drawer 0x0303 fun d => d.outBind drawer

/-- GROUP_SET (R308, R713): MEMBERS 0 removes the group; a group that is set begins with no instance. -/
def Device.groupSet (d : Device) (n : Fin 64) : Device :=
  let x := d.params n % 2 ^ 128
  let k := GroupRec.group x
  if GroupRec.members x = 0 then
    ({ d with ing := { d.ing with groups := d.ing.groups.del k } }).reply n stOk []
  else if 11 < GroupRec.refPort x ∨ GroupRec.window x = 0 ∨ GroupRec.ring x % 256 ≠ 0 ∨ 16384 ≤ GroupRec.hook x then
    d.fail n stConfig
  else
    let g : Group := { record := x, seq := 0, instances := [] }
    ({ d with ing := { d.ing with groups := d.ing.groups.put k g } }).reply n stOk []

/-- GROUP_SET (R308). -/
def execGroupSet (now : Time) (drawer : Fin 64) (s : State) : Host.Outcome State Fault Refusal :=
  s.drawerCommand now drawer 0x0304 fun d => d.groupSet drawer

end Sys2Proof.Machine
end

