-- ==== Sys2Proof/Machine/Holds.lean ====
section
/-!
DEFINITION. The release of held commands (R577, R578).
-/

namespace Sys2Proof.Machine

/-- The held command of a Drawer is carried out, or stays held, by its opcode. -/
def Device.resumeCommand (d : Device) (n : Fin 64) : Device :=
  match d.cmdOpcode n with
  | 0x0102 => d.planActivate n
  | 0x0105 => d.partitionSet n
  | 0x0106 => d.outputs n
  | 0x0201 => d.jobStart n
  | 0x0202 => d.jobStop n
  | 0x0203 => d.modeChange n
  | 0x0301 => d.streamBind n
  | 0x0302 => d.streamUnbind n
  | 0x0303 => d.outBind n
  | 0x0802 => d.attest n
  | _ => d

/-- The function whose shutdown is complete is enabled in full, from its initial state (R577). A command whose shutdown
still runs, or behind which an earlier one waits for the same object (R578), stays held. -/
def Device.releaseHold (d : Device) (n : Fin 64) : Device :=
  let x := d.drawer n
  if x.state ≠ .held ∨ d.heldBefore n (d.bur.holds.takeWhile (· != n)) then d
  else
    let us := match x.heldAt with
      | some t => min 16777215 (usBetween d.hub t)
      | none => 0
    let e := d.setDrawer n { x with state := .busy, heldUs := us, heldAt := none }
    let e := { e with bur := { e.bur with holds := e.bur.holds.filter (· != n) } }
    let e := e.resumeCommand n
    if (e.drawer n).state = .held then d else e

/-- COMMAND_HOLD_RELEASE (R577, R578). -/
def execCommandHoldRelease (now : Time) (drawer : Fin 64) (s : State) : Host.Outcome State Fault Refusal :=
  s.onUp now fun d => d.releaseHold drawer

end Sys2Proof.Machine
end

