-- ==== Sys2Proof/Machine/HostWindow.lean ====
section
/-!
DEFINITION. The host window (R691 to R712): private writes, doorbells, event pops and In-Band Interrupts, and the
commands that the Bureau answers from its own registers.
-/

namespace Sys2Proof.Machine

/-- Counts an error in HOST_ERR (R703). -/
def Device.hostError (d : Device) (e : HostErr) : Device :=
  d.win fun w => { w with hostErrCount := min 65535 (w.hostErrCount + 1), hostErrLast := e }

def Drawer.isBusy (x : Drawer) : Bool := x.state == .busy || x.state == .held

/-- Bytes at consecutive window addresses into the Drawers' command areas (R691, R699, R703): a write to the area
of a BUSY or HELD Drawer is ignored and counted once. -/
def Device.writeAreas (d : Device) (a : Nat) (bs : Bytes) : Device :=
  let hit (n : Nat) : Bool := (List.range bs.length).any fun i =>
    0x1000 + n * 512 ≤ a + i && a + i < 0x1000 + n * 512 + 256
  (List.finRange 64).foldl (fun d n =>
    if !hit n.val then d
    else
      let x := d.drawer n
      if x.isBusy then d.hostError .cmdAreaBusy
      else d.setDrawer n { x with area := (List.range 256).map fun o =>
          let w := 0x1000 + n.val * 512 + o
          if a ≤ w ∧ w < a + bs.length then nth bs (w - a) 0 else nth x.area o 0 }) d

/-- A doorbell (R702, R703, R705): an IDLE or DONE Drawer becomes BUSY, its reply is discarded, and the Bureau's
copy of its command area queues in the order of the doorbells (R707). An OPCODE outside R713 fails here, in the
order of R704, because no command row can take it. -/
def Device.doorbell (d : Device) (n : Fin 64) : Device :=
  let x := d.drawer n
  if x.isBusy then d.hostError .doorbellBusy
  else
    let keep := CmdHdr.opcode (imageAt x.area 0 16) == 0x0002
    let d := d.setDrawer n { x with state := .busy, copy := x.area, status := 0, reply := [],
                                    long := if keep then x.long else [], heldUs := 0, heldAt := none,
                                    accepted := d.hub, going := false }
    if (cmdSpec (d.cmdOpcode n)).isNone then
      match d.checkCommand n with
      | some st => d.fail n st
      | none => d
    else { d with bur := { d.bur with queue := d.bur.queue ++ [n] } }

/-- EVENT_POP (R710). -/
def Device.popEvent (d : Device) (v : BitVec 32) : Device :=
  match d.bur.win.events with
  | e :: r => if e.seq = v then d.win fun w => { w with events := r } else d.hostError .popMismatch
  | [] => d.hostError .popMismatch

/-- Clearing OVERFLOW also clears LOST (R709). -/
def Device.clearOverflow (d : Device) : Device := d.win fun w => { w with overflow := false, lost := 0 }

/-- The byte of a private write at a window address, where the write covers it. -/
def written (a : Nat) (bs : Bytes) (x : Nat) : Option Byte := if a ≤ x ∧ x < a + bs.length then bs[x - a]? else none

/-- One private write (R691, R694): its bytes take effect together at its end. -/
def Device.privateWrite (d : Device) (bytes : Bytes) : Device :=
  match bytes with
  | lo :: hi :: data =>
    if bytes.length > 258 then d.hostError .writeTooLong
    else if data.isEmpty then d.win fun w => { w with readAddr := hi ++ lo }
    else
      let a := lo.toNat + 256 * hi.toNat
      let d := d.writeAreas a data
      let d := match written a data 0x5A with
        | some b => if b.getLsbD 0 then d.clearOverflow else d
        | none => d
      let d := match written a data 0x68, written a data 0x69, written a data 0x6A, written a data 0x6B with
        | some b0, some b1, some b2, some b3 => d.popEvent (b3 ++ b2 ++ b1 ++ b0)
        | _, _, _, _ => d
      match written a data 0x40 with
      | some b => d.doorbell ⟨b.toNat % 64, Nat.mod_lt _ (by decide)⟩
      | none => d
  | _ => d

/-- The addresses that a private read at `a` captures together (R693): the event head, a DONE Drawer's reply area, or the aligned
group of eight. -/
def Device.readSpan (d : Device) (a : Nat) : Nat × Nat :=
  let o := (a - 0x1000) % 512
  if 0x80 ≤ a ∧ a < 0xA0 then (0x80, 32)
  else if 0x1000 ≤ a ∧ a < 0x9000 ∧ 256 ≤ o ∧ (nth d.bur.drawers ((a - 0x1000) / 512) Drawer.reset).state = .done then
    (a - o + 256, 256)
  else (a / 8 * 8, 8)

/-- What a private read captures as the byte at `a` is sent first of its group (R693). -/
def Device.captureAt (d : Device) (a : Nat) : Nat × Bytes :=
  let r := d.readSpan a
  (r.1, (List.range r.2).map fun i => d.windowByte (r.1 + i))

/-- The group that the byte at the read address is sent from: the one captured, while the address lies in it. -/
def Device.group (d : Device) : Nat × Bytes :=
  let a := d.bur.win.readAddr.toNat
  match d.bur.win.capture with
  | some c => if c.1 ≤ a ∧ a < c.1 + c.2.length then c else d.captureAt a
  | none => d.captureAt a

/-- One byte of a private read (R692): the read address goes on by one, and the read ends after 0xFFFF. -/
def Device.readByte (d : Device) : Device :=
  if d.bur.win.readOver then d else
  let a := d.bur.win.readAddr
  let c := d.group
  d.win fun w => { w with capture := some c, sent := w.sent ++ [nth c.2 (a.toNat - c.1) 0], readAddr := a + 1
                          readOver := a == 0xFFFF }

def Device.readBytes (d : Device) : Nat → Device
  | 0 => d
  | n + 1 => d.readByte.readBytes n

/-- A private read begins, or the one in progress ends. -/
def Device.beginRead (d : Device) : Device := d.win fun w => { w with capture := none, readOver := false, sent := [] }
def Device.endRead (d : Device) : Device := d.win fun w => { w with capture := none, readOver := true }

/-- A private read (R692, R693). -/
def Device.privateRead (d : Device) : HostRead → Device
  | .none => d
  | .fresh n => d.beginRead.readBytes n
  | .more n => d.readBytes n

/-- HOST_WINDOW_WRITE (R694; R764: in recovery every write but the read address is ignored; R725), with the private read that its
transfer carries (R692, R693): no row of the table stands for a read alone. -/
def execHostWindowWrite (now : Time) (transfer : HostTransfer) (s : State) : Host.Outcome State Fault Refusal :=
  s.act now fun d =>
    let bytes := transfer.bytes
    let read := transfer.read
    let write (d : Device) : Device := if bytes.isEmpty then d else d.endRead.privateWrite bytes
    if d.pow.phase = .recovery then (if bytes.length = 2 then write d else d).privateRead read
    else if d.pow.phase = .up ∨ d.pow.phase = .standby ∨ d.pow.phase = .shut then (write d).privateRead read
    else d

/-- EVENT_POP (R710). -/
def execEventPop (now : Time) (value : BitVec 32) (s : State) : Host.Outcome State Fault Refusal :=
  s.onAlive now fun d => d.popEvent value

/-- OVERFLOW_CLEAR (R709). -/
def execOverflowClear (now : Time) (s : State) : Host.Outcome State Fault Refusal :=
  s.onAlive now Device.clearOverflow

/-- IBI_ACK (R712): the host acknowledges the IBI raised, the first pending one. -/
def execIbiAck (now : Time) (s : State) : Host.Outcome State Fault Refusal :=
  s.onAlive now fun d => d.win fun w => if w.ibiEnabled then { w with ibi := w.ibi.tail, ibiRetryAt := none } else w

/-- IBI_RETRY (R712): an IBI that was not acknowledged is raised again after 50 µs. -/
def execIbiRetry (now : Time) (s : State) : Host.Outcome State Fault Refusal :=
  s.onAlive now fun d =>
    if d.bur.win.ibiEnabled ∧ d.bur.win.ibi ≠ [] then
      match d.bur.win.ibiRetryAt with
      | some t => if reached d.hub t then d.win fun w => { w with ibiRetryAt := some (addT d.hub (usHub 50)) } else d
      | none => d.win fun w => { w with ibiRetryAt := some (addT d.hub (usHub 50)) }
    else d

/-- HELLO (Version negotiation; R697): the highest minor version that both sides implement. -/
def Device.hello (d : Device) (n : Fin 64) : Device :=
  let p := d.params n
  let lo := max (fld p 15 8) Config.fwMinorMin.toNat
  let hi := min (fld p 23 16) Config.fwMinorMax.toNat
  if fld p 7 0 ≠ 1 ∨ hi < lo then d.fail n stVersion
  else if d.othersBusy n then d.fail n stBusy
  else
    let d := d.win fun w => { w with minorNeg := BitVec.ofNat 8 hi, negotiated := true, hostErrCount := 0,
                                     hostErrLast := .none }
    d.reply n stOk (natLE (mkImage [(0, 8, 1), (8, 8, hi), (16, 16, 64), (32, 32, d.fwVersion),
                                    (64, 64, Config.serial.toNat)]) 16)

/-- HELLO. -/
def execHello (now : Time) (drawer : Fin 64) (s : State) : Host.Outcome State Fault Refusal :=
  s.drawerCommand now drawer 0x0001 fun d => d.hello drawer

/-- READ_MORE (R706): up to 240 bytes of the long reply from OFFSET; the buffer stays. -/
def Device.readMore (d : Device) (n : Fin 64) : Device :=
  let x := d.drawer n
  let off := fld (d.params n) 16 0
  let d := d.reply n stOk (slice x.long off 240)
  d.setDrawer n { d.drawer n with long := x.long }

/-- READ_MORE (R706). -/
def execReadMore (now : Time) (drawer : Fin 64) (s : State) : Host.Outcome State Fault Refusal :=
  s.drawerCommand now drawer 0x0002 fun d => d.readMore drawer

/-- The host uses time conversion, from its first command for it on: Fusion, which keeps the samples, is needed (R356, R579). -/
def Device.useTime (d : Device) : Device := ({ d with clk := { d.clk with hostUse := true } }).needDom 0x3B

/-- TIME_SAMPLES (R355, R713): 12 bytes per sample, newest first. -/
def Device.timeSamples (d : Device) (n : Fin 64) : Device :=
  let p := d.params n
  let dom := fld p 7 0
  let count := fld p 18 8
  if !isDomain dom ∨ count = 0 ∨ count > 1024 then d.fail n stConfig
  else d.reply n stOk (((d.samples dom).take count).flatMap fun s => natLE s.1.toNat 6 ++ natLE s.2.toNat 6)

/-- TIME_SAMPLES. -/
def execTimeSamples (now : Time) (drawer : Fin 64) (s : State) : Host.Outcome State Fault Refusal :=
  s.drawerCommand now drawer 0x0505 fun d => d.useTime.timeSamples drawer

/-- TIME_CONVERT (R357, R358). -/
def Device.timeConvert (d : Device) (n : Fin 64) : Device :=
  let p := d.params n
  if !isDomain (fld p 7 0) ∨ !isDomain (fld p 15 8) then d.fail n stConfig
  else match d.convertTime (fld p 7 0) (fld p 15 8) (BitVec.ofNat 48 (fld p 111 64)) with
    | some t => d.reply n stOk (natLE t.toNat 8)
    | none => d.fail n stTimeRange

/-- TIME_CONVERT (R357). -/
def execTimeConvert (now : Time) (drawer : Fin 64) (s : State) : Host.Outcome State Fault Refusal :=
  s.drawerCommand now drawer 0x0506 fun d => d.useTime.timeConvert drawer

/-- LECTERN_LOG (R717): COUNT entries from FIRST, 0 the newest. -/
def LogRec.bytes (r : LogRec) : Bytes :=
  natLE (mkImage [(0, 16, r.status.toNat), (16, 4, r.kind.toNat), (32, 16, r.source.toNat), (64, 48, r.hub.toNat),
                  (112, 48, r.lect.toNat), (160, 32, r.number.toNat)]) 24

def Device.lecternLog (d : Device) (n : Fin 64) : Device :=
  let p := d.params n
  let count := fld p 23 12
  if count = 0 ∨ count > 2048 then d.fail n stConfig
  else d.reply n stOk (((d.lect.log.drop (fld p 11 0)).take count).flatMap LogRec.bytes)

/-- LECTERN_LOG (R717). -/
def execLecternLog (now : Time) (drawer : Fin 64) (s : State) : Host.Outcome State Fault Refusal :=
  s.drawerCommand now drawer 0x0606 fun d => d.lecternLog drawer

/-! ### CORRESPONDENCE_SAMPLE (R355, R356) -/

/-- Each sampler captures the pair when the hub counter reaches a multiple of 12,000. The captured value of a
domain is exact to ±1 cycle of the domain (an operand); a captured value further off is not taken.
Fusion keeps the samples, while it is powered (R356). -/
def execCorrespondenceSample (now : Time) (captured : List (Byte × Time)) (s : State) :
    Host.Outcome State Fault Refusal :=
  s.onUp now fun d =>
    if d.hub ≠ now ∨ now.toNat % 12000 ≠ 0 ∨ !d.domOn 0x3B then d
    else captured.foldl (fun d c =>
      let k := c.1.toNat
      if k = 0 ∨ (d.clk.counters.find k).isNone ∨ (timeDiff c.2 (d.counter k)).natAbs > 1
        ∨ (d.samples k).head?.map (·.1) = some now then d
      else { d with clk := { d.clk with
        samples := d.clk.samples.put k (((now, c.2) :: d.samples k).take 1024) } }) d

/-! ### I3C CCCs and bridges (R789 to R795) -/

def Device.i3c (d : Device) (f : I3c → I3c) : Device := { d with bur := { d.bur with i3c := f d.bur.i3c } }

def setAddrs (x : I3c) (f : Nat → Option (BitVec 7) → Option (BitVec 7)) : I3c :=
  { x with addrs := x.addrs.zipIdx.map fun a => f a.2 a.1 }

/-- A CCC reaches a target: a broadcast reaches all, a direct one the target with a dynamic address. -/
def I3c.reaches (x : I3c) (target : Option (Fin 5)) : Bool :=
  match target with
  | none => true
  | some t => (nth x.addrs t.val none).isSome

/-- A meaning's shell for an event on the I3C target port, which takes part in address assignment from step 1 on
(R725) and is always powered (R580). -/
def State.onI3c (now : Time) (s : State) (f : Device → Device) : Host.Outcome State Fault Refusal :=
  s.act now fun d => if d.pow.phase = .off then d else f d

/-- ENEC (R712, R791): event bit 0 enables IBIs of target 0; the other bits are ignored. -/
def execEnec (now : Time) (target : Option (Fin 5)) (events : BitVec 8) (s : State) :
    Host.Outcome State Fault Refusal :=
  s.onI3c now fun d =>
    if events.getLsbD 0 ∧ (target = none ∨ target = some 0) ∧ d.bur.i3c.reaches target then
      d.win fun w => { w with ibiEnabled := true }
    else d

/-- DISEC (R712, R791). -/
def execDisec (now : Time) (target : Option (Fin 5)) (events : BitVec 8) (s : State) :
    Host.Outcome State Fault Refusal :=
  s.onI3c now fun d =>
    if events.getLsbD 0 ∧ (target = none ∨ target = some 0) ∧ d.bur.i3c.reaches target then
      d.win fun w => { w with ibiEnabled := false }
    else d

/-- RSTDAA (R791): clears the dynamic addresses. -/
def execRstdaa (now : Time) (s : State) : Host.Outcome State Fault Refusal :=
  s.onI3c now fun d => d.i3c fun x => setAddrs x fun _ _ => none

/-- ENTDAA (R789, R791): each target without a dynamic address takes the one the controller assigns it. -/
def execEntdaa (now : Time) (assigned : List (Fin 5 × BitVec 7)) (s : State) : Host.Outcome State Fault Refusal :=
  s.onI3c now fun d => d.i3c fun x => setAddrs x fun i a =>
    match a with
    | some v => some v
    | none => (assigned.find? fun p => p.1.val == i).map (·.2)

/-- SETMWL (R791): accepted; R694 still governs lengths. -/
def execSetmwl (now : Time) (_target : Option (Fin 5)) (_len : BitVec 16) (s : State) :
    Host.Outcome State Fault Refusal :=
  s.onI3c now fun d => d

/-- SETMRL (R791): accepted; R692 still governs lengths. -/
def execSetmrl (now : Time) (_target : Option (Fin 5)) (_len : BitVec 16) (s : State) :
    Host.Outcome State Fault Refusal :=
  s.onI3c now fun d => d

/-- ENTHDR0 (R791, R792): enters HDR-DDR. -/
def execEnthdr0 (now : Time) (s : State) : Host.Outcome State Fault Refusal :=
  s.onI3c now fun d => d.i3c fun x => { x with hdrDdr := true }

/-- SETDASA (R789, R791): target 0, by its static address 0x4A. -/
def execSetdasa (now : Time) (addr : BitVec 7) (s : State) : Host.Outcome State Fault Refusal :=
  s.onI3c now fun d => d.i3c fun x => setAddrs x fun i a => if i = 0 ∧ a = none then some addr else a

/-- SETNEWDA (R791): changes the dynamic address of a target that has one. -/
def execSetnewda (now : Time) (target : Fin 5) (addr : BitVec 7) (s : State) : Host.Outcome State Fault Refusal :=
  s.onI3c now fun d => d.i3c fun x => setAddrs x fun i a => if i = target.val ∧ a ≠ none then some addr else a

/-- A GET CCC: an addressed target answers; without a dynamic address no target answers. -/
def Device.answer (d : Device) (target : Fin 5) (bs : Bytes) : Device :=
  d.i3c fun x => { x with answer := if x.reaches (some target) then bs else [] }

/-- The 48-bit Provisioned ID (R790). -/
def provisionedId (t : Fin 5) : Nat := 0x0C37 * 2 ^ 33 + 0x0009 * 2 ^ 16 + t.val * 2 ^ 12
def bcrOf (t : Fin 5) : Byte := if t = 0 then 0x26 else 0x20

/-- GETMWL (R791). -/
def execGetmwl (now : Time) (target : Fin 5) (s : State) : Host.Outcome State Fault Refusal :=
  s.onI3c now fun d => d.answer target (natBE 258 2)

/-- GETMRL (R791): 65,535, with an IBI payload size of 1. -/
def execGetmrl (now : Time) (target : Fin 5) (s : State) : Host.Outcome State Fault Refusal :=
  s.onI3c now fun d => d.answer target (natBE 65535 2 ++ [1])

/-- GETPID (R790). -/
def execGetpid (now : Time) (target : Fin 5) (s : State) : Host.Outcome State Fault Refusal :=
  s.onI3c now fun d => d.answer target (natBE (provisionedId target) 6)

/-- GETBCR (R790). -/
def execGetbcr (now : Time) (target : Fin 5) (s : State) : Host.Outcome State Fault Refusal :=
  s.onI3c now fun d => d.answer target [bcrOf target]

/-- GETDCR (R790). -/
def execGetdcr (now : Time) (target : Fin 5) (s : State) : Host.Outcome State Fault Refusal :=
  s.onI3c now fun d => d.answer target [0]

/-- GETSTATUS (R791): pending IBIs, 0 to 15, in [3:0]; protocol error in [5]. -/
def execGetstatus (now : Time) (target : Fin 5) (s : State) : Host.Outcome State Fault Refusal :=
  s.onI3c now fun d =>
    let pend := if target = 0 then min 15 d.bur.win.ibi.length else 0
    d.answer target (natBE (pend + boolBit d.bur.i3c.protocolError 5) 2)

/-- GETMXDS (R791): 12.5 MHz for write and read (code 0 of the CCC's data-speed bytes), no turnaround limit. -/
def execGetmxds (now : Time) (target : Fin 5) (s : State) : Host.Outcome State Fault Refusal :=
  s.onI3c now fun d => d.answer target [0, 0]

def bridgeAt (d : Device) (b : Fin 4) : Bridge := nth d.bur.i3c.bridges b.val Bridge.reset
def Device.setBridge (d : Device) (b : Fin 4) (x : Bridge) : Device :=
  d.i3c fun i => { i with bridges := setAt i.bridges b.val x }

def Device.setNack (d : Device) (n : Bool) : Device := d.i3c fun x => { x with nack := n }

/-- A meaning's shell for a private write to a bridge (R725, R764, R793): no target answers it before the Bureau runs, and
recovery ignores it; a bridge that is BUSY answers with NACK, and every other takes the write. -/
def State.onBridge (now : Time) (b : Fin 4) (s : State) (f : Device → Device) : Host.Outcome State Fault Refusal :=
  s.act now fun d =>
    match d.pow.phase with
    | .off => d
    | .recovery => d
    | .held => d.setNack true
    | _ => if (bridgeAt d b).state = .busy then d.setNack true else f (d.setNack false)

/-- A bridge starts a transfer, which replaces its previous result (R793). -/
def Device.bridgeStart (d : Device) (b : Fin 4) (op : BridgeOp) : Device :=
  d.setBridge b { bridgeAt d b with state := .busy, op := some op, data := [] }

/-- BRIDGE_PRIVATE_WRITE (R793): byte 0 in 0x00 to 0x7D, 1 to 255 data bytes. -/
def execBridgePrivateWrite (now : Time) (bridge : Fin 4) (addr : BitVec 7) (data : Bytes) (s : State) :
    Host.Outcome State Fault Refusal :=
  s.onBridge now bridge fun d =>
    if addr.toNat ≤ 0x7D ∧ data ≠ [] ∧ data.length ≤ 255 then d.bridgeStart bridge (.write addr data) else d

/-- BRIDGE_BROADCAST_CCC (R793). -/
def execBridgeBroadcastCcc (now : Time) (bridge : Fin 4) (data : Bytes) (s : State) :
    Host.Outcome State Fault Refusal :=
  s.onBridge now bridge fun d => if data ≠ [] then d.bridgeStart bridge (.ccc data) else d

/-- BRIDGE_SET_MODE (R793, R812): modes 0 to 3; a result of its own, with no data. -/
def execBridgeSetMode (now : Time) (bridge : Fin 4) (mode : Byte) (s : State) : Host.Outcome State Fault Refusal :=
  s.onBridge now bridge fun d =>
    if mode.toNat > 3 then d
    else d.setBridge bridge { bridgeAt d bridge with mode, state := .done, op := none, data := [] }

/-- BRIDGE_ENTDAA (R793). -/
def execBridgeEntdaa (now : Time) (bridge : Fin 4) (first : Byte) (s : State) : Host.Outcome State Fault Refusal :=
  s.onBridge now bridge fun d => d.bridgeStart bridge (.entdaa first)

/-- BRIDGE_RSTDAA (R793). -/
def execBridgeRstdaa (now : Time) (bridge : Fin 4) (s : State) : Host.Outcome State Fault Refusal :=
  s.onBridge now bridge fun d => d.bridgeStart bridge .rstdaa

/-- BRIDGE_PRIVATE_READ (R793): length 1 to 255. -/
def execBridgePrivateRead (now : Time) (bridge : Fin 4) (addr : BitVec 7) (len : Byte) (s : State) :
    Host.Outcome State Fault Refusal :=
  s.onBridge now bridge fun d => if addr.toNat ≤ 0x7D ∧ len ≠ 0 then d.bridgeStart bridge (.read addr len) else d

/-- BRIDGE_TRANSFER_DONE (R794): data for a read (its length) and for ENTDAA (nine bytes per target). -/
def execBridgeTransferDone (now : Time) (bridge : Fin 4) (result : BridgeResult) (s : State) :
    Host.Outcome State Fault Refusal :=
  s.onI3c now fun d =>
    let x := bridgeAt d bridge
    if x.state ≠ .busy then d
    else match result with
      | .nacked => d.setBridge bridge { x with state := .nacked, data := [] }
      | .busError => d.setBridge bridge { x with state := .busError, data := [] }
      | .done data =>
        let keep := match x.op with
          | some (.read _ n) => data.take n.toNat
          | some (.entdaa _) => data.take (data.length / 9 * 9)
          | _ => []
        d.setBridge bridge { x with state := .done, data := keep }

/-- What a private read of a bridge returns (R794). -/
def Bridge.readBytes (x : Bridge) : Bytes :=
  let code : Byte := match x.state with
    | .idle => 0 | .busy => 1 | .done => 2 | .nacked => 3 | .busError => 4
  code :: BitVec.ofNat 8 x.data.length :: x.data

end Sys2Proof.Machine
end

