-- ==== Sys2Proof/Machine/LecternRows.lean ====
section
/-!
DEFINITION. The Lectern (R643, R649 to R658, R680 to R690): its own checks, the watchdog, the monitored results, the
notifications, and the commands on the safe state and on the policy.
-/

namespace Sys2Proof.Machine

def Device.lectern (d : Device) (f : Lectern → Lectern) : Device := { d with lect := f d.lect }

/-! ### Its own checks (R643, R649 to R652, R686) -/

/-- LOCKSTEP_MISMATCH (R649, R653): the pins fall through hardware alone, the cores boot again, and the safe state stays
with LECTERN_FAULT. -/
def execLockstepMismatch (now : Time) (bootOk : Bool) (s : State) : Host.Outcome State Fault Refusal :=
  s.onAlive now fun d =>
    let d := d.lecternCause .lecternFault stLecternFault
    let d := d.lectern fun l => { l with bootOk }
    if bootOk then d else d.watchStatus fun d => d.win fun w => { w with lecternFault := true }

/-- LECTERN_LINK_FAULT (R650): a message that fails its CRC or breaks the sequence. -/
def execLecternLinkFault (now : Time) (s : State) : Host.Outcome State Fault Refusal :=
  s.onAlive now fun d => d.lecternCause .lecternFault stLecternFault

/-- CLOCK_CHECK (R651): the two rates differ by more than ±1,000 ppm. -/
def execClockCheck (now : Time) (ppm : Int) (s : State) : Host.Outcome State Fault Refusal :=
  s.onAlive now fun d => if 1000 < ppm.natAbs then d.lecternCause .clockFault stClockFault else d

/-- RAIL_OUT_OF_RANGE (R652). -/
def execRailOutOfRange (now : Time) (s : State) : Host.Outcome State Fault Refusal :=
  s.onAlive now fun d => d.lecternCause .supplyFault stSupplyFault

/-- SAFE_PIN_READBACK (R686): a level that differs from the commanded one drives both pins low. -/
def execSafePinReadback (now : Time) (levelA levelB : Bool) (s : State) : Host.Outcome State Fault Refusal :=
  s.onAlive now fun d =>
    if levelA ≠ d.lect.pinA ∨ levelB ≠ d.lect.pinB then d.lecternCause .safePinFault stSafePinFault else d

/-- LECTERN_STORE_SCRUB (R643): one bad copy is written back from the other; two are a fault of the Lectern. -/
def execLecternStoreScrub (now : Time) (finding : MirrorFinding) (s : State) : Host.Outcome State Fault Refusal :=
  s.onAlive now fun d =>
    match finding with
    | .clean => d
    | .oneCopy => d
    | .bothCopies => d.lecternCause .lecternFault stLecternFault

/-! ### The watchdog (R680) -/

/-- Hub cycles of the watchdog window. -/
def Policy.window (p : Policy) : Nat := usHub (1000 * p.wdMs)

/-- WATCHDOG_KICK (R680): a kick less than WD_MS ÷ 4 after the previous one, or with a wrong number, is a fault. -/
def Device.kick (d : Device) (seq : BitVec 16) : Device :=
  let l := d.lect
  let early := l.wdLast.any fun t => decide (timeDiff d.hub t < l.policy.window / 4)
  let wrong := l.wdLast.isSome && seq != l.wdSeq + 1
  let d := d.lectern fun l => { l with wdSeq := seq, wdLast := some d.hub }
  if early || wrong then d.lecternCause .watchdog stWatchdog else d

def execWatchdogKick (now : Time) (seq : BitVec 16) (s : State) : Host.Outcome State Fault Refusal :=
  s.onAlive now fun d => d.kick seq

/-- WATCHDOG_EXPIRY (R680): no kick by WD_MS after the previous one. -/
def execWatchdogExpiry (now : Time) (s : State) : Host.Outcome State Fault Refusal :=
  s.onAlive now fun d =>
    match d.lect.wdLast with
    | some t =>
      if reached d.hub (addT t d.lect.policy.window) then
        (d.lectern fun l => { l with wdLast := some d.hub }).lecternCause .watchdog stWatchdog
      else d
    | none => d

/-! ### Monitored results (R682 to R684) -/

def Device.monEntryOf (d : Device) (k : MonKey) : Option MonEntry := d.lect.table.find? fun e => e.key == k

def Device.setMon (d : Device) (n : MonEntry) : Device :=
  d.lectern fun l => { l with table := l.table.map fun (e : MonEntry) => if e.key == n.key then n else e }

/-- An entry's miss limit. -/
def Policy.missLimit (p : Policy) (e : MonEntry) : Nat := if e.cls = 0 then p.safetyMiss else p.controlMiss

/-- The longest period in hub cycles (R519, R543, R683): a job's period is in µs, a slot's in CE cycles. -/
def MonEntry.longest (e : MonEntry) : Nat :=
  match e.key with
  | .job _ => let p := usHub e.period
              if e.lock then p + p / 8 else p
  | .slot _ => 2 * (if e.lock then e.period + e.period / 8 else e.period)

/-- The margin of R683. -/
def monMargin : Nat := usHub 10

/-- SOURCE_KIND and SOURCE of an entry (R708). -/
def monSource : MonKey → BitVec 4 × BitVec 16
  | .job j => (srcJob, j)
  | .slot s => (srcSlot, BitVec.ofNat 16 s.val)

/-- One missing result (R684). -/
def Device.missing (d : Device) (e : MonEntry) : Device :=
  let e := { e with misses := e.misses + 1, presents := 0 }
  if d.lect.policy.missLimit e ≤ e.misses ∧ !e.behind then
    let src := monSource e.key
    ((d.setMon { e with behind := true }).enterSafe .resultMissing stResultMissing src.2).event stResultMissing src.1 src.2 0
  else d.setMon e

/-- One present result (R684, R688). -/
def Device.present (d : Device) (e : MonEntry) : Device :=
  let n := e.presents + 1
  let clear := e.behind && decide (d.lect.policy.missLimit e ≤ n)
  let d := d.setMon { e with misses := 0, presents := if e.behind ∧ !clear then n else 0, behind := e.behind && !clear }
  if clear && d.lect.table.all (fun (x : MonEntry) => !x.behind) then d.clearCause .resultMissing else d

/-- The oldest check point of an entry, or its wait for a START token, has lapsed by hub time `t`: a missing result. A slot's
next check point, and the next wait, follow one longest period later. -/
def Device.lapse (d : Device) (k : MonKey) (t : Time) : Device :=
  let d := match d.monEntryOf k with
    | some e => match e.checks with
      | c :: rest =>
        if !reached t c.1 then d
        else match k with
          | .job _ => d.missing { e with checks := rest }
          | .slot _ => d.missing { e with checks := [(addT c.1 e.longest, false)], late := true }
      | [] => d
    | none => d
  match d.monEntryOf k with
  | some e => match e.startBy with
    | some u => if reached t u then d.missing { e with startBy := some (addT u e.longest) } else d
    | none => d
  | none => d

/-- CHECK_POINT_EXPIRY (R683, R684). -/
def execCheckPointExpiry (now : Time) (entry : MonKey) (s : State) : Host.Outcome State Fault Refusal :=
  s.onAlive now fun d => d.lapse entry d.hub

/-- Takes the oldest token of a kind from the link. -/
def Device.takeToken (d : Device) (isStart : Bool) : Option (Token × Device) :=
  let mine (t : Token) : Bool := match t with
    | .start .. => isStart
    | .result .. => !isStart
  (d.lect.tokens.find? mine).map fun t => (t, d.lectern fun l => { l with tokens := l.tokens.erase t })

/-- A START token (R683): the check point of its period, and the wait for the next one of a PERIODIC job. An entry whose
DEADLINE is 0 or whose PERIOD is 0 (a Fusion job, R537 and R823) gives the Lectern no deadline or no longest period to watch
(DEDUCED, log 60). -/
def Device.startSeen (d : Device) (k : MonKey) : Device :=
  match d.monEntryOf k with
  | none => d
  | some e =>
    if !d.monStarted k then d
    else
      let check := addT d.hub (ceilDiv (e.deadline * 120024) 100 + monMargin)
      d.setMon { e with
        checks := if e.deadline = 0 then e.checks else e.checks ++ [(check, false)]
        startBy := if e.trigger = 0 ∧ e.period ≠ 0 then some (addT d.hub (e.longest + monMargin)) else none }

/-- START_TOKEN (R682, R683). -/
def execStartToken (now : Time) (s : State) : Host.Outcome State Fault Refusal :=
  s.onAlive now fun d =>
    match d.takeToken true with
    | some (.start k _, d) => d.startSeen k
    | _ => d

/-- Statuses of R550 and R552, and ST_NONFINITE (R683). -/
def notPresent (st : Status) : Bool := isFailed st || st == stLate || st == stCancelled || st == stNonfinite

/-- Removes the oldest check point that no token has met, or marks it (R683). -/
def meetCheck (ok : Bool) : List (Time × Bool) → List (Time × Bool)
  | [] => []
  | (t, true) :: r => (t, true) :: meetCheck ok r
  | (t, false) :: r => if ok then r else (t, true) :: r

/-- A result token (R683, R684): a late one is logged and otherwise ignored. -/
def Device.resultSeen (d : Device) (k : MonKey) (st : Status) : Device :=
  let d := d.lapse k (d.hub - 1)
  match d.monEntryOf k with
  | none => d
  | some e =>
    let src := monSource k
    let ok := !notPresent st
    match k with
    | .job _ =>
      if e.deadline ≠ 0 ∧ e.checks.all (·.2) then d.lectLog st src.1 src.2
      else
        let e := { e with checks := meetCheck ok e.checks }
        if ok then d.present e else d.setMon e
    | .slot _ =>
      let next := if d.monStarted k then [(addT d.hub (e.longest + monMargin), false)] else []
      let late := e.late
      let e := { e with checks := next, late := false }
      if late then (d.setMon e).lectLog st src.1 src.2 else if ok then d.present e else d.missing e

/-- RESULT_TOKEN (R682, R683). -/
def execResultToken (now : Time) (s : State) : Host.Outcome State Fault Refusal :=
  s.onAlive now fun d =>
    match d.takeToken false with
    | some (.result k _ _ st _, d) => d.resultSeen k st
    | _ => d

/-! ### Notifications (R655, R657, R679, R685) -/

/-- Events of R657 that have a notify-again point (R382, R517, R519, R525, R671, R678). -/
def hasAgain (st : Status) : Bool := [stSensorConflict, stPlausibility, stInputStale, stPeriodLost, stTestOverdue].contains st

/-- The cause that a notification sets, when its reaction is the safe state. -/
def Device.noteCause (d : Device) (n : Note) : Option SafeCause :=
  if n.status = stLoopMismatch then some .loopMismatch
  else if n.status = stUncorrectable then some .fwHookUe
  else if n.status = stSelftestFail then
    (if n.kind = srcDomain ∧ (n.source = 0x36 ∨ n.source = 0x37) then some .selftestFail else none)
  else if d.reacts n.status then some .policyEvent
  else none

/-- What stands behind the cause of a notification until it clears (R688). -/
def Device.noteBehind (d : Device) (n : Note) (c : SafeCause) : Device :=
  match c with
  | .loopMismatch =>
    let x := d.slot n.source.toNat
    if x.mismatched ∨ x.mismatchNext then
      let s : Fin 256 := ⟨n.source.toNat % 256, Nat.mod_lt _ (by decide)⟩
      d.lectern fun l => { l with mismatched := if l.mismatched.contains s then l.mismatched else l.mismatched ++ [s] }
    else if d.lect.mismatched.isEmpty then d.clearCause .loopMismatch else d
  | .policyEvent =>
    if n.again then (if d.lect.events.isEmpty then d.clearCause .policyEvent else d)
    else d.lectern fun l => { l with events := (n.status, n.kind, n.source) :: l.events.erase (n.status, n.kind, n.source) }
  | _ => d

/-- One notification (R655, R657, R685, R708): the log, the reaction, and the event to the host. R595 has raised the event
of ST_THERMAL itself. -/
def Device.takeNote (d : Device) (n : Note) : Device :=
  let d := d.lectLog n.status n.kind n.source
  let c := d.noteCause n
  let d := match c with
    | some c => (d.enterSafe c n.status n.source).noteBehind n c
    | none => d
  if n.status = stThermal then d
  else d.postEvent n.status (if c.isSome then 3 else d.severity n.status) n.kind n.source 0

/-- NOTIFICATION (R655): the oldest one on its way. -/
def execNotification (now : Time) (s : State) : Host.Outcome State Fault Refusal :=
  s.onAlive now fun d =>
    match d.lect.inbox with
    | [] => d
    | n :: rest => (d.lectern fun l => { l with inbox := rest }).takeNote n

/-! ### Commands (R658, R685, R688, R689) -/

/-- SAFE_REQUEST (R685). -/
def execSafeRequest (now : Time) (drawer : Fin 64) (s : State) : Host.Outcome State Fault Refusal :=
  s.drawerCommand now drawer 0x0604 fun d => (d.enterQuiet .hostRequest).reply drawer stOk []

/-- The causes that an accepted release itself does not clear (R688). -/
def Device.blocking (d : Device) : BitVec 13 :=
  let c := d.lect.causes &&& ~~~ causeMask .hostRequest
  if d.lect.events.any fun e => hasAgain e.1 then c else c &&& ~~~ causeMask .policyEvent

/-- SAFE_RELEASE (R689): `causeInCycle` is a cause that arrives in the Lectern cycle of its evaluation. -/
def Device.safeRelease (d : Device) (n : Fin 64) (causeInCycle : Option SafeCause) : Device :=
  if !d.lect.safe then d.reply n stOk []
  else if d.blocking ≠ 0 ∨ causeInCycle.isSome then d.fail n stSafeCause
  else
    let d := d.watchStatus fun d => d.lectern fun l => { l with
      safe := false, pinA := true, pinB := true, causes := 0, firstStatus := 0, firstSource := 0, events := []
      changed := d.hub }
    d.reply n stOk []

def execSafeRelease (now : Time) (drawer : Fin 64) (causeInCycle : Option SafeCause) (s : State) :
    Host.Outcome State Fault Refusal :=
  s.drawerCommand now drawer 0x0605 fun d => d.safeRelease drawer causeInCycle

/-- Every field of a policy lies in its range (R656). -/
def Policy.ok (p : Policy) : Bool :=
  let inside (v lo hi : Nat) : Bool := lo ≤ v && v ≤ hi
  inside p.scrubHours 1 24 && inside p.bucketLimit 1 255 && inside p.leakS 1 65535 && inside p.tileDtiS 60 86400
    && inside p.engineDtiS 60 86400 && inside p.wdMs 1 100 && inside p.safetyMiss 1 15 && inside p.controlMiss 1 15

/-- The fields that stand while a SAFETY job is started (R658). -/
def Policy.guarded (p : Policy) : Nat × Nat × Nat × BitVec 16 := (p.wdMs, p.safetyMiss, p.controlMiss, p.reactSafe)

/-- An accepted policy takes effect (R658, R664, R665). -/
def Device.setPolicy (d : Device) (p : Policy) : Device :=
  let old := d.lect.policy
  let d := d.lectern fun l => { l with policy := p }
  let d := if p.leakS ≠ old.leakS then { d with leakAt := d.hub } else d
  if p.bucketLimit < old.bucketLimit then
    (d.tiles.filterMap fun e => if p.bucketLimit ≤ e.2.t.bucket then finTile e.1 else none).foldl Device.fenceTile d
  else d

/-- SELFTEST_POLICY (R656, R658). -/
def Device.selftestPolicy (d : Device) (n : Fin 64) : Device :=
  let p := PolRec.policy (d.params n % 2 ^ 256)
  if !p.ok then d.fail n stConfig
  else if p.guarded ≠ d.lect.policy.guarded ∧ d.startedJobs.any fun r => r.cls == 0 then d.fail n stBusy
  else (d.setPolicy p).reply n stOk []

def execSelftestPolicy (now : Time) (drawer : Fin 64) (s : State) : Host.Outcome State Fault Refusal :=
  s.drawerCommand now drawer 0x0603 fun d => d.selftestPolicy drawer

end Sys2Proof.Machine
end

