-- ==== Sys2Proof/Machine/Saves.lean ====
section
/-!
DEFINITION. The save and the reload of a pre-empted tile (R555, R556).
-/

namespace Sys2Proof.Machine

/-- The saved tile's store stands in memory; the rest of its image is the model's own, undefined to a reader (R555). -/
def Device.writeSave (d : Device) (r : JobRef) (a : Nat) (y : TileState) : Device :=
  let d := (d.writeLines r.part a (y.getStore 0 saveStore)).bump
  (List.range (saveContext / 256)).foldl (fun (d : Device) i => match d.viewPhys r.part (a + saveStore + 256 * i) with
    | some z => { d with mem := { d.mem with main := d.mem.main.forget z 256 d.clk.nonce } }
    | none => d) d

/-- PREEMPT_SAVE_DONE (R555), with the errors that the tile's store shows: its image stands at SAVE_BASE + 143,360 × i. The layout
of the 12,288 bytes of context is not given: they become undefined in memory, and the context itself is kept in the state. A
poisoned byte never leaves the tile (R112): the period is withheld, and its save with it. -/
def Device.saveDone (d : Device) (t : Fin 4160) (se : StoreErrors) : Device :=
  match (d.tileJob t).bind d.openPeriod with
  | none => d
  | some (r, x, p) =>
    if (d.tile t).t.phase ≠ .saving ∨ x.phase ≠ .saving then d
    else
      let (d, bad) := d.storeRead t se [(0, saveStore)]
      if bad then (d.dropSaved r.id).consumePoison t
      else
        let y := d.tile t
        let d := d.writeSave r (JobRec.saveBase r.image + saveImage * d.savePos r p t) y
        let d := { d with saved := d.saved.put (r.id.toNat * 8192 + t.val) y }
        let d := d.setTile t { y with t := { y.t with phase := .idle, job := none, queues := [[], [], [], []] }
                                      r := TileRun.fresh }
        let rest := x.stopWait.filter (· != t)
        let d := d.setRun r.id { x with stopWait := rest, phase := if rest.isEmpty then .saved else .saving }
        if rest.isEmpty then d.settleStarts else d

/-- PREEMPT_SAVE_DONE (R555). -/
def execPreemptSaveDone (now : Time) (found : TileRead) (s : State) : Host.Outcome State Fault Refusal :=
  s.onUp now fun d => d.saveDone found.tile found.errors

/-- Sets RESUMED in the start word of a reloaded tile (R546, R556). -/
def TileState.setResumed (y : TileState) : TileState :=
  let w := leNat (y.getStore startWordAddr 32)
  y.putStore startWordAddr (natLE (mkImage [(0, 49, w), (49, 1, 1), (50, 206, w / 2 ^ 50)]) 32)

/-- A tile reloads its image (R556): a byte that memory delivers poisoned stands poisoned in the store (R632). The second result
says that a byte of the context was poisoned. -/
def Device.reloadTile (d : Device) (r : JobRef) (p : Period) (t : Fin 4160) : Device × Bool :=
  match d.saved.find (r.id.toNat * 8192 + t.val) with
  | none => (d, false)
  | some y =>
    let base := JobRec.saveBase r.image + saveImage * d.savePos r p t
    let (d, bs, bad) := d.dmaRead r.part base saveStore []
    let (d, lost) := d.hubRead r.part (base + saveStore) saveContext
    let y := { y with t := { y.t with phase := .running, store := [], poison := [] } }
    let y := (y.putStore 0 bs).setResumed
    (d.setTile t { y with t := { y.t with poison := bad } }, lost)

/-- RESUME (R556): every tile reloads its image, sets RESUMED in its start word and goes on. A tile whose context is lost has
consumed a poisoned value (R112). -/
def Device.resumeJob (d : Device) (j : BitVec 16) : Device :=
  match d.openPeriod j with
  | none => d
  | some (r, x, p) =>
    if x.phase ≠ .saved ∨ !p.left.all d.tileFree ∨ !d.budgetOk r x p.variant ∨ d.inBoundary r.part then d
    else
      let (d, lost) := p.left.foldl (fun (a : Device × List (Fin 4160)) t =>
        let (d, bad) := a.1.reloadTile r p t
        (d, if bad then a.2 ++ [t] else a.2)) (d, [])
      let d := (d.dropSaved j).setRun j { x with phase := .running, period := some { p with preempted := true } }
      lost.foldl Device.consumePoison d

/-- RESUME (R556). -/
def execResume (now : Time) (job : BitVec 16) (s : State) : Host.Outcome State Fault Refusal :=
  s.onUp now fun d => d.resumeJob job

end Sys2Proof.Machine
end

