-- ==== Sys2Proof/Machine/Dispatch.lean ====
section
/-!
DEFINITION. One arm per command: each is one direct call of that command's meaning.
-/

namespace Sys2Proof.Machine

def exec (i : Instr) (s : State) : Host.Outcome State Fault Refusal :=
  match i with
  | .batteryTurnOn now x1 => Sys2Proof.Machine.execBatteryTurnOn now x1 s
  | .resetNAssert now => Sys2Proof.Machine.execResetNAssert now s
  | .resetNRelease now x1 => Sys2Proof.Machine.execResetNRelease now x1 s
  | .brownOut now => Sys2Proof.Machine.execBrownOut now s
  | .overVoltageTrip now => Sys2Proof.Machine.execOverVoltageTrip now s
  | .wakeEdge now x1 => Sys2Proof.Machine.execWakeEdge now x1 s
  | .recoveryPacket now x1 x2 => Sys2Proof.Machine.execRecoveryPacket now x1 x2 s
  | .hostWindowWrite now x1 => Sys2Proof.Machine.execHostWindowWrite now x1 s
  | .eventPop now x1 => Sys2Proof.Machine.execEventPop now x1 s
  | .overflowClear now => Sys2Proof.Machine.execOverflowClear now s
  | .ibiAck now => Sys2Proof.Machine.execIbiAck now s
  | .ibiRetry now => Sys2Proof.Machine.execIbiRetry now s
  | .commandHoldRelease now x1 => Sys2Proof.Machine.execCommandHoldRelease now x1 s
  | .hello now x1 => Sys2Proof.Machine.execHello now x1 s
  | .readMore now x1 => Sys2Proof.Machine.execReadMore now x1 s
  | .planLoad now x1 => Sys2Proof.Machine.execPlanLoad now x1 s
  | .planActivate now x1 => Sys2Proof.Machine.execPlanActivate now x1 s
  | .partitionQuiesced now x1 => Sys2Proof.Machine.execPartitionQuiesced now x1 s
  | .planUnload now x1 => Sys2Proof.Machine.execPlanUnload now x1 s
  | .planList now x1 => Sys2Proof.Machine.execPlanList now x1 s
  | .partitionSet now x1 => Sys2Proof.Machine.execPartitionSet now x1 s
  | .outputsEnable now x1 => Sys2Proof.Machine.execOutputsEnable now x1 s
  | .outputsDisable now x1 => Sys2Proof.Machine.execOutputsDisable now x1 s
  | .jobStart now x1 => Sys2Proof.Machine.execJobStart now x1 s
  | .jobStop now x1 => Sys2Proof.Machine.execJobStop now x1 s
  | .modeChange now x1 => Sys2Proof.Machine.execModeChange now x1 s
  | .streamBind now x1 => Sys2Proof.Machine.execStreamBind now x1 s
  | .streamUnbind now x1 => Sys2Proof.Machine.execStreamUnbind now x1 s
  | .outBind now x1 => Sys2Proof.Machine.execOutBind now x1 s
  | .groupSet now x1 => Sys2Proof.Machine.execGroupSet now x1 s
  | .kvOpen now x1 => Sys2Proof.Machine.execKvOpen now x1 s
  | .kvClose now x1 => Sys2Proof.Machine.execKvClose now x1 s
  | .kvRead now x1 => Sys2Proof.Machine.execKvRead now x1 s
  | .kvPageRead now x1 => Sys2Proof.Machine.execKvPageRead now x1 s
  | .slotSwapOut now x1 => Sys2Proof.Machine.execSlotSwapOut now x1 s
  | .slotSwapIn now x1 => Sys2Proof.Machine.execSlotSwapIn now x1 s
  | .slotWithdraw now x1 => Sys2Proof.Machine.execSlotWithdraw now x1 s
  | .swapOutDone now x1 => Sys2Proof.Machine.execSwapOutDone now x1 s
  | .swapInDone now x1 x2 => Sys2Proof.Machine.execSwapInDone now x1 x2 s
  | .mapUpdate now x1 => Sys2Proof.Machine.execMapUpdate now x1 s
  | .solverUpdate now x1 => Sys2Proof.Machine.execSolverUpdate now x1 s
  | .solverInfo now x1 => Sys2Proof.Machine.execSolverInfo now x1 s
  | .memWrite now x1 => Sys2Proof.Machine.execMemWrite now x1 s
  | .timeSamples now x1 => Sys2Proof.Machine.execTimeSamples now x1 s
  | .timeConvert now x1 => Sys2Proof.Machine.execTimeConvert now x1 s
  | .calRead now x1 => Sys2Proof.Machine.execCalRead now x1 s
  | .calWrite now x1 => Sys2Proof.Machine.execCalWrite now x1 s
  | .selftestPolicy now x1 => Sys2Proof.Machine.execSelftestPolicy now x1 s
  | .safeRequest now x1 => Sys2Proof.Machine.execSafeRequest now x1 s
  | .safeRelease now x1 x2 => Sys2Proof.Machine.execSafeRelease now x1 x2 s
  | .lecternLog now x1 => Sys2Proof.Machine.execLecternLog now x1 s
  | .powerLimit now x1 => Sys2Proof.Machine.execPowerLimit now x1 s
  | .telemetry now x1 => Sys2Proof.Machine.execTelemetry now x1 s
  | .counters now x1 => Sys2Proof.Machine.execCounters now x1 s
  | .memReport now x1 => Sys2Proof.Machine.execMemReport now x1 s
  | .tileCensus now x1 => Sys2Proof.Machine.execTileCensus now x1 s
  | .standbyEnter now x1 => Sys2Proof.Machine.execStandbyEnter now x1 s
  | .standbyLeave now x1 x2 => Sys2Proof.Machine.execStandbyLeave now x1 x2 s
  | .serviceClear now x1 => Sys2Proof.Machine.execServiceClear now x1 s
  | .fwUpdate now x1 => Sys2Proof.Machine.execFwUpdate now x1 s
  | .attest now x1 => Sys2Proof.Machine.execAttest now x1 s
  | .identityRead now x1 => Sys2Proof.Machine.execIdentityRead now x1 s
  | .keyRevoke now x1 => Sys2Proof.Machine.execKeyRevoke now x1 s
  | .bulkPacket now x1 => Sys2Proof.Machine.execBulkPacket now x1 s
  | .bulkTimeout now x1 => Sys2Proof.Machine.execBulkTimeout now x1 s
  | .enec now x1 x2 => Sys2Proof.Machine.execEnec now x1 x2 s
  | .disec now x1 x2 => Sys2Proof.Machine.execDisec now x1 x2 s
  | .rstdaa now => Sys2Proof.Machine.execRstdaa now s
  | .entdaa now x1 => Sys2Proof.Machine.execEntdaa now x1 s
  | .setmwl now x1 x2 => Sys2Proof.Machine.execSetmwl now x1 x2 s
  | .setmrl now x1 x2 => Sys2Proof.Machine.execSetmrl now x1 x2 s
  | .enthdr0 now => Sys2Proof.Machine.execEnthdr0 now s
  | .setdasa now x1 => Sys2Proof.Machine.execSetdasa now x1 s
  | .setnewda now x1 x2 => Sys2Proof.Machine.execSetnewda now x1 x2 s
  | .getmwl now x1 => Sys2Proof.Machine.execGetmwl now x1 s
  | .getmrl now x1 => Sys2Proof.Machine.execGetmrl now x1 s
  | .getpid now x1 => Sys2Proof.Machine.execGetpid now x1 s
  | .getbcr now x1 => Sys2Proof.Machine.execGetbcr now x1 s
  | .getdcr now x1 => Sys2Proof.Machine.execGetdcr now x1 s
  | .getstatus now x1 => Sys2Proof.Machine.execGetstatus now x1 s
  | .getmxds now x1 => Sys2Proof.Machine.execGetmxds now x1 s
  | .bridgePrivateWrite now x1 x2 x3 => Sys2Proof.Machine.execBridgePrivateWrite now x1 x2 x3 s
  | .bridgeBroadcastCcc now x1 x2 => Sys2Proof.Machine.execBridgeBroadcastCcc now x1 x2 s
  | .bridgeSetMode now x1 x2 => Sys2Proof.Machine.execBridgeSetMode now x1 x2 s
  | .bridgeEntdaa now x1 x2 => Sys2Proof.Machine.execBridgeEntdaa now x1 x2 s
  | .bridgeRstdaa now x1 => Sys2Proof.Machine.execBridgeRstdaa now x1 s
  | .bridgePrivateRead now x1 x2 x3 => Sys2Proof.Machine.execBridgePrivateRead now x1 x2 x3 s
  | .bridgeTransferDone now x1 x2 => Sys2Proof.Machine.execBridgeTransferDone now x1 x2 s
  | .frameStart now x1 => Sys2Proof.Machine.execFrameStart now x1 s
  | .frameEnd now x1 => Sys2Proof.Machine.execFrameEnd now x1 s
  | .lineShortPacket now x1 => Sys2Proof.Machine.execLineShortPacket now x1 s
  | .genericShortPacket now x1 => Sys2Proof.Machine.execGenericShortPacket now x1 s
  | .imageLinePacket now x1 => Sys2Proof.Machine.execImageLinePacket now x1 s
  | .embeddedDataPacket now x1 => Sys2Proof.Machine.execEmbeddedDataPacket now x1 s
  | .jpegPacket now x1 => Sys2Proof.Machine.execJpegPacket now x1 s
  | .pointPacket now x1 => Sys2Proof.Machine.execPointPacket now x1 s
  | .feedbackPacket now x1 => Sys2Proof.Machine.execFeedbackPacket now x1 s
  | .inertialPacket now x1 => Sys2Proof.Machine.execInertialPacket now x1 s
  | .bodyLinkPacket now x1 => Sys2Proof.Machine.execBodyLinkPacket now x1 s
  | .inputSkewCalibration now x1 x2 x3 => Sys2Proof.Machine.execInputSkewCalibration now x1 x2 x3 s
  | .outputSkewCalibration now x1 => Sys2Proof.Machine.execOutputSkewCalibration now x1 s
  | .decoderTake now x1 => Sys2Proof.Machine.execDecoderTake now x1 s
  | .decodeDone now x1 x2 x3 => Sys2Proof.Machine.execDecodeDone now x1 x2 x3 s
  | .workCapReached now x1 x2 => Sys2Proof.Machine.execWorkCapReached now x1 x2 s
  | .recordPost now x1 => Sys2Proof.Machine.execRecordPost now x1 s
  | .batchWindowExpiry now x1 => Sys2Proof.Machine.execBatchWindowExpiry now x1 s
  | .groupWindowExpiry now x1 => Sys2Proof.Machine.execGroupWindowExpiry now x1 s
  | .groupRecordPost now x1 => Sys2Proof.Machine.execGroupRecordPost now x1 s
  | .testFrameCompare now x1 x2 => Sys2Proof.Machine.execTestFrameCompare now x1 x2 s
  | .finisherFrame now x1 => Sys2Proof.Machine.execFinisherFrame now x1 s
  | .correspondenceSample now x1 => Sys2Proof.Machine.execCorrespondenceSample now x1 s
  | .measurementTake now => Sys2Proof.Machine.execMeasurementTake now s
  | .fusionTick now => Sys2Proof.Machine.execFusionTick now s
  | .fusionClose now => Sys2Proof.Machine.execFusionClose now s
  | .fusionEmission now x1 => Sys2Proof.Machine.execFusionEmission now x1 s
  | .shelfUpdateSignal now => Sys2Proof.Machine.execShelfUpdateSignal now s
  | .shelfBatch now => Sys2Proof.Machine.execShelfBatch now s
  | .candidateComplete now x1 x2 => Sys2Proof.Machine.execCandidateComplete now x1 x2 s
  | .plannerBudgetEnd now x1 => Sys2Proof.Machine.execPlannerBudgetEnd now x1 s
  | .solverUpdateSignal now x1 => Sys2Proof.Machine.execSolverUpdateSignal now x1 s
  | .solverBatchApply now x1 => Sys2Proof.Machine.execSolverBatchApply now x1 s
  | .applicationPoint now x1 => Sys2Proof.Machine.execApplicationPoint now x1 s
  | .iterationComplete now x1 x2 => Sys2Proof.Machine.execIterationComplete now x1 x2 s
  | .solveBudgetExpiry now x1 => Sys2Proof.Machine.execSolveBudgetExpiry now x1 s
  | .slotPeriodStart now x1 => Sys2Proof.Machine.execSlotPeriodStart now x1 s
  | .periodInEdge now x1 => Sys2Proof.Machine.execPeriodInEdge now x1 s
  | .edgeWindowExpiry now x1 => Sys2Proof.Machine.execEdgeWindowExpiry now x1 s
  | .inputLatch now x1 x2 => Sys2Proof.Machine.execInputLatch now x1 x2 s
  | .loopCompare now x1 => Sys2Proof.Machine.execLoopCompare now x1 s
  | .outputWrite now x1 x2 => Sys2Proof.Machine.execOutputWrite now x1 x2 s
  | .testRow now x1 x2 => Sys2Proof.Machine.execTestRow now x1 x2 s
  | .periodicPeriodStart now x1 => Sys2Proof.Machine.execPeriodicPeriodStart now x1 s
  | .hookTriggeredStart now x1 => Sys2Proof.Machine.execHookTriggeredStart now x1 s
  | .backgroundGrant now => Sys2Proof.Machine.execBackgroundGrant now s
  | .deadlineExpiry now x1 => Sys2Proof.Machine.execDeadlineExpiry now x1 s
  | .periodComplete now x1 => Sys2Proof.Machine.execPeriodComplete now x1 s
  | .preemptSaveDone now x1 => Sys2Proof.Machine.execPreemptSaveDone now x1 s
  | .resume now x1 => Sys2Proof.Machine.execResume now x1 s
  | .tileStart now x1 => Sys2Proof.Machine.execTileStart now x1 s
  | .loadW now x1 x2 => Sys2Proof.Machine.execLoadW now x1 x2 s
  | .arrayPass now x1 x2 => Sys2Proof.Machine.execArrayPass now x1 x2 s
  | .drain now x1 => Sys2Proof.Machine.execDrain now x1 s
  | .checksumCompare now x1 x2 => Sys2Proof.Machine.execChecksumCompare now x1 x2 s
  | .gateChain now x1 x2 x3 => Sys2Proof.Machine.execGateChain now x1 x2 x3 s
  | .meshSend now x1 x2 => Sys2Proof.Machine.execMeshSend now x1 x2 s
  | .sendAcknowledged now x1 => Sys2Proof.Machine.execSendAcknowledged now x1 s
  | .dmaIn now x1 x2 x3 => Sys2Proof.Machine.execDmaIn now x1 x2 x3 s
  | .dmaInLanded now x1 => Sys2Proof.Machine.execDmaInLanded now x1 s
  | .dmaOut now x1 x2 => Sys2Proof.Machine.execDmaOut now x1 x2 s
  | .dmaOutVisible now x1 => Sys2Proof.Machine.execDmaOutVisible now x1 s
  | .hookWait now x1 => Sys2Proof.Machine.execHookWait now x1 s
  | .hookWaitTry now x1 => Sys2Proof.Machine.execHookWaitTry now x1 s
  | .hookSignal now x1 => Sys2Proof.Machine.execHookSignal now x1 s
  | .hookWaitDone now x1 => Sys2Proof.Machine.execHookWaitDone now x1 s
  | .loopBody now x1 => Sys2Proof.Machine.execLoopBody now x1 s
  | .branchEpoch now x1 => Sys2Proof.Machine.execBranchEpoch now x1 s
  | .endProgram now x1 => Sys2Proof.Machine.execEndProgram now x1 s
  | .refillDone now x1 => Sys2Proof.Machine.execRefillDone now x1 s
  | .tileStopped now x1 => Sys2Proof.Machine.execTileStopped now x1 s
  | .tileScrub now x1 x2 x3 => Sys2Proof.Machine.execTileScrub now x1 x2 x3 s
  | .hookArraySignal now x1 x2 => Sys2Proof.Machine.execHookArraySignal now x1 x2 s
  | .hookArrayWait now x1 => Sys2Proof.Machine.execHookArrayWait now x1 s
  | .hookTry now x1 => Sys2Proof.Machine.execHookTry now x1 s
  | .hookArrayReset now x1 => Sys2Proof.Machine.execHookArrayReset now x1 s
  | .waitRetry now x1 x2 => Sys2Proof.Machine.execWaitRetry now x1 x2 s
  | .governorInterval now x1 => Sys2Proof.Machine.execGovernorInterval now x1 s
  | .trimUpdate now x1 => Sys2Proof.Machine.execTrimUpdate now x1 s
  | .junctionSensorRead now x1 => Sys2Proof.Machine.execJunctionSensorRead now x1 s
  | .thermalHoldExpiry now => Sys2Proof.Machine.execThermalHoldExpiry now s
  | .thermalRecovery now x1 => Sys2Proof.Machine.execThermalRecovery now x1 s
  | .powerOverrunPreempt now => Sys2Proof.Machine.execPowerOverrunPreempt now s
  | .powerLimitEvent now => Sys2Proof.Machine.execPowerLimitEvent now s
  | .droopDetect now x1 => Sys2Proof.Machine.execDroopDetect now x1 s
  | .domainIdleTimeout now x1 => Sys2Proof.Machine.execDomainIdleTimeout now x1 s
  | .domainOffDone now x1 => Sys2Proof.Machine.execDomainOffDone now x1 s
  | .domainOnDone now x1 => Sys2Proof.Machine.execDomainOnDone now x1 s
  | .patrolScrub now x1 x2 x3 => Sys2Proof.Machine.execPatrolScrub now x1 x2 x3 s
  | .demandScrub now x1 x2 x3 => Sys2Proof.Machine.execDemandScrub now x1 x2 x3 s
  | .persistRecord now => Sys2Proof.Machine.execPersistRecord now s
  | .lockstepMismatch now x1 => Sys2Proof.Machine.execLockstepMismatch now x1 s
  | .lecternLinkFault now => Sys2Proof.Machine.execLecternLinkFault now s
  | .clockCheck now x1 => Sys2Proof.Machine.execClockCheck now x1 s
  | .railOutOfRange now => Sys2Proof.Machine.execRailOutOfRange now s
  | .safePinReadback now x1 x2 => Sys2Proof.Machine.execSafePinReadback now x1 x2 s
  | .lecternStoreScrub now x1 => Sys2Proof.Machine.execLecternStoreScrub now x1 s
  | .watchdogKick now x1 => Sys2Proof.Machine.execWatchdogKick now x1 s
  | .watchdogExpiry now => Sys2Proof.Machine.execWatchdogExpiry now s
  | .startToken now => Sys2Proof.Machine.execStartToken now s
  | .resultToken now => Sys2Proof.Machine.execResultToken now s
  | .checkPointExpiry now x1 => Sys2Proof.Machine.execCheckPointExpiry now x1 s
  | .notification now => Sys2Proof.Machine.execNotification now s
  | .bucketLeak now => Sys2Proof.Machine.execBucketLeak now s
  | .selftestSchedule now x1 => Sys2Proof.Machine.execSelftestSchedule now x1 s
  | .sliceComplete now x1 x2 => Sys2Proof.Machine.execSliceComplete now x1 x2 s
  | .testOverdue now x1 => Sys2Proof.Machine.execTestOverdue now x1 s
  | .searchFails now x1 => Sys2Proof.Machine.execSearchFails now x1 s
  | .saveBegin now x1 => Sys2Proof.Machine.execSaveBegin now x1 s
  | .outputPortFree now x1 x2 => Sys2Proof.Machine.execOutputPortFree now x1 x2 s

end Sys2Proof.Machine
end

