-- ==== Sys2Proof/Safety.lean ====
section
/-!
DEFINITION. What a safe state of the device is, in the terms the statements use.
-/

namespace Sys2Proof.Machine

/-- While the safe state is held, both SAFE pins are commanded low (R685, R686). -/
def Device.pinsSafe (d : Device) : Prop := d.lect.safe = true → d.lect.pinA = false ∧ d.lect.pinB = false

/-- A cause of the safe state stands only while the safe state is held (R685, R687, R689). -/
def Device.causesHeld (d : Device) : Prop := d.lect.safe = false → d.lect.causes = 0

/-- The event queue holds no more than 256 events (R709). -/
def Device.eventsBounded (d : Device) : Prop := d.bur.win.events.length ≤ 256

/-- The Lectern log keeps at most 4,096 records (R655). -/
def Device.logBounded (d : Device) : Prop := d.lect.log.length ≤ 4096

/-- The banks have the sizes that the manual gives: 64 Drawers (R695), 68 power domains (R579), 12 inbound and 4
outbound ports (R352), 8 partitions (R560), 4 memory sets (R610) and 64 clients (R568). -/
def Device.shaped (d : Device) : Prop :=
  d.bur.drawers.length = 64 ∧ d.pow.doms.length = 68 ∧ d.ports.ins.length = 12 ∧ d.ports.outs.length = 4
    ∧ d.jobs.parts.length = 8 ∧ d.mem.sets.length = 4 ∧ d.jobs.clients.length = 64

/-- The Bureau runs. -/
def State.isUp (s : State) : Prop := s.dev.pow.phase = .up

/-- The Bureau runs, or the module is in standby, or its switchable domains are off: the host window answers (R580, R609). -/
def State.isAwake (s : State) : Prop :=
  s.dev.pow.phase = .up ∨ s.dev.pow.phase = .standby ∨ s.dev.pow.phase = .shut

/-- The Bureau has taken the command of a Drawer out of the queue of doorbells and noted when (R702, R707). -/
def Device.taken (d : Device) (n : Fin 64) : Device :=
  let d := { d with bur := { d.bur with queue := d.bur.queue.tail } }
  d.setDrawer n { d.drawer n with accepted := d.hub }

/-- Drawer `n` holds the next command, which has the opcode `op` (R702, R707). -/
def State.isNext (s : State) (n : Fin 64) (op : Nat) : Prop :=
  s.isAwake ∧ s.dev.bur.queue.head? = some n ∧ (s.dev.drawer n).state = .busy ∧ s.dev.cmdOpcode n = op

/-- The next command passes the checks of R704 and no earlier command is held for what it acts on (R578). -/
def State.accepts (s : State) (now : Time) (n : Fin 64) (op : Nat) : Prop :=
  s.isNext n op ∧ ((advance now s.dev).taken n).checkCommand n = none
    ∧ ((advance now s.dev).taken n).heldBefore n s.dev.bur.holds = false

/-- The Drawer command that a row stands for: its time, Drawer and opcode. OUTPUTS and STANDBY have a row for each value of
their parameter's bit 0 (R713). -/
def State.rowOf (s : State) : Instr → Option (Time × Fin 64 × Nat)
  | .hello now n => some (now, n, 0x0001)
  | .readMore now n => some (now, n, 0x0002)
  | .planLoad now n => some (now, n, 0x0101)
  | .planActivate now n => some (now, n, 0x0102)
  | .planUnload now n => some (now, n, 0x0103)
  | .planList now n => some (now, n, 0x0104)
  | .partitionSet now n => some (now, n, 0x0105)
  | .outputsEnable now n => if bitAt (imageAt (s.dev.drawer n).copy 16 8) 0 then some (now, n, 0x0106) else none
  | .outputsDisable now n => if bitAt (imageAt (s.dev.drawer n).copy 16 8) 0 then none else some (now, n, 0x0106)
  | .jobStart now n => some (now, n, 0x0201)
  | .jobStop now n => some (now, n, 0x0202)
  | .modeChange now n => some (now, n, 0x0203)
  | .streamBind now n => some (now, n, 0x0301)
  | .streamUnbind now n => some (now, n, 0x0302)
  | .outBind now n => some (now, n, 0x0303)
  | .groupSet now n => some (now, n, 0x0304)
  | .kvOpen now n => some (now, n, 0x0401)
  | .kvClose now n => some (now, n, 0x0402)
  | .kvRead now n => some (now, n, 0x0403)
  | .kvPageRead now n => some (now, n, 0x0404)
  | .slotSwapOut now n => some (now, n, 0x0405)
  | .slotSwapIn now n => some (now, n, 0x0406)
  | .slotWithdraw now n => some (now, n, 0x0407)
  | .mapUpdate now n => some (now, n, 0x0501)
  | .solverUpdate now n => some (now, n, 0x0502)
  | .solverInfo now n => some (now, n, 0x0503)
  | .memWrite now n => some (now, n, 0x0504)
  | .timeSamples now n => some (now, n, 0x0505)
  | .timeConvert now n => some (now, n, 0x0506)
  | .calRead now n => some (now, n, 0x0601)
  | .calWrite now n => some (now, n, 0x0602)
  | .selftestPolicy now n => some (now, n, 0x0603)
  | .safeRequest now n => some (now, n, 0x0604)
  | .safeRelease now n _ => some (now, n, 0x0605)
  | .lecternLog now n => some (now, n, 0x0606)
  | .powerLimit now n => some (now, n, 0x0701)
  | .telemetry now n => some (now, n, 0x0702)
  | .counters now n => some (now, n, 0x0703)
  | .memReport now n => some (now, n, 0x0704)
  | .tileCensus now n => some (now, n, 0x0705)
  | .standbyEnter now n => if bitAt (imageAt (s.dev.drawer n).copy 16 8) 0 then some (now, n, 0x0706) else none
  | .standbyLeave now n _ => if bitAt (imageAt (s.dev.drawer n).copy 16 8) 0 then none else some (now, n, 0x0706)
  | .serviceClear now n => some (now, n, 0x0707)
  | .fwUpdate now n => some (now, n, 0x0801)
  | .attest now n => some (now, n, 0x0802)
  | .identityRead now n => some (now, n, 0x0803)
  | .keyRevoke now n => some (now, n, 0x0804)
  | _ => none

/-- The state with another device: the queue is as it was. -/
def State.withDev (s : State) (d : Device) : State := { s with dev := d }

/-- The state after time has passed to `now` and `f` has acted on the device. -/
def State.timed (s : State) (now : Time) (f : Device → Device) : State := { s with dev := f (advance now s.dev) }

/-- The state after the Bureau has taken the command of Drawer `n` at `now` and carried out `f`. -/
def State.served (s : State) (now : Time) (n : Fin 64) (f : Device → Device) : State :=
  { s with dev := f ((advance now s.dev).taken n) }

/-- A BULK_REF that no check of R716 and R719 refuses: a port and a tag that exist, a length within the limit, a tag that no
stream uses, no transfer armed on the same words, and room among the 16 armed transfers. -/
def Device.bulkFits (d : Device) (ref : Image) (limit : Nat) : Prop :=
  BulkRef.port ref ≤ 11 ∧ BulkRef.tag ref ≤ 4095 ∧ 0 < BulkRef.length ref ∧ BulkRef.length ref ≤ limit
    ∧ d.ing.streams.find (BulkRef.tag ref) = none ∧ d.ing.feedback.find (BulkRef.tag ref) = none
    ∧ (∀ b ∈ d.bur.bulk, ¬ (b.port = BulkRef.port ref ∧ b.vc = BulkRef.vc ref ∧ b.tag = BulkRef.tag ref
        ∧ b.seq = BulkRef.seq ref))
    ∧ d.bur.bulk.length < 16

/-- The device with a transfer armed for Drawer `n` (R719): the transfer waits for its packets, with 100 ms where TIMEOUT_MS is
0, the Drawer stays BUSY and the port's domain is needed. -/
def Device.armed (d : Device) (n : Fin 64) (ref : Image) (dest : Option (Fin 8 × Nat × Nat)) : Device :=
  let b : Bulk :=
    { drawer := n, port := BulkRef.port ref, vc := BulkRef.vc ref, tag := BulkRef.tag ref, seq := BulkRef.seq ref,
      length := BulkRef.length ref, timeoutMs := if BulkRef.timeoutMs ref = 0 then 100 else BulkRef.timeoutMs ref,
      crc := BitVec.ofNat 32 (BulkRef.crc ref), got := [], last := d.hub, dest }
  (({ d with bur := { d.bur with bulk := d.bur.bulk ++ [b] } }).setDrawer n
    { d.drawer n with state := .busy, going := true }).needDom (0x20 + BulkRef.port ref)

/-- The key slots' revocation fields (R755): slot `k` is revoked. -/
def Device.revoked (d : Device) (k : Nat) : Prop := nth d.bur.nv.revoked k 0 ≠ 0

end Sys2Proof.Machine
end

