-- ==== Sys2Proof/Certificates/Slice0/Obligations.lean ====
section
/-!
DEFINITION. The statements for the provers. The obligations of the commands say, under conditions on the state and the operands
alone, which next state a command answers; `State.timed` and `State.served` say what the shared part of a command does.
-/

open Sys2Proof Sys2Proof.Machine

/-! ### The machine as a whole -/

/-- A step takes the command at the front of the queue and runs it on the state with the queue's rest. -/
def Obligations.StepRunsTheFrontCommand : Prop :=
  ∀ (c : Instr) (s : State), step { s with pending := c :: s.pending } = exec c s

/-- Every step answers a next state whose queue is the old queue without its front (model's choice for an empty queue,
log 2). No command stops the machine. -/
def Obligations.EveryStepAnswers : Prop :=
  ∀ s : State, ∃ t, step s = .next t ∧ t.pending = s.pending.tail

/-- The values that the manual gives for reset: STATUS shows SAFE alone (R696), NOT_READY is the only cause (R687), no
interface version is negotiated (R697), STEP is 1 and no fault bit is set (R698), HOST_ERR, the event queue and the Drawers are
empty (R695, R701), the policy and the limit record hold their reset values (R656, R589), the error logs are EMPTY (R629) and
no fuse of R755 is burnt. -/
def Obligations.ResetHoldsTheManualsValues : Prop :=
  let d := State.reset.dev
  d.statusReg = 4 ∧ d.lect.causes = 1 ∧ d.lect.firstStatus = 0 ∧ d.lect.firstSource = 0 ∧ d.bur.win.minorNeg = 0xFF
    ∧ d.bur.win.step = 1 ∧ d.bur.win.lastStatus = 0 ∧ d.bur.win.hostErrCount = 0 ∧ d.bur.win.hostErrLast = .none
    ∧ d.bur.win.events = [] ∧ d.bur.win.overflow = false ∧ d.bur.win.lost = 0 ∧ d.lect.digest = 0
    ∧ (∀ n, (d.drawer n).state = .idle ∧ (d.drawer n).status = 0 ∧ (d.drawer n).reply = [])
    ∧ d.lect.policy = { scrubHours := 4, bucketLimit := 3, leakS := 3600, hookGapUs := 100, tileDtiS := 3600,
                        engineDtiS := 3600, wdMs := 10, safetyMiss := 1, controlMiss := 2, reactSafe := 0x001D }
    ∧ d.pow.gov.limits = { tjTarget := 100, pLimitW := 150, iLimitMa := 0, margin := 5, floors := [900, 900, 600, 300] }
    ∧ (∀ m ∈ d.mem.sets, ∀ e ∈ m.log, e.kind = 3)

/-- The state after reset meets every invariant stated below. -/
def Obligations.ResetMeetsTheInvariants : Prop :=
  let d := State.reset.dev
  d.pinsSafe ∧ d.causesHeld ∧ d.eventsBounded ∧ d.logBounded ∧ d.mem.main.wf = true ∧ d.shaped

/-- While the safe state is held both SAFE pins are commanded low, and every step keeps that (R685, R686). No cause of the safe
state stands while the safe state is not held, and every step keeps that (R685, R687, R689). -/
def Obligations.StepKeepsTheSafeStateRules : Prop :=
  (∀ s t : State, s.dev.pinsSafe → step s = .next t → t.dev.pinsSafe)
  ∧ (∀ s t : State, s.dev.causesHeld → step s = .next t → t.dev.causesHeld)

/-- The event queue never holds more than 256 events (R708, R709). The Lectern log never holds more than its 4,096 records (R655,
R717). -/
def Obligations.StepKeepsQueueBounds : Prop :=
  (∀ s t : State, s.dev.eventsBounded → step s = .next t → t.dev.eventsBounded)
  ∧ (∀ s t : State, s.dev.logBounded → step s = .next t → t.dev.logBounded)

/-- Main memory stays in its canonical form, so that equal memories are equal data (R610, R614, R641; log 15). -/
def Obligations.StepKeepsMemoryCanonical : Prop :=
  ∀ s t : State, s.dev.mem.main.wf = true → step s = .next t → t.dev.mem.main.wf = true

/-- Every bank keeps the size that the manual gives it. -/
def Obligations.StepKeepsBankSizes : Prop :=
  ∀ s t : State, s.dev.shaped → step s = .next t → t.dev.shaped

/-- No command undoes a revocation of a key slot (R765), and the thermometer fuse only rises (R761). -/
def Obligations.StepNeverUndoesFuses : Prop :=
  ∀ s t : State, step s = .next t →
    (∀ k, s.dev.revoked k → t.dev.revoked k)
    ∧ ∀ i, s.dev.bur.nv.svnFuse.getLsbD i = true → t.dev.bur.nv.svnFuse.getLsbD i = true

/-- The safe state is left only by SAFE_RELEASE, only when every cause that blocks a release has cleared and no cause comes
in the same Lectern cycle; both pins then rise and the cause word is clear (R689). -/
def Obligations.SafeStateLeftOnlyByRelease : Prop :=
  ∀ s t : State, s.dev.lect.safe = true → step s = .next t → t.dev.lect.safe = false →
    ∃ now n, s.pending.head? = some (.safeRelease now n none) ∧ ((advance now s.dev).taken n).blocking = 0
      ∧ t.dev.lect.pinA = true ∧ t.dev.lect.pinB = true ∧ t.dev.lect.causes = 0

/-- Below the turn-on threshold every command but BATTERY_TURN_ON leaves the module as it is (R724, R800, R801; log 14). -/
def Obligations.NothingHappensWithoutPower : Prop :=
  ∀ (s : State) (c : Instr), s.dev.pow.phase = .off → (∀ now f, c ≠ .batteryTurnOn now f) → exec c s = .next s

/-! ### Drawers -/

/-- The next command of a Drawer that fails one of checks 1 to 7 of R704 only replies with the status of the first failure. A
Drawer's row that is not the next command of the Bureau changes nothing but time (R702, R707; log 1). The next command waits as
HELD while an earlier command is held for something that it acts on (R577, R578; log 21). -/
def Obligations.CommandsAreTakenInTurn : Prop :=
  (∀ (s : State) (c : Instr) (now : Time) (n : Fin 64) (op : Nat) (st : Status),
     s.rowOf c = some (now, n, op) → s.isNext n op → ((advance now s.dev).taken n).checkCommand n = some st →
     exec c s = .next { s with dev := ((advance now s.dev).taken n).fail n st })
  ∧ (∀ (s : State) (c : Instr) (now : Time) (n : Fin 64) (op : Nat),
       s.rowOf c = some (now, n, op) → ¬ s.isNext n op → exec c s = .next { s with dev := advance now s.dev })
  ∧ (∀ (s : State) (c : Instr) (now : Time) (n : Fin 64) (op : Nat),
       s.rowOf c = some (now, n, op) → s.isNext n op → ((advance now s.dev).taken n).checkCommand n = none →
       ((advance now s.dev).taken n).heldBefore n s.dev.bur.holds = true →
       exec c s = .next { s with dev := ((advance now s.dev).taken n).hold n })

/-- Ending a command: the Drawer is DONE with the status, the first 240 bytes of the reply and, where it is longer, the whole
of it up to 65,536 bytes (R701, R702, R706); its IBI is pending (R711, R712) and no other Drawer, event or unit changes. -/
def Obligations.ReplyEndsTheCommand : Prop :=
  ∀ (d : Device) (n : Fin 64) (st : Status) (bs : Bytes), d.bur.drawers.length = 64 →
    let e := d.reply n st bs
    (e.drawer n).state = .done ∧ (e.drawer n).status = st ∧ (e.drawer n).reply = bs.take 240
      ∧ (e.drawer n).long = (if bs.length > 240 then bs.take 65536 else []) ∧ (e.drawer n).area = (d.drawer n).area
      ∧ BitVec.ofNat 8 n.val ∈ e.bur.win.ibi ∧ n ∉ e.bur.queue ∧ n ∉ e.bur.holds
      ∧ (∀ m, m ≠ n → e.drawer m = d.drawer m)
      ∧ e = { d with bur := e.bur }
      ∧ e.bur = { d.bur with drawers := e.bur.drawers, queue := e.bur.queue, holds := e.bur.holds, win := e.bur.win }
      ∧ e.bur.win = { d.bur.win with ibi := e.bur.win.ibi }

/-! ### Hooks, events and memory -/

/-- R182: after a SIGNAL the Hook releases the head of the wait list while the count covers it, subtracting each time, and
no waiter overtakes an earlier one. -/
def Obligations.SignalReleasesInOrder : Prop :=
  ∀ (h h' : Hook) (n : Nat) (gone : List Waiter), h.signal n = some (h', gone) →
    gone ++ h'.waiters = h.waiters ∧ h'.count + (gone.map (·.n)).sum = h.count + n
      ∧ (∀ w, h'.waiters.head? = some w → h'.count < w.n) ∧ h'.retry = h.retry

/-- R183: a SIGNAL that would take the count above 16,777,215 leaves the count; the period of the signalling job, be it a tile's
or an engine's, is withheld with ST_HOOK_OVERFLOW, unless an earlier cause stands (R820), and the job is stopped. -/
def Obligations.SignalOverflowIsRefused : Prop :=
  ∀ (d : Device) (who : Requester) (h n : Nat), 16777215 < (d.hook h).count + n → n ≠ 0 →
    let e := d.signalHook who h n
    (e.hook h).count = (d.hook h).count
      ∧ ∀ j r p, d.hookAllowed who h = true → d.requesterJob who = some j → d.run j = some r → r.period = some p →
          ∃ r' p', e.run j = some r' ∧ r'.period = some p' ∧ r'.barred = true
            ∧ p'.cause = some (laterCause p.cause stHookOverflow d.hub)

/-- Bytes written through a partition's view read back where the view places them, and no other byte of main memory
changes (R614, R615), for a memory in its canonical form. -/
def Obligations.ViewWritesLandInPlace : Prop :=
  ∀ (d : Device) (p a : Nat) (bs : Bytes) (x : Nat), d.mem.main.wf = true →
    let e := d.writeViewBytes p a bs
    ((∀ i < bs.length, d.viewPhys p (a + i) ≠ some x) → e.mem.main.byte x = d.mem.main.byte x)
      ∧ ∀ i (hi : i < bs.length), d.viewPhys p (a + i) = some x →
          (∀ k < bs.length, k ≠ i → d.viewPhys p (a + k) ≠ some x) → e.mem.main.byte x = bs[i]

/-- A queued event takes the next number, joins the tail of the queue and is logged in EVENT_LOG; with 256 queued it is lost,
OVERFLOW is set and LOST counts it (R708, R709). -/
def Obligations.EventsQueueOrAreLost : Prop :=
  ∀ (d : Device) (st : Status) (sev : BitVec 2) (kind : BitVec 4) (src : BitVec 16) (detail : BitVec 112),
    let e := d.postEvent st sev kind src detail
    let ev : Event := { seq := d.bur.win.nextSeq, status := st, kind, severity := sev, source := src, time := d.hub, detail }
    e.bur.nv.eventLog.head? = some ev ∧ e.bur.win.nextSeq = nextEvt d.bur.win.nextSeq
      ∧ (d.bur.win.events.length < 256 → e.bur.win.events = d.bur.win.events ++ [ev] ∧ e.bur.win.lost = d.bur.win.lost)
      ∧ (256 ≤ d.bur.win.events.length → e.bur.win.events = d.bur.win.events ∧ e.bur.win.overflow = true
          ∧ e.bur.win.lost = sat32 (d.bur.win.lost + 1))
      ∧ e.lect = d.lect ∧ e.mem = d.mem ∧ e.jobs = d.jobs ∧ e.tiles = d.tiles ∧ e.bur.drawers = d.bur.drawers

/-! ### Power, reset and start-up -/

/-- BATTERY_TURN_ON and RESET_N_RELEASE run the power-up steps (R724, R728): with no image that starts the module is in recovery
with its pins low (R764); with one, the Bureau runs it on initialised memory with every domain on, activates the stored Plans,
sets READY and commits the fuse (R641, R726, R743, R761; the shape of step 7 is the model's, log 36, log 39). RECOVERY_PACKET
(R764): a good first or later packet of an image that is not yet whole is kept; a packet that does not continue the image
discards it. -/
def Obligations.StartUpAndRecoveryComplete : Prop :=
  (∀ (s : State) (now : Time) (f : BootFindings),
     (s.dev.pow.phase = .off → exec (.batteryTurnOn now f) s = .next { s with dev := (s.dev.powerUp now).bootFrom2 f })
     ∧ (s.dev.pow.phase = .held → exec (.resetNRelease now f) s = .next (s.timed now fun d => d.bootFrom2 f))
     ∧ (∀ d : Device, d.pinsSafe → d.lect.safe = true → d.bur.nv.startBank f = none →
         let e := d.bootFrom2 f
         e.pow.phase = .recovery ∧ e.bur.win.step = 3 ∧ e.bur.win.sigFault = true ∧ e.lect.safe = true
           ∧ e.lect.pinA = false ∧ e.lect.pinB = false ∧ e.bur.fwBank = none ∧ e.mem = d.mem)
     ∧ (∀ (d : Device) (b : Bool), d.bur.nv.startBank f = some b →
         ∃ e : Device, e.pow.phase = .up ∧ e.bur.fwBank = some b ∧ e.bur.fwImage = d.bur.nv.bank b
           ∧ e.bur.win.memFault = (f.setFail != 0) ∧ e.bur.win.checkerFault = !f.checkerOk
           ∧ (e.mem.main = { cells := [], undef := [], poison := [] } ∧ e.mem.sets.map (·.excluded)
               = (List.range 4).map fun k => f.setFail.getLsbD k)
           ∧ d.bootFrom2 f =
               (let r := (((((e.fenceAt .fenced ((d.bur.nv.persistCurrent.map (·.fences)).getD [])).lbist f).strapPorts).powerAll).startStoredPlans).reachReady.commitSvn
                if b = d.bur.nv.marked then r else r.event stFwFallback srcNone 0 0)))
  ∧ (∀ (s : State) (now : Time) (p : Pkt) (f : BootFindings), s.dev.pow.phase = .recovery →
       p.port.val = 0 → p.vc = 0 → p.dt = 0x37 → p.ecc ≠ .bad → p.crcOk = true → 16 ≤ p.payload.length →
       let h := imageAt p.payload 0 16
       let b := imageAt p.payload 16 16
       let got := s.dev.bur.recovery ++ p.payload.drop 32
       StrHdr.tag h = 0xFFF → StrHdr.kind h = 0x50 → StrHdr.seq h = 0 →
       ((rsvdZero h StrHdr.rsvd = true ∧ fld b 127 48 = 0 ∧ fld b 47 0 = s.dev.bur.recovery.length ∧ p.payload.drop 32 ≠ []
           ∧ StrHdr.isPartial h = true ∧ (got.length < 24 ∨ got.length < FwHdr.totalLen (imageAt got 0 128)) →
           exec (.recoveryPacket now p f) s = .next (s.timed now fun d => { d with bur := { d.bur with recovery := got } }))
         ∧ (fld b 47 0 ≠ s.dev.bur.recovery.length →
           exec (.recoveryPacket now p f) s = .next (s.timed now fun d => { d with bur := { d.bur with recovery := [] } }))
         ∧ (rsvdZero h StrHdr.rsvd = true ∧ fld b 127 48 = 0 ∧ fld b 47 0 = s.dev.bur.recovery.length ∧ p.payload.drop 32 ≠ []
           ∧ StrHdr.isPartial h = false ∧ 24 ≤ got.length ∧ got.length = FwHdr.totalLen (imageAt got 0 128)
           ∧ s.dev.bur.nv.fwCheck got = none →
           exec (.recoveryPacket now p f) s = .next (s.timed now fun d =>
             let e := d.holdReset
             ({ e with bur := { e.bur with nv := { e.bur.nv with fwA := got, marked := false } } }).bootFrom2 f))))

/-- RESET_N_ASSERT, BROWN_OUT and OVER_VOLTAGE_TRIP (R728, R801, R802): the safe state holds with both pins low; RESET_N keeps the
non-volatile store and the Lectern log, a brown-out leaves the unpowered module, and an over-voltage leaves only the always-on
set (log 37). STANDBY_ENTER, STANDBY_LEAVE and WAKE_EDGE (R609, R753, R797): entry disables the outputs, stops every job and
lets the domains go off; a leave, or a WAKE edge, runs the module again, and an edge during the entry is remembered (log 37). -/
def Obligations.SupplyAndStandbyComplete : Prop :=
  (∀ (s : State) (now : Time),
     (s.dev.pow.phase ≠ .off → ∃ t, exec (.resetNAssert now) s = .next t ∧ t.pending = s.pending
         ∧ t.dev.pow.phase = .held ∧ t.dev.lect.safe = true ∧ t.dev.lect.pinA = false ∧ t.dev.lect.pinB = false
         ∧ t.dev.lect.causes = 1 ∧ t.dev.lect.log = s.dev.lect.log ∧ t.dev.bur.nv = s.dev.bur.nv
         ∧ t.dev.bur.win = Window.reset ∧ (∀ k, t.dev.dom k = .off) ∧ t.dev.jobs = JobState.reset ∧ t.dev.mem = MemState.reset)
     ∧ (s.dev.pow.phase ≠ .off → ∃ t, exec (.brownOut now) s = .next t ∧ t.pending = s.pending
         ∧ t.dev.pow = Power.reset ∧ t.dev.lect = Lectern.reset ∧ t.dev.mem = MemState.reset ∧ t.dev.jobs = JobState.reset
         ∧ t.dev.bur.win = Window.reset ∧ t.dev.bur.nv.keyHash = s.dev.bur.nv.keyHash
         ∧ t.dev.bur.nv.plans = s.dev.bur.nv.plans)
     ∧ (s.isAwake → s.dev.pow.phase ≠ .shut → exec (.overVoltageTrip now) s = .next (s.timed now fun d =>
         let e := (List.range 68).foldl (fun (d : Device) k => (d.setDom k .off).loseDomain k)
           (d.lecternCause .supplyFault stSupplyFault)
         { e with pow := { e.pow with phase := .shut } })))
  ∧ (∀ (s : State) (now : Time) (n : Fin 64) (f : BootFindings),
       (s.accepts now n 0x0706 → bitAt (imageAt (s.dev.drawer n).copy 16 8) 0 = true → s.isUp →
           exec (.standbyEnter now n) s = .next (s.served now n fun d =>
             let e := ((((d.setDrawer n { d.drawer n with state := .busy, going := true }).disableOutputs).activeJobs.foldl
               Device.stopJob ((d.setDrawer n { d.drawer n with state := .busy, going := true }).disableOutputs)).settleStandby)
             if e.allOff then e.inStandby n else e))
       ∧ (s.accepts now n 0x0706 → bitAt (imageAt (s.dev.drawer n).copy 16 8) 0 = false → s.dev.pow.phase = .standby →
           exec (.standbyLeave now n f) s = .next (s.served now n fun d => d.leaveStandby (some n) f))
       ∧ (s.dev.pow.phase = .standby → exec (.wakeEdge now f) s = .next (s.timed now fun d => d.leaveStandby none f))
       ∧ (s.isUp → s.dev.enteringStandby.isSome = true → exec (.wakeEdge now f) s = .next (s.timed now fun d =>
           { d with pow := { d.pow with wake := some f } }))
       ∧ (∀ d : Device, d.allOff = true → let e := d.inStandby n
           e.pow.phase = .standby ∧ e.bur.win.standby = true ∧ e.lect = d.lect ∧ e.mem = d.mem))

/-! ### The host window -/

/-- HOST_WINDOW_WRITE (R691 to R694, R699, R702, R703) ends the read in progress; an address alone sets the read pointer; a write of more than 258 bytes
is discarded and counted; a doorbell for an IDLE or DONE Drawer copies its command area, makes it BUSY and queues it; one for a
BUSY or HELD Drawer is counted. -/
def Obligations.HostWindowWriteCompletes : Prop :=
  ∀ (s : State) (now : Time), s.isAwake →
    (∀ lo hi : Byte, exec (.hostWindowWrite now ⟨[lo, hi], .none⟩) s = .next (s.timed now fun d =>
        d.endRead.win fun w => { w with readAddr := hi ++ lo }))
    ∧ (∀ bytes : Bytes, 258 < bytes.length → exec (.hostWindowWrite now ⟨bytes, .none⟩) s = .next (s.timed now fun d =>
        d.endRead.win fun w => { w with hostErrCount := min 65535 (w.hostErrCount + 1), hostErrLast := .writeTooLong }))
    ∧ (∀ n : Fin 64, ((s.dev.drawer n).state = .idle ∨ (s.dev.drawer n).state = .done) →
        (cmdSpec (CmdHdr.opcode (imageAt (s.dev.drawer n).area 0 16))).isSome = true → s.dev.bur.drawers.length = 64 →
        exec (.hostWindowWrite now ⟨[0x40, 0x00, BitVec.ofNat 8 n.val], .none⟩) s = .next (s.timed now fun d =>
          let x := d.drawer n
          let e := d.endRead.setDrawer n { x with state := .busy, copy := x.area, status := 0, reply := [],
                                                  long := if CmdHdr.opcode (imageAt x.area 0 16) = 2 then x.long else [],
                                                  heldUs := 0, heldAt := none, accepted := d.hub, going := false }
          { e with bur := { e.bur with queue := e.bur.queue ++ [n] } }))
    ∧ (∀ n : Fin 64, ((s.dev.drawer n).state = .busy ∨ (s.dev.drawer n).state = .held) →
        exec (.hostWindowWrite now ⟨[0x40, 0x00, BitVec.ofNat 8 n.val], .none⟩) s = .next (s.timed now fun d => d.endRead.win fun w =>
          { w with hostErrCount := min 65535 (w.hostErrCount + 1), hostErrLast := .doorbellBusy }))

/-- R710: a write to EVENT_POP whose value equals EVT_SEQ of the head removes the head; any other value is ignored and
counted in HOST_ERR. -/
def Obligations.EventPopRemovesTheHead : Prop :=
  ∀ (s : State) (now : Time) (v : BitVec 32), s.isAwake →
    (∀ (e : Event) (rest : List Event), s.dev.bur.win.events = e :: rest → e.seq = v →
        exec (.eventPop now v) s = .next (s.timed now fun d => d.win fun w => { w with events := rest }))
    ∧ ((∀ e, s.dev.bur.win.events.head? = some e → e.seq ≠ v) →
        exec (.eventPop now v) s = .next (s.timed now fun d => d.win fun w =>
          { w with hostErrCount := min 65535 (w.hostErrCount + 1), hostErrLast := .popMismatch }))

/-- OVERFLOW_CLEAR clears OVERFLOW and LOST (R709); IBI_ACK takes the oldest pending IBI; IBI_RETRY raises one that was not
acknowledged again after 50 µs (R712). While IBIs are disabled the flags stay. COMMAND_HOLD_RELEASE (R577, R578; log 21): a held
command with no earlier held command in its way is carried out again and leaves HELD when it can; HELD_US is the time it was
held. -/
def Obligations.IbiAndHoldRowsComplete : Prop :=
  (∀ (s : State) (now : Time), s.isAwake →
     exec (.overflowClear now) s = .next (s.timed now fun d => d.win fun w => { w with overflow := false, lost := 0 })
     ∧ (s.dev.bur.win.ibiEnabled = true → exec (.ibiAck now) s = .next (s.timed now fun d => d.win fun w =>
         { w with ibi := w.ibi.tail, ibiRetryAt := none }))
     ∧ (s.dev.bur.win.ibiEnabled = false → exec (.ibiAck now) s = .next { s with dev := advance now s.dev }
         ∧ exec (.ibiRetry now) s = .next { s with dev := advance now s.dev })
     ∧ (s.dev.bur.win.ibiEnabled = true → s.dev.bur.win.ibi ≠ [] →
         (∀ t, s.dev.bur.win.ibiRetryAt = some t → reached (advance now s.dev).hub t = true) →
         exec (.ibiRetry now) s = .next (s.timed now fun d => d.win fun w =>
           { w with ibiRetryAt := some (d.hub + BitVec.ofNat 48 60000) })))
  ∧ (∀ (s : State) (now : Time) (n : Fin 64), s.isUp → (s.dev.drawer n).state = .held →
       (advance now s.dev).heldBefore n (s.dev.bur.holds.takeWhile (· != n)) = false →
       let d := advance now s.dev
       let us := match (d.drawer n).heldAt with
         | some t => min 16777215 (usBetween d.hub t)
         | none => 0
       let e := d.setDrawer n { d.drawer n with state := .busy, heldUs := us, heldAt := none }
       let e := ({ e with bur := { e.bur with holds := e.bur.holds.filter (· != n) } }).resumeCommand n
       (e.drawer n).state ≠ .held → exec (.commandHoldRelease now n) s = .next { s with dev := e })

/-- HELLO (R713, R697): with no other Drawer at work and a minor version in common it takes the highest one, clears HOST_ERR
and answers; READ_MORE (R706) returns up to 240 bytes of the long reply and keeps it. -/
def Obligations.HelloAndReadMoreComplete : Prop :=
  ∀ (s : State) (now : Time) (n : Fin 64),
    (s.accepts now n 0x0001 →
        let d := (advance now s.dev).taken n
        let p := d.params n
        let lo := max (fld p 15 8) Config.fwMinorMin.toNat
        let hi := min (fld p 23 16) Config.fwMinorMax.toNat
        d.othersBusy n = false → fld p 7 0 = 1 → lo ≤ hi →
        exec (.hello now n) s = .next (s.served now n fun d =>
          (d.win fun w => { w with minorNeg := BitVec.ofNat 8 hi, negotiated := true, hostErrCount := 0,
                                   hostErrLast := .none }).reply n stOk
            (natLE (mkImage [(0, 8, 1), (8, 8, hi), (16, 16, 64), (32, 32, d.fwVersion), (64, 64, Config.serial.toNat)]) 16)))
    ∧ (s.accepts now n 0x0002 → exec (.readMore now n) s = .next (s.served now n fun d =>
        let e := d.reply n stOk (slice (d.drawer n).long (fld (d.params n) 16 0) 240)
        e.setDrawer n { e.drawer n with long := (d.drawer n).long }))

/-! ### Plans and partitions -/

/-- PLAN_LOAD (R736, R737, R743): from the host it arms its transfer; from the store a Plan that passes the checks is loaded
under the next handle and the reply gives the handle, the partitions and the digest. PLAN_UNLOAD removes a Plan that nothing
uses, from the store too where it is asked; PLAN_LIST lists the loaded Plans (log 53). -/
def Obligations.PlanTableRowsComplete : Prop :=
  ∀ (s : State) (now : Time) (n : Fin 64),
    let d := (advance now s.dev).taken n
    let p := d.params n
    (s.accepts now n 0x0101 → d.jobs.plans.length < 16 → s.dev.bur.drawers.length = 64 →
        (bitAt p 1 = false → d.bulkFits (fld p 383 128) (2 ^ 30) →
          exec (.planLoad now n) s = .next (s.served now n fun d => d.armed n (fld p 383 128) none))
        ∧ (∀ x, bitAt p 1 = true → bitAt p 0 = false →
          d.bur.nv.plans.find? (fun x => x.storeId == BitVec.ofNat 32 (fld p 63 32)) = some x →
          d.planCheck x.bytes x.bytes.length = none →
          exec (.planLoad now n) s = .next (s.served now n fun d =>
            let pl : LoadedPlan := { handle := d.jobs.nextHandle, bytes := x.bytes, digest := sha256 (planSigned x.bytes),
                                     keySlot := BitVec.ofNat 2 (PlanHdr.keySlot (planHdr x.bytes)),
                                     storeId := some (BitVec.ofNat 32 (fld p 63 32)) }
            ({ d with jobs := { d.jobs with plans := d.jobs.plans ++ [pl], nextHandle := d.jobs.nextHandle + 1 } }).reply n stOk
              (natLE (mkImage [(0, 16, pl.handle.toNat), (16, 8, PlanHdr.partMask (planHdr x.bytes)),
                (64, 64, leNat (pl.digest.take 8))]) 16))))
    ∧ (s.accepts now n 0x0103 → ∀ pl, d.plan (BitVec.ofNat 16 (fld p 15 0)) = some pl →
        d.planInUse (BitVec.ofNat 16 (fld p 15 0)) = false →
        exec (.planUnload now n) s = .next (s.served now n fun d =>
          let plans := match pl.storeId with
            | some id => if bitAt p 16 then d.bur.nv.plansBut id else d.bur.nv.plans
            | none => d.bur.nv.plans
          ({ d with jobs := { d.jobs with plans := d.jobs.plans.filter fun q => q.handle != BitVec.ofNat 16 (fld p 15 0) }
                    bur := { d.bur with nv := { d.bur.nv with plans } } }).reply n stOk []))
    ∧ (s.accepts now n 0x0104 → exec (.planList now n) s = .next (s.served now n fun d =>
        d.reply n stOk (d.jobs.plans.flatMap d.planEntry)))

/-- PLAN_ACTIVATE, PARTITION_QUIESCED and PARTITION_SET (R573, R574): an activation that passes its checks begins the boundary of
its partitions; once all of them are quiet the Plan is installed in them together; a repair boundary runs step 4 and ends; a
record for a partition without an active Plan waits for the next PLAN_ACTIVATE (log 38). -/
def Obligations.BoundaryRowsComplete : Prop :=
  ∀ (s : State) (now : Time) (n : Fin 64),
    let d := (advance now s.dev).taken n
    (s.accepts now n 0x0102 → ∀ pl,
        let p := d.params n
        let h := BitVec.ofNat 16 (fld p 15 0)
        let ps := (List.range 8).filter fun i => bitAt (fld p 23 16) i
        d.plan h = some pl → ps ≠ [] → (∀ i ∈ ps, bitAt (PlanHdr.partMask (planHdr pl.bytes)) i = true) →
        (∀ i ∈ ps, d.changing i = false) → d.activationFault ps h = none →
        exec (.planActivate now n) s = .next (s.served now n fun d =>
          ps.foldl (fun (d : Device) i => d.beginBoundary i (.activate n h))
            ((d.setDrawer n { d.drawer n with state := .busy, going := true }).stopRemoved (d.withPlan ps h) ps)))
    ∧ (∀ (k : Fin 8) (m : Fin 64) (h : BitVec 16) (since : Time), s.isUp →
        let d := advance now s.dev
        (d.part k).boundary = some { kind := .activate m h, since } →
        let ps := d.sameBoundary (.activate m h)
        (∀ q ∈ ps, d.quiet q = true ∧ d.slotsQuiet (d.withPlan ps h) q = true) →
        exec (.partitionQuiesced now k) s = .next (s.timed now fun d => d.finishActivation m ps h false))
    ∧ (∀ (k : Fin 8) (since : Time), s.isUp → (s.dev.part k).boundary = some { kind := .repair, since } →
        (advance now s.dev).quiet k = true →
        exec (.partitionQuiesced now k) s = .next (s.timed now fun d =>
          (((d.boundaryStep4 k).endBoundary [k.val]).startPlanners).settleStarts))
    ∧ (s.accepts now n 0x0105 →
        let x := d.params n % 2 ^ 256
        let k := PartRec.part x
        partOk d x = true → partsApart (x :: (List.range 8).filterMap fun i =>
          if i ≠ k ∧ (d.part i).active.isSome then (d.part i).record else none) = true →
        d.changing k = false → (d.part k).active = none →
        exec (.partitionSet now n) s = .next (s.served now n fun d =>
          (d.setPart k { d.part k with next := some x }).reply n stOk []))

/-- OUTPUTS_ENABLE (R730) sets OUTPUTS_ENABLED and starts the jobs that start by themselves; with READY set NOT_READY clears.
OUTPUTS_DISABLE (R731) clears it, enters the safe state and stops the Control Engine's jobs. -/
def Obligations.OutputRowsComplete : Prop :=
  ∀ (s : State) (now : Time) (n : Fin 64),
    let d := (advance now s.dev).taken n
    (s.accepts now n 0x0106 → bitAt (imageAt (s.dev.drawer n).copy 16 8) 0 = true → bitAt (d.params n) 0 = true →
        s.dev.bur.win.planFault = false → s.dev.bur.win.sigFault = false → s.dev.bur.win.checkerFault = false →
        s.dev.bur.win.lecternFault = false → d.inProgress n [0x0101, 0x0102, 0x0105] = false → d.ceStopping = false →
        exec (.outputsEnable now n) s = .next (s.served now n fun d =>
          let e := (d.watchStatus fun d => d.win fun w => { w with outputsEnabled := true }).autoStart (List.range 8)
          (if e.bur.win.ready && e.bur.win.outputsEnabled then e.clearCause .notReady else e).reply n stOk []))
    ∧ (s.accepts now n 0x0106 → bitAt (imageAt (s.dev.drawer n).copy 16 8) 0 = false → bitAt (d.params n) 0 = false →
        exec (.outputsDisable now n) s = .next (s.served now n fun d =>
          let e := (d.watchStatus fun d => d.win fun w => { w with outputsEnabled := false }).enterQuiet .notReady
          (((e.activeJobs.filter fun r => r.engine == 5).foldl Device.stopJob e).settlePorts).reply n stOk []))

/-- JOB_START starts a job of an active Plan that does not run, JOB_STOP stops a started job and keeps its Drawer BUSY, each
answers at once where the job is already so, and MODE_CHANGE gives the named partitions their new epoch and waits for the units at work in the old one (R531, R535, R569 to R571,
R577; log 21). -/
def Obligations.JobCommandsComplete : Prop :=
  ∀ (s : State) (now : Time) (n : Fin 64),
    let d := (advance now s.dev).taken n
    (∀ r, s.accepts now n 0x0201 → d.job (BitVec.ofNat 16 (fld (d.params n) 15 0)) = some r → d.enteringStandby = none →
        (r.engine = 5 → s.dev.bur.win.outputsEnabled = true) →
        ((∀ x, d.run r.id = some x → x.stopping = false ∧ x.period = none ∧ (x.started = false ∨ x.barred = true)) →
          exec (.jobStart now n) s = .next (s.served now n fun d => (d.startJob r).reply n stOk []))
        ∧ (∀ x, d.run r.id = some x → x.stopping = false → x.started = true → x.barred = false →
          exec (.jobStart now n) s = .next (s.served now n fun d => d.reply n stOk [])))
    ∧ (∀ r, s.accepts now n 0x0202 → d.job (BitVec.ofNat 16 (fld (d.params n) 15 0)) = some r →
        (∀ x, d.run r.id = some x → x.started = false) →
        exec (.jobStop now n) s = .next (s.served now n fun d => d.reply n stOk []))
    ∧ (∀ r x, s.accepts now n 0x0202 → d.job (BitVec.ofNat 16 (fld (d.params n) 15 0)) = some r → d.run r.id = some x →
        x.started = true → exec (.jobStop now n) s = .next (s.served now n fun d =>
          (d.setDrawer n { d.drawer n with state := .busy, going := true }).stopJob r))
    ∧ (s.accepts now n 0x0203 →
        let ps := (List.range 8).filter fun i => bitAt (fld (d.params n) 7 0) i
        let e := BitVec.ofNat 16 (fld (d.params n) 31 16)
        ps ≠ [] → (∀ p ∈ ps, (d.part p).record.isSome = true ∧ (d.part p).epoch ≠ e ∧ (d.part p).mode = none) →
        exec (.modeChange now n) s = .next (s.served now n fun d =>
          let d := d.setDrawer n { d.drawer n with state := .busy, going := true }
          let parts := d.jobs.parts.zipIdx.map fun (x : Partition × Nat) =>
            if ps.contains x.2 then { x.1 with epoch := e, mode := some (d.oldUnits x.2 n) } else x.1
          ({ d with jobs := { d.jobs with parts } }).finishModes))

/-! ### Streams, KV streams and state slots -/

/-- STREAM_BIND of a feedback tag binds it at once and of a decoded stream leaves its descriptor pending for the next frame or
sample, with DESC_HOOK 0 and FREE_HOOK SLOTS where the destination before did not have the Hook (R263, R264, R298, R787; log 27,
log 64); STREAM_UNBIND takes a binding
away, at the next frame for a decoded stream (R264, R713). OUT_BIND binds an outbound tag to a port, VC and data type (R778);
GROUP_SET sets an aligned group up, replaces it, or with no members takes it away (R308; log 28). -/
def Obligations.StreamCommandsComplete : Prop :=
  (∀ (s : State) (now : Time) (n : Fin 64),
     let d := (advance now s.dev).taken n
     let x := d.params n % 2 ^ 640
     let tag := StreamDesc.tag x
     (s.accepts now n 0x0301 → (StreamDesc.dt x = 0x33 ∨ StreamDesc.dt x = 0x34) → x / 2 ^ 4 % 2 ^ 4 + x / 2 ^ 48 = 0 →
         StreamDesc.port x ≤ 11 → tag ≤ 4095 → (StreamDesc.vc x ≤ 15 ∨ Config.strapPhy (StreamDesc.port x) = true) →
         d.boundElsewhere x = false → (d.inboundCount < 4096 ∨ d.boundIn tag = true) →
         exec (.streamBind now n) s = .next (s.served now n fun d =>
           (({ d with ing := { d.ing with feedback := d.ing.feedback.put tag x } }).settleDomains).reply n stOk []))
     ∧ (∀ r dest, s.accepts now n 0x0301 → StreamDesc.dt x ≠ 0x33 → StreamDesc.dt x ≠ 0x34 →
         decoderDt (StreamDesc.decoder x) = some (StreamDesc.dt x) → StreamDesc.rangesOk x = true →
         StreamDesc.sizesOk x = true → StreamDesc.fieldsOk x = true → d.boundElsewhere x = false →
         (StreamDesc.testLines x = true → (d.testLine tag).isSome = true) → d.streamDest x = some (r, dest) →
         destFits x dest = true → (d.inboundCount < 4096 ∨ d.boundIn tag = true) →
         let y := (d.stream (BitVec.ofNat 12 tag)).getD Stream.fresh
         y.pending ≠ some none → exec (.streamBind now n) s = .next (s.served now n fun d =>
           let e := d.setStream (BitVec.ofNat 12 tag) { y with pending := some (some x) }
           let old := (y.boundDesc.bind d.streamDest).map (·.2)
           let kept := fun h => old.any fun o => DestRec.descHook o == h || DestRec.freeHook o == h
           let e := if kept (DestRec.descHook dest) then e else e.initHook (DestRec.descHook dest) 0
           let e := if kept (DestRec.freeHook dest) then e else e.initHook (DestRec.freeHook dest) (DestRec.slots dest)
           e.settleDomains.reply n stOk []))
     ∧ (s.accepts now n 0x0302 →
         let p := d.params n
         let k := fld p 15 0
         (bitAt p 16 = true → exec (.streamUnbind now n) s = .next (s.served now n fun d =>
           (({ d with ports := { d.ports with outBinds := d.ports.outBinds.del k } }).settleDomains).reply n stOk []))
         ∧ (bitAt p 16 = false → (d.ing.feedback.find k).isSome = true →
           exec (.streamUnbind now n) s = .next (s.served now n fun d =>
             (({ d with ing := { d.ing with feedback := d.ing.feedback.del k } }).settleDomains).reply n stOk []))
         ∧ (∀ y, bitAt p 16 = false → d.ing.feedback.find k = none → d.ing.streams.find k = some y → y.desc.isSome = true →
           exec (.streamUnbind now n) s = .next (s.served now n fun d =>
             ({ d with ing := { d.ing with streams := d.ing.streams.put k { y with pending := some none } } }).reply n stOk []))
         ∧ (∀ y, bitAt p 16 = false → d.ing.feedback.find k = none → d.ing.streams.find k = some y → y.desc = none →
           exec (.streamUnbind now n) s = .next (s.served now n fun d =>
             ((({ d with ing := { d.ing with streams := d.ing.streams.put k { y with pending := none } } }).settleStream
               (BitVec.ofNat 12 k)).settleDomains).reply n stOk []))
         ∧ (bitAt p 16 = false → d.ing.feedback.find k = none → d.ing.streams.find k = none →
           exec (.streamUnbind now n) s = .next (s.served now n fun d => d.reply n stOk []))))
  ∧ (∀ (s : State) (now : Time) (n : Fin 64),
       let d := (advance now s.dev).taken n
       (s.accepts now n 0x0303 →
           let p := d.params n
           let b : Fin 4 × BitVec 4 × BitVec 6 := (⟨fld p 17 16 % 4, Nat.mod_lt _ (by decide)⟩, BitVec.ofNat 4 (fld p 22 18),
             BitVec.ofNat 6 (fld p 29 24))
           let e := { d with ports := { d.ports with outBinds := d.ports.outBinds.put (fld p 15 0) b } }
           fld p 15 0 ≤ 4095 → fld p 22 18 ≤ 15 → 0x30 ≤ fld p 29 24 → fld p 29 24 ≤ 0x33 → e.outboundOk = true →
           exec (.outBind now n) s = .next { s with dev := e.settleDomains.reply n stOk [] })
       ∧ (s.accepts now n 0x0304 →
           let x := d.params n % 2 ^ 128
           (GroupRec.members x = 0 → exec (.groupSet now n) s = .next (s.served now n fun d =>
             ({ d with ing := { d.ing with groups := d.ing.groups.del (GroupRec.group x) } }).reply n stOk []))
           ∧ (GroupRec.members x ≠ 0 → GroupRec.refPort x ≤ 11 → GroupRec.window x ≠ 0 → GroupRec.ring x % 256 = 0 →
             GroupRec.hook x < 16384 → exec (.groupSet now n) s = .next (s.served now n fun d =>
               let g : Group := { record := x, seq := 0, instances := [] }
               ({ d with ing := { d.ing with groups := d.ing.groups.put (GroupRec.group x) g } }).reply n stOk []))))

/-- KV_OPEN records a stream whose range of page-table entries is free, KV_CLOSE takes it away
when no step uses it and stays BUSY while one does, KV_READ
returns its record and KV_PAGE_READ entries of the page table (R210 to R212, R713). -/
def Obligations.KvRowsComplete : Prop :=
  ∀ (s : State) (now : Time) (n : Fin 64),
    let d := (advance now s.dev).taken n
    let p := d.params n
    (s.accepts now n 0x0401 →
        let x : KvStream := { record := fld p 127 64, part := ⟨fld p 18 16 % 8, Nat.mod_lt _ (by decide)⟩ }
        fld p 15 0 ≤ 4095 → d.kvStream (fld p 15 0) = none → 1 ≤ KvRec.ppl x.record → KvRec.ppl x.record ≤ 1024 →
        1 ≤ KvRec.layers x.record → KvRec.layers x.record ≤ 128 → KvRec.length x.record = 0 →
        KvRec.base x.record + x.entries ≤ 262144 → (d.part x.part.val).record.isSome = true →
        (∀ e ∈ d.seq.streams, KvRec.base x.record + x.entries ≤ KvRec.base e.2.record
          ∨ KvRec.base e.2.record + e.2.entries ≤ KvRec.base x.record) →
        exec (.kvOpen now n) s = .next (s.served now n fun d =>
          ({ d with seq := { d.seq with streams := d.seq.streams.put (fld p 15 0) x } }).reply n stOk []))
    ∧ (s.accepts now n 0x0402 → (d.kvStream (fld p 15 0)).isSome = true → d.streamBusy (fld p 15 0) = false →
        exec (.kvClose now n) s = .next (s.served now n fun d => (d.closeStream (fld p 15 0)).reply n stOk []))
    ∧ (s.accepts now n 0x0402 → (d.kvStream (fld p 15 0)).isSome = true → d.streamBusy (fld p 15 0) = true →
        exec (.kvClose now n) s = .next (s.served now n fun d =>
          d.setDrawer n { d.drawer n with state := .busy, going := true }))
    ∧ (∀ x, s.accepts now n 0x0403 → d.kvStream (fld p 15 0) = some x →
        exec (.kvRead now n) s = .next (s.served now n fun d => d.reply n stOk (natLE x.record 8)))
    ∧ (s.accepts now n 0x0404 → 1 ≤ fld p 31 18 → fld p 31 18 ≤ 8192 → fld p 17 0 + fld p 31 18 ≤ 262144 →
        exec (.kvPageRead now n) s = .next (s.served now n fun d =>
          d.reply n stOk ((List.range (fld p 31 18)).flatMap fun i => natLE (d.seq.pages.getD (fld p 17 0 + i) 0) 8)))

/-- State slots (R243 to R250): the chunks that have queued at the job's Hook join the slot's queue first; then a swap-out or
swap-in of a slot that is already there replies at once, another waits in the
slot's queue with its Drawer BUSY; SLOT_WITHDRAW returns the chunks that have not started; the end of a swap-out leaves the slot
SWAPPED with its slices at the swap home, or where it was when they cannot be read (log 45), the end of a swap-in brings them back, or leaves it SWAPPED where they cannot be read. -/
def Obligations.StateSlotRowsComplete : Prop :=
  ∀ (s : State) (now : Time) (n : Fin 64),
    let d := (advance now s.dev).taken n
    let k := fld (d.params n) 11 0
    (∀ r rec', s.accepts now n 0x0405 → d.slotRec k = some (r, rec') →
        let x := (d.syncChunks r).stSlot k
        ((x.phase = .swapped ∨ x.phase = .free) → x.queue = [] →
          exec (.slotSwapOut now n) s = .next (s.served now n fun d => (d.syncChunks r).reply n stOk []))
        ∧ (¬ ((x.phase = .swapped ∨ x.phase = .free) ∧ x.queue = []) →
          exec (.slotSwapOut now n) s = .next (s.served now n fun d =>
            let e := d.syncChunks r
            ((e.setDrawer n { e.drawer n with state := .busy, going := true }).setStSlot k
              { x with queue := x.queue ++ [.swapOut n] }).runSlot k)))
    ∧ (∀ r rec', s.accepts now n 0x0406 → d.slotRec k = some (r, rec') →
        let x := (d.syncChunks r).stSlot k
        ((x.phase = .resident ∨ x.phase = .held ∨ x.phase = .free) → (∀ m, SlotReq.swapOut m ∉ x.queue) →
          exec (.slotSwapIn now n) s = .next (s.served now n fun d => (d.syncChunks r).reply n stOk []))
        ∧ ((x.phase = .swapped ∨ x.phase = .swappingOut ∨ x.phase = .swappingIn ∨ ∃ m, SlotReq.swapOut m ∈ x.queue) →
          exec (.slotSwapIn now n) s = .next (s.served now n fun d =>
            let e := d.syncChunks r
            ((e.setDrawer n { e.drawer n with state := .busy, going := true }).setStSlot k
              { x with queue := x.queue ++ [.swapIn n] }).runSlot k)))
    ∧ (∀ r rec', s.accepts now n 0x0407 → d.slotRec k = some (r, rec') →
        let x := (d.syncChunks r).stSlot k
        exec (.slotWithdraw now n) s = .next (s.served now n fun d =>
          let e := d.syncChunks r
          let later := match e.run r.id with
            | some u => x.waiting u.nextSeq
            | none => 0
          let y : StateSlot := { x with skip := x.skip + later, queue := x.queue.filter fun q => !(isChunk q && !isStarted q) }
          ((((e.setStSlot k y.requeued).dropUnits r).runSlot k).reply n stOk
            ((x.queue.filter fun q => isChunk q && !isStarted q).flatMap chunkBytes)).settleStarts))
    ∧ (∀ (j : Fin 4096) r rec' errs e bs bad, s.isUp → (s.dev.stSlot j).phase = .swappingOut →
        s.dev.slotRec j = some (r, rec') →
        (advance now s.dev).readSlices errs (Config.slotSlices r.plan.bytes j) = (e, bs, bad) →
        let y : StateSlot := { s.dev.stSlot j with busyFor := none }
        let f := if bad = true then e.setStSlot j y.settled
          else (e.writeLines r.part (SlotRec.home rec') bs).setStSlot j { y with phase := .swapped }
        (∀ m, (s.dev.stSlot j).busyFor = some m → exec (.swapOutDone now ⟨j, errs⟩) s = .next (s.withDev (
          ((f.reply m (if bad then stUncorrectable else stOk) []).runSlot j).settleStarts)))
        ∧ ((s.dev.stSlot j).busyFor = none → exec (.swapOutDone now ⟨j, errs⟩) s = .next (s.withDev ((f.runSlot j).settleStarts))))
    ∧ (∀ (j : Fin 4096) r rec', s.isUp → (s.dev.stSlot j).phase = .swappingIn → s.dev.slotRec j = some (r, rec') →
        let c := ((Config.slotSlices r.plan.bytes j).map (·.2.2)).foldl (· + ·) 0
        let g := (advance now s.dev).hubRead r.part (SlotRec.home rec') c
        let x := s.dev.stSlot j
        let back := g.1.restoreSlices (g.1.readView r.part (SlotRec.home rec') c) (Config.slotSlices r.plan.bytes j)
        let gone : StateSlot := { x with phase := .swapped, busyFor := none }
        let here : StateSlot := ({ x with busyFor := none } : StateSlot).settled
        (∀ m ue, x.busyFor = some m → (g.2 || ue) = true → exec (.swapInDone now j ue) s = .next (s.withDev (
          (((g.1.setStSlot j gone).reply m stUncorrectable []).runSlot j).settleStarts)))
        ∧ (∀ m, x.busyFor = some m → g.2 = false → exec (.swapInDone now j false) s = .next (s.withDev (
          (((back.setStSlot j here).reply m stOk []).runSlot j).settleStarts)))
        ∧ (∀ ue, x.busyFor = none → (g.2 || ue) = true → exec (.swapInDone now j ue) s = .next (s.withDev (
          let e := if x.queue.head?.any isChunk then g.1.modPeriod r.id fun p => { p with removed := p.removed + 1 } else g.1
          let next := ((g.1.run r.id).map fun u => u.nextSeq).getD 0
          (((e.setStSlot j (gone.dropHead stUncorrectable next)).dropUnits r).runSlot j).settleStarts)))
        ∧ (x.busyFor = none → g.2 = false → exec (.swapInDone now j false) s = .next (s.withDev (
          ((back.setStSlot j here).runSlot j).settleStarts))))

/-! ### Bulk transfers, reports and records -/

/-- MAP_UPDATE, SOLVER_UPDATE, MEM_WRITE and FW_UPDATE arm their transfers (R407, R470, R722, R750, R716, R719); the limit of
MEM_WRITE is the rest of the view. BULK_PACKET (R720): a packet that continues its transfer adds its bytes, and the whole lines
that have arrived of a MEM_WRITE are written; the last one, with the whole length, ends the transfer. BULK_TIMEOUT ends a
transfer whose packets stopped with ST_TIMEOUT (R721). -/
def Obligations.BulkTransfersComplete : Prop :=
  (∀ (s : State) (now : Time) (n : Fin 64),
     let d := (advance now s.dev).taken n
     let p := d.params n
     (s.accepts now n 0x0501 → d.eng.shelf.desc.isSome = true → d.bulkFits (fld p 255 0) 1572896 →
         exec (.mapUpdate now n) s = .next (s.served now n fun d => d.armed n (fld p 255 0) none))
     ∧ (s.accepts now n 0x0502 → (d.solver (BitVec.ofNat 16 (fld p 15 0))).isSome = true →
         d.bulkFits (fld p 383 128) 4194336 →
         exec (.solverUpdate now n) s = .next (s.served now n fun d => d.armed n (fld p 383 128) none))
     ∧ (∀ r, s.accepts now n 0x0504 → (d.part (fld p 2 0)).record = some r → (d.part (fld p 2 0)).active.isSome = true →
         fld p 111 64 % 256 = 0 → d.bulkFits (fld p 383 128) (PartRec.memGib r * 2 ^ 30 - fld p 111 64) →
         exec (.memWrite now n) s = .next (s.served now n fun d => d.armed n (fld p 383 128)
           (some (⟨fld p 2 0 % 8, Nat.mod_lt _ (by decide)⟩, fld p 111 64, 0))))
     ∧ (s.accepts now n 0x0801 → d.inProgress n [0x0801] = false → d.bulkFits (fld p 383 128) (2 ^ 28) →
         exec (.fwUpdate now n) s = .next (s.served now n fun d => d.armed n (fld p 383 128) none)))
  ∧ (∀ (s : State) (now : Time),
       (∀ (p : Pkt) (e : Device) (h : Image) (b : Bulk), s.isUp → p.dt = 0x37 →
           (advance now s.dev).arrive p = (e, .ok h) →
           e.bur.bulk.find? (fun b => b.port == p.port.val && b.vc == p.vc.toNat && b.tag == StrHdr.tag h
             && b.seq == StrHdr.seq h) = some b →
           fld (imageAt p.payload 16 16) 47 0 = b.got.length → p.payload.drop 32 ≠ [] →
           fld (imageAt p.payload 16 16) 127 48 = 0 →
           let w := e.writeArrived { b with got := b.got ++ p.payload.drop 32, last := e.hub } false
           (StrHdr.isPartial h = true → b.got.length + (p.payload.drop 32).length ≤ b.length →
             exec (.bulkPacket now p) s = .next { s with dev := w.1.setBulk w.2 })
           ∧ (StrHdr.isPartial h = false → b.got.length + (p.payload.drop 32).length = b.length →
             exec (.bulkPacket now p) s = .next { s with dev := (w.1.setBulk w.2).finishBulk w.2 }))
       ∧ (∀ (n : Fin 64) (b : Bulk), s.isUp → s.dev.bur.bulk.find? (fun b => b.drawer == n) = some b →
           reached (advance now s.dev).hub (addT b.last (1200000 * b.timeoutMs)) = true →
           exec (.bulkTimeout now n) s = .next (s.timed now fun d => d.failBulk b 0x2003)))

/-- Commands that only report (R713): TIME_SAMPLES and TIME_CONVERT (which also make Fusion needed, R356), SOLVER_INFO, CAL_READ, LECTERN_LOG, MEM_REPORT,
TILE_CENSUS, COUNTERS, IDENTITY_READ and ATTEST answer with the bytes; MEM_REPORT and COUNTERS with CLEAR then clear what they
reported, and nothing else changes. -/
def Obligations.ReportsComplete : Prop :=
  ∀ (s : State) (now : Time) (n : Fin 64),
    let d := (advance now s.dev).taken n
    let p := d.params n
    (s.accepts now n 0x0505 → isDomain (fld p 7 0) = true → 1 ≤ fld p 18 8 → fld p 18 8 ≤ 1024 →
        exec (.timeSamples now n) s = .next (s.served now n fun d => d.useTime.reply n stOk
          (((d.samples (fld p 7 0)).take (fld p 18 8)).flatMap fun z => natLE z.1.toNat 6 ++ natLE z.2.toNat 6)))
    ∧ (s.accepts now n 0x0506 → isDomain (fld p 7 0) = true → isDomain (fld p 15 8) = true →
        exec (.timeConvert now n) s = .next (s.served now n fun d =>
          match d.convertTime (fld p 7 0) (fld p 15 8) (BitVec.ofNat 48 (fld p 111 64)) with
          | some t => d.useTime.reply n stOk (natLE t.toNat 8)
          | none => d.useTime.reply n stTimeRange []))
    ∧ (∀ r desc x y, s.accepts now n 0x0503 → d.solver (BitVec.ofNat 16 (fld p 15 0)) = some (r, desc, x, y) →
        exec (.solverInfo now n) s = .next (s.served now n fun d =>
          let z := SStruct.symbolic x
          d.reply n stOk (natLE (mkImage [(0, 64, SStruct.signature x), (64, 32, z.lnnz), (96, 64, z.phi), (160, 16, z.h),
            (176, 16, z.s), (192, 32, SStruct.kktNnz x), (224, 32, iterationCycles x z (SDesc.refine desc))]) 32)))
    ∧ (s.accepts now n 0x0601 → fld p 3 0 ≤ 5 → 1 ≤ fld p 47 32 → fld p 31 16 + fld p 47 32 ≤ calLimit (fld p 3 0) →
        exec (.calRead now n) s = .next (s.served now n fun d => d.reply n stOk
          ((List.range (fld p 47 32)).flatMap fun i =>
            let b := (d.calRec (fld p 3 0) (fld p 31 16 + i)).getD (List.replicate (calSize (fld p 3 0)) 0)
            if fld p 3 0 = 4 then d.runningWeight b else b)))
    ∧ (s.accepts now n 0x0606 → 1 ≤ fld p 23 12 → fld p 23 12 ≤ 2048 →
        exec (.lecternLog now n) s = .next (s.served now n fun d =>
          d.reply n stOk (((d.lect.log.drop (fld p 11 0)).take (fld p 23 12)).flatMap LogRec.bytes)))
    ∧ (s.accepts now n 0x0704 → fld p 3 0 < 4 → exec (.memReport now n) s = .next (s.served now n fun d =>
          (if bitAt p 4 then d.setMemSet (fld p 3 0) (d.memSet (fld p 3 0)).cleared else d).reply n stOk
            (d.memSet (fld p 3 0)).report))
    ∧ (s.accepts now n 0x0704 → fld p 3 0 = 4 → exec (.memReport now n) s = .next (s.served now n fun d =>
          (if bitAt p 4 then { d with mem := { d.mem with onChip := d.mem.onChip.map fun _ => (0, 0) } } else d).reply n stOk
            (d.mem.onChip.flatMap fun c => natLE c.1 4 ++ natLE c.2 4)))
    ∧ (s.accepts now n 0x0705 → 1 ≤ fld p 25 13 → fld p 12 0 + fld p 25 13 ≤ 4160 →
        exec (.tileCensus now n) s = .next (s.served now n fun d => d.reply n stOk
          (((List.range (fld p 25 13)).map (fld p 12 0 + ·)).flatMap d.censusRecord)))
    ∧ (s.accepts now n 0x0703 → fld p 3 0 ≤ 3 → exec (.counters now n) s = .next (s.served now n fun d =>
          (if bitAt p 4 then d.countersClear (fld p 3 0) else d).reply n stOk (d.countersReply (fld p 3 0))))
    ∧ (s.accepts now n 0x0803 → exec (.identityRead now n) s = .next (s.served now n fun d => d.reply n stOk
          (Config.identityModulus ++ natLE Config.certificate.length 4 ++ Config.certificate)))
    ∧ (s.accepts now n 0x0802 → d.inProgress n [0x0101, 0x0102, 0x0103, 0x0105, 0x0602, 0x0804] = false →
        exec (.attest now n) s = .next (s.served now n fun d => d.reply n stOk (d.attestReport (p % 2 ^ 256))))

/-- Commands that write settings: CAL_WRITE with INLINE records writes them into the older copy
(R645, R744) and without arms its transfer, SELFTEST_POLICY
(R656, R658), POWER_LIMIT (R589) and TELEMETRY (R607: the peak and the limited time restart), SERVICE_CLEAR (R752) and KEY_REVOKE
(R765) change the named setting and reply ST_OK. -/
def Obligations.SettingRowsComplete : Prop :=
  ∀ (s : State) (now : Time) (n : Fin 64),
    let d := (advance now s.dev).taken n
    let p := d.params n
    (s.accepts now n 0x0602 → fld p 3 0 ≤ 5 → 1 ≤ fld p 47 32 → fld p 31 16 + fld p 47 32 ≤ calLimit (fld p 3 0) →
        bitAt p 4 = true → fld p 47 32 * calSize (fld p 3 0) ≤ 200 →
        let recs := (List.range (fld p 47 32)).map fun i =>
          slice (slice (d.paramBytes n) 40 (fld p 47 32 * calSize (fld p 3 0))) (calSize (fld p 3 0) * i) (calSize (fld p 3 0))
        let imgs := recs.zipIdx.map fun r => (fld p 31 16 + r.2, leNat r.1)
        (∀ x ∈ imgs, rsvdZero x.2 (calRsvd (fld p 3 0)) = true ∧ calRangeOk (fld p 3 0) x.1 x.2 = true) →
        (fld p 3 0 = 0 → d.tagClash imgs = false) →
        exec (.calWrite now n) s = .next (s.served now n fun d =>
          ({ d with bur := { d.bur with nv := d.bur.nv.writeCal (fld p 3 0) (fld p 31 16) recs } }).reply n stOk []))
    ∧ (s.accepts now n 0x0602 → fld p 3 0 ≤ 5 → 1 ≤ fld p 47 32 → fld p 31 16 + fld p 47 32 ≤ calLimit (fld p 3 0) →
        bitAt p 4 = false → BulkRef.length (fld p 319 64) = fld p 47 32 * calSize (fld p 3 0) →
        d.bulkFits (fld p 319 64) 4194304 →
        exec (.calWrite now n) s = .next (s.served now n fun d => d.armed n (fld p 319 64) none))
    ∧ (s.accepts now n 0x0603 →
        let q := PolRec.policy (p % 2 ^ 256)
        q.ok = true → (q.guarded = d.lect.policy.guarded ∨ ∀ r ∈ d.startedJobs, r.cls ≠ 0) →
        exec (.selftestPolicy now n) s = .next (s.served now n fun d =>
          let e := { d with lect := { d.lect with policy := q }
                            leakAt := if q.leakS ≠ d.lect.policy.leakS then d.hub else d.leakAt }
          (if q.bucketLimit < d.lect.policy.bucketLimit then
            (e.tiles.filterMap fun x => if q.bucketLimit ≤ x.2.t.bucket then finTile x.1 else none).foldl Device.fenceTile e
          else e).reply n stOk []))
    ∧ (s.accepts now n 0x0701 → limitsOk (p % 2 ^ 256) = true → exec (.powerLimit now n) s = .next (s.served now n fun d =>
        ({ d with pow := { d.pow with gov := { d.pow.gov with limits := LimRec.limits (p % 2 ^ 256) } } }).reply n stOk []))
    ∧ (s.accepts now n 0x0702 → exec (.telemetry now n) s = .next (s.served now n fun d =>
        ({ d with pow := { d.pow with gov := { d.pow.gov with pPeak := 0, limitedUs := 0 } } }).reply n stOk
          (natLE d.telemetryRecord 32)))
    ∧ (∀ c, s.accepts now n 0x0707 → d.bur.nv.persistCurrent = some c → exec (.serviceClear now n) s =
        .next (s.served now n fun d =>
          let kept : PersistCopy := { c with fences := if bitAt p 0 then [] else c.fences
                                             remaps := if bitAt p 1 then List.replicate 4 (List.replicate 16 none) else c.remaps
                                             erased := if bitAt p 2 then List.replicate 4 none else c.erased }
          let g := d.bur.cleared
          let gone : PersistCopy := { g with
            fences := if bitAt p 0 then g.fences ++ c.fences else g.fences
            remaps := if bitAt p 1 then List.zipWith (List.zipWith fun a b => a.or b) c.remaps g.remaps else g.remaps
            erased := if bitAt p 2 then List.zipWith (fun a b => a.or b) c.erased g.erased else g.erased }
          ({ d with bur := { d.bur with nv := d.bur.nv.putPersist kept, cleared := gone } }).reply n stOk []))
    ∧ (s.accepts now n 0x0804 → nth d.bur.nv.revoked (fld p 1 0) 0 ≠ 0 →
        exec (.keyRevoke now n) s = .next (s.served now n fun d => d.reply n stOk []))
    ∧ (s.accepts now n 0x0804 → nth d.bur.nv.revoked (fld p 1 0) 0 = 0 →
        FwHdr.keySlot (fwHdr d.bur.fwImage) ≠ fld p 1 0 →
        (∃ i < 4, d.bur.nv.usable d.bur.fwImage i ≠ (i == fld p 1 0)) →
        exec (.keyRevoke now n) s = .next (s.served now n fun d =>
          ({ d with bur := { d.bur with nv := { d.bur.nv with revoked := setAt d.bur.nv.revoked (fld p 1 0) 3 } } }).reply
            n stOk []))

/-- SAFE_REQUEST enters the safe state with HOST_REQUEST and drives both pins low (R685, R687); SAFE_RELEASE leaves it once no
cause blocks it: both pins rise and the cause word clears; one while the safe state is not held changes nothing; one with a cause
standing or coming in the cycle fails with ST_SAFE_CAUSE and the pins stay low (R689). -/
def Obligations.SafeCommandsComplete : Prop :=
  ∀ (s : State) (now : Time) (n : Fin 64),
    let d := (advance now s.dev).taken n
    (s.accepts now n 0x0604 → ∃ t, exec (.safeRequest now n) s = .next t ∧ t.pending = s.pending ∧ t.dev.lect.safe = true
        ∧ t.dev.lect.pinA = false ∧ t.dev.lect.pinB = false ∧ t.dev.lect.causes = (s.dev.lect.causes ||| 2)
        ∧ t.dev.lect.log = s.dev.lect.log ∧ t.dev.jobs = s.dev.jobs ∧ t.dev.tiles = s.dev.tiles ∧ t.dev.mem = s.dev.mem
        ∧ t.dev.ce = s.dev.ce)
    ∧ (s.accepts now n 0x0605 → s.dev.lect.safe = true → d.blocking = 0 →
        ∃ t, exec (.safeRelease now n none) s = .next t ∧ t.pending = s.pending ∧ t.dev.lect.safe = false
          ∧ t.dev.lect.pinA = true ∧ t.dev.lect.pinB = true ∧ t.dev.lect.causes = 0 ∧ t.dev.lect.firstStatus = 0
          ∧ t.dev.lect.firstSource = 0 ∧ t.dev.lect.changed = (advance now s.dev).hub ∧ t.dev.jobs = s.dev.jobs
          ∧ t.dev.tiles = s.dev.tiles ∧ t.dev.mem = s.dev.mem ∧ t.dev.ce = s.dev.ce ∧ t.dev.lect.log = s.dev.lect.log)
    ∧ (∀ c, s.accepts now n 0x0605 → s.dev.lect.safe = false →
        exec (.safeRelease now n c) s = .next (s.served now n fun d => d.reply n stOk []))
    ∧ (∀ c, s.accepts now n 0x0605 → s.dev.lect.safe = true → (d.blocking ≠ 0 ∨ c.isSome = true) →
        exec (.safeRelease now n c) s = .next (s.served now n fun d => d.reply n 0x1006 []))

/-! ### I3C -/

/-- CCCs that set the target up (R791, R792): ENEC and DISEC of target 0 enable and disable IBIs, RSTDAA clears and ENTDAA, SETDASA
and SETNEWDA give dynamic addresses, ENTHDR0 enters HDR-DDR, SETMWL and SETMRL change no length (R692, R694). CCCs that read a
target with a dynamic address (R790, R791): 258 for GETMWL, 65,535 and 1 for GETMRL, the provisioned id, BCR and DCR, the
pending IBIs of target 0 with the protocol-error bit, and GETMXDS (its two bytes are the model's, log 30); a target without an
address does not answer. -/
def Obligations.I3cRowsComplete : Prop :=
  (∀ (s : State) (now : Time), s.dev.pow.phase ≠ .off →
     (∀ t ev, ev.getLsbD 0 = true → (t = none ∨ t = some 0) → s.dev.bur.i3c.reaches t = true →
         exec (.enec now t ev) s = .next (s.timed now fun d => d.win fun w => { w with ibiEnabled := true })
         ∧ exec (.disec now t ev) s = .next (s.timed now fun d => d.win fun w => { w with ibiEnabled := false }))
     ∧ exec (.rstdaa now) s = .next (s.timed now fun d => d.i3c fun x => { x with addrs := x.addrs.map fun _ => none })
     ∧ (∀ l, exec (.entdaa now l) s = .next (s.timed now fun d => d.i3c fun x =>
         { x with addrs := x.addrs.zipIdx.map fun e => match e.1 with
             | some v => some v
             | none => (l.find? fun p => p.1.val == e.2).map (·.2) }))
     ∧ (∀ a, exec (.setdasa now a) s = .next (s.timed now fun d => d.i3c fun x =>
         { x with addrs := x.addrs.zipIdx.map fun e => if e.2 = 0 ∧ e.1 = none then some a else e.1 }))
     ∧ (∀ t a, exec (.setnewda now t a) s = .next (s.timed now fun d => d.i3c fun x =>
         { x with addrs := x.addrs.zipIdx.map fun e => if e.2 = t.val ∧ e.1 ≠ none then some a else e.1 }))
     ∧ (∀ t l, exec (.setmwl now t l) s = .next { s with dev := advance now s.dev }
         ∧ exec (.setmrl now t l) s = .next { s with dev := advance now s.dev })
     ∧ exec (.enthdr0 now) s = .next (s.timed now fun d => d.i3c fun x => { x with hdrDdr := true }))
  ∧ (∀ (s : State) (now : Time) (t : Fin 5), s.dev.pow.phase ≠ .off →
       let ans := fun (bs : Bytes) => s.timed now fun d => d.i3c fun x =>
         { x with answer := if s.dev.bur.i3c.reaches (some t) then bs else [] }
       exec (.getmwl now t) s = .next (ans [1, 2]) ∧ exec (.getmrl now t) s = .next (ans [0xFF, 0xFF, 1])
       ∧ exec (.getpid now t) s = .next (ans (natBE (provisionedId t) 6))
       ∧ exec (.getbcr now t) s = .next (ans [bcrOf t]) ∧ exec (.getdcr now t) s = .next (ans [0])
       ∧ exec (.getstatus now t) s = .next (ans (natBE ((if t = 0 then min 15 s.dev.bur.win.ibi.length else 0)
           + if s.dev.bur.i3c.protocolError then 32 else 0) 2))
       ∧ exec (.getmxds now t) s = .next (ans [0, 0]))

/-- Bridges (R725, R793 to R795): a bridge that is not BUSY takes a private write, a broadcast CCC, a mode, an address assignment or
a read, and its previous result is replaced; one that is BUSY answers with NACK, as every bridge does before step 3; the end of a
transfer leaves DONE with the data read, NACKED or BUS_ERROR. -/
def Obligations.BridgeRowsComplete : Prop :=
  (∀ (s : State) (now : Time) (b : Fin 4) (a : BitVec 7) (data : Bytes), s.isAwake → (bridgeAt s.dev b).state ≠ .busy →
     a.toNat ≤ 0x7D → data ≠ [] → data.length ≤ 255 →
     exec (.bridgePrivateWrite now b a data) s = .next (s.timed now fun d => (d.setNack false).setBridge b
       { mode := (bridgeAt d b).mode, state := .busy, op := some (.write a data), data := [] }))
  ∧ (∀ (s : State) (now : Time) (b : Fin 4) (data : Bytes), s.isAwake → (bridgeAt s.dev b).state ≠ .busy → data ≠ [] →
     exec (.bridgeBroadcastCcc now b data) s = .next (s.timed now fun d => (d.setNack false).setBridge b
       { mode := (bridgeAt d b).mode, state := .busy, op := some (.ccc data), data := [] }))
  ∧ (∀ (s : State) (now : Time) (b : Fin 4) (m : Byte), s.isAwake → (bridgeAt s.dev b).state ≠ .busy → m.toNat ≤ 3 →
     exec (.bridgeSetMode now b m) s = .next (s.timed now fun d => (d.setNack false).setBridge b
       { mode := m, state := .done, op := none, data := [] }))
  ∧ (∀ (s : State) (now : Time) (b : Fin 4) (a : Byte), s.isAwake → (bridgeAt s.dev b).state ≠ .busy →
     exec (.bridgeEntdaa now b a) s = .next (s.timed now fun d => (d.setNack false).setBridge b
       { mode := (bridgeAt d b).mode, state := .busy, op := some (.entdaa a), data := [] }))
  ∧ (∀ (s : State) (now : Time) (b : Fin 4), s.isAwake → (bridgeAt s.dev b).state ≠ .busy →
     exec (.bridgeRstdaa now b) s = .next (s.timed now fun d => (d.setNack false).setBridge b
       { mode := (bridgeAt d b).mode, state := .busy, op := some .rstdaa, data := [] }))
  ∧ (∀ (s : State) (now : Time) (b : Fin 4) (a : BitVec 7) (l : Byte), s.isAwake → (bridgeAt s.dev b).state ≠ .busy →
     a.toNat ≤ 0x7D → l ≠ 0 →
     exec (.bridgePrivateRead now b a l) s = .next (s.timed now fun d => (d.setNack false).setBridge b
       { mode := (bridgeAt d b).mode, state := .busy, op := some (.read a l), data := [] }))
  ∧ (∀ (s : State) (now : Time) (b : Fin 4) (a : BitVec 7) (f l m : Byte) (data : Bytes),
     s.dev.pow.phase = .held ∨ (s.isAwake ∧ (bridgeAt s.dev b).state = .busy) →
     ∀ c ∈ [Instr.bridgePrivateWrite now b a data, .bridgeBroadcastCcc now b data, .bridgeSetMode now b m, .bridgeEntdaa now b f,
            .bridgeRstdaa now b, .bridgePrivateRead now b a l],
       exec c s = .next (s.timed now fun d => d.setNack true))
  ∧ (∀ (s : State) (now : Time) (b : Fin 4) (data : Bytes), s.dev.pow.phase ≠ .off → (bridgeAt s.dev b).state = .busy →
     exec (.bridgeTransferDone now b (.done data)) s = .next (s.timed now fun d => d.setBridge b { bridgeAt d b with
       state := .done
       data := match (bridgeAt s.dev b).op with
         | some (.read _ l) => data.take l.toNat
         | some (.entdaa _) => data.take (data.length / 9 * 9)
         | _ => [] }))
  ∧ (∀ (s : State) (now : Time) (b : Fin 4), s.dev.pow.phase ≠ .off → (bridgeAt s.dev b).state = .busy →
     exec (.bridgeTransferDone now b .nacked) s = .next (s.timed now fun d =>
       d.setBridge b { bridgeAt d b with state := .nacked, data := [] })
     ∧ exec (.bridgeTransferDone now b .busError) s = .next (s.timed now fun d =>
       d.setBridge b { bridgeAt d b with state := .busError, data := [] }))

/-! ### CSI-2 ports and Ingest -/

/-- FRAME_START and FRAME_END at a powered port start and end the sample of every frame stream of the port and VC, and a Frame Start
times the samples of data types 0x35 and 0x36 (R266 to R269, R668); a packet whose header cannot be corrected is counted and
dropped (R259); LINE_SHORT_PACKET is accepted and has no effect (R773); GENERIC_SHORT_PACKET is counted and kept in the port
record (R788). The port's lanes and skew (R772, R774, R788): a first burst shows the lanes in use; an output port calibrates
while it is powered, enabled and idle. OUTPUT_PORT_FREE: the burst on the wire ends and the next packets are sent (R523, R780). -/
def Obligations.PortEventRowsComplete : Prop :=
  (∀ (s : State) (now : Time) (p : ShortPkt), s.isUp → s.dev.inPowered p.port.val = true →
     let at_ := fun (d : Device) => d.portAt (0x10 + p.port.val) p.portTime
     (p.ecc = .ok →
       (p.dt = 0 → exec (.frameStart now p) s = .next (s.timed now fun d =>
         let e := (((at_ d).streamsOn p.port.val p.vc.toNat fun x => !StreamDesc.isFrame x).foldl (fun (d : Device) tag =>
           match d.stream tag with
           | some x => d.setStream tag { x with fsTime := some p.portTime }
           | none => d) (at_ d))
         ((e.streamsOn p.port.val p.vc.toNat StreamDesc.isFrame).foldl
           (fun (d : Device) tag => d.frameStart tag p.data.toNat p.portTime) e).settleDomains))
       ∧ (p.dt = 1 → exec (.frameEnd now p) s = .next (s.timed now fun d =>
         ((at_ d).streamsOn p.port.val p.vc.toNat StreamDesc.isFrame).foldl (fun (d : Device) tag => d.frameEnd tag p.data) (at_ d)))
       ∧ exec (.lineShortPacket now p) s = .next (s.timed now at_)
       ∧ exec (.genericShortPacket now p) s = .next (s.timed now fun d =>
         let c := (at_ d).inPort p.port.val
         (at_ d).setIn p.port.val { c with shorts := sat32 (c.shorts + 1), lastDt := p.dt, lastVc := p.vc, lastData := p.data,
                                           lastTime := p.portTime }))
     ∧ (p.ecc = .bad → ∀ c ∈ [Instr.lineShortPacket now p, .genericShortPacket now p], exec c s = .next (s.timed now fun d =>
         let c := (at_ d).inPort p.port.val
         (at_ d).setIn p.port.val { c with hdrDropped := sat32 (c.hdrDropped + 1) })))
  ∧ (∀ (s : State) (now : Time), s.isUp →
       (∀ (p : Fin 12) (l : BitVec 3) (k : Bool), s.dev.inPowered p.val = true →
         exec (.inputSkewCalibration now p l k) s = .next (s.timed now fun d =>
           let c := d.inPort p.val
           d.setIn p.val { c with lanes := if c.lanes = 0 then l else c.lanes, deskewed := c.deskewed || k }))
       ∧ (∀ p : Fin 4, s.dev.domOn (0x2C + p.val) = true → s.dev.bur.win.outputsEnabled = true → (nthOut s.dev p).wire = [] →
         (nthOut s.dev p).queue = [] → exec (.outputSkewCalibration now p) s = .next (s.timed now fun d =>
           let o := nthOut d p
           d.setOut p { o with counts := { o.counts with lanes := 4, deskewed := true } }))
       ∧ (∀ (p : Fin 4) (t : Time), (nthOut s.dev p).wire ≠ [] → exec (.outputPortFree now p t) s = .next (s.timed now fun d =>
           let e := d.portAt (0x20 + p.val) t
           (e.setOut p (OutPort.pump { nthOut e p with wire := [] } t)).settlePorts)))

/-- Image lines, embedded data, JPEG and point packets of a bound stream (R259, R275, R280, R283, R673): an accepted line joins
the arriving sample of its stream; a line with a bad CRC fails the sample with ST_CORRUPT; a packet that no binding in force takes is counted
UNBOUND; the first embedded line of a sample whose binding tests them is compared with its reference; a JPEG or point packet goes to its sample. -/
def Obligations.SamplePacketRowsComplete : Prop :=
  ∀ (s : State) (now : Time) (p : Pkt) (e : Device) (h : Image), s.isUp →
    let tags := (advance now s.dev).streamsOn p.port.val p.vc.toNat fun x =>
      StreamDesc.isFrame x && StreamDesc.dt x == p.dt.toNat
    (∀ t y, otherDt p.dt.toNat = false → tags = [t] → (advance now s.dev).arrive p = (e, .ok h) →
        ((e.stream t).bind fun x => x.desc).isSome = true → (e.stream t).bind Stream.arriving = some y →
        exec (.imageLinePacket now p) s = .next { s with dev := e.frameLine t y p.payload })
    ∧ (∀ t y, otherDt p.dt.toNat = false → tags = [t] → (advance now s.dev).arrive p = (e, .badCrc) →
        (e.stream t).bind Stream.arriving = some y →
        exec (.imageLinePacket now p) s = .next { s with dev := e.failSample t y.seq 3 0x2002 })
    ∧ (otherDt p.dt.toNat = false → (advance now s.dev).arrive p = (e, .ok h) →
        (∀ t ∈ tags, ((e.stream t).bind fun x => x.desc) = none) →
        exec (.imageLinePacket now p) s = .next { s with dev := e.countUnbound p.port })
    ∧ (∀ t y, p.dt = 0x12 → (advance now s.dev).arrive p = (e, .ok h) →
        e.streamsOn p.port.val p.vc.toNat StreamDesc.isFrame = [t] →
        (e.stream t).bind Stream.arriving = some y → StreamDesc.testLines y.desc = true → y.testLine = none →
        exec (.embeddedDataPacket now p) s = .next (s.withDev (
          let d := e.modSample t y.seq fun y => { y with testLine := some (crc32 p.payload) }
          if d.testLine t.toNat = some (crc32 p.payload) then d else d.withholdSample t y.seq)))
    ∧ (∀ t q f, p.dt = 0x36 → (advance now s.dev).arrive p = (e, .ok h) → e.userStream p h = some t →
        e.packetSample t h p.port p.portTime = (f, some q) →
        exec (.jpegPacket now p) s = .next { s with dev := (f.jpegData t q h p.payload).settleDomains })
    ∧ (∀ t q f, p.dt = 0x35 → (advance now s.dev).arrive p = (e, .ok h) → e.userStream p h = some t →
        e.packetSample t h p.port p.portTime = (f, some q) →
        exec (.pointPacket now p) s = .next { s with dev := (f.pointData t q h p.payload).settleDomains })

/-- Feedback, inertial and body-link packets of a bound tag (R364, R511, R512, R782): each record of a whole payload feeds
the inputs or Fusion; a payload that is no whole number of records, or is partial, is dropped and counted; one on no binding is counted UNBOUND. -/
def Obligations.FeedbackPacketRowsComplete : Prop :=
  ∀ (s : State) (now : Time) (p : Pkt) (e : Device) (h : Image), s.isUp → (advance now s.dev).arrive p = (e, .ok h) →
    let body := p.payload.drop 16
    (p.dt = 0x34 → (StrHdr.kind h = 0x12 ∨ StrHdr.kind h = 0x13) → e.feedbackBound p (StrHdr.tag h) = true →
        (body.length % 24 = 0 → StrHdr.isPartial h = false →
          (∀ i < body.length / 24, rsvdZero (imageAt body (24 * i) 24) [(31, 16), (191, 160)] = true) →
          exec (.feedbackPacket now p) s = .next (s.withDev (
            ((List.range (body.length / 24)).map fun i => imageAt body (24 * i) 24).foldl
              (fun d r => d.feedRecord (StrHdr.tag h) (fld r 15 0) [sfld r 63 32, sfld r 95 64, sfld r 127 96, sfld r 159 128])
              e)))
        ∧ ((body.length % 24 ≠ 0 ∨ StrHdr.isPartial h = true) → exec (.feedbackPacket now p) s = .next { s with dev := e.feedDropped (StrHdr.tag h) }))
    ∧ (p.dt = 0x34 → (StrHdr.kind h = 0x10 ∨ StrHdr.kind h = 0x11) → e.feedbackBound p (StrHdr.tag h) = true →
        body.length % 32 = 0 → StrHdr.isPartial h = false → e.eng.fus.running = true →
        exec (.inertialPacket now p) s = .next (s.withDev ((List.range (body.length / 32)).foldl
          (fun d i => d.inertial p (StrHdr.tag h) (StrHdr.kind h - 0x10) (imageAt body (32 * i) 32)) e)))
    ∧ (p.dt = 0x33 → e.feedbackBound p (StrHdr.tag h) = true →
        (body.length % 8 = 0 → StrHdr.isPartial h = false → exec (.bodyLinkPacket now p) s = .next (s.withDev (
          (List.range (body.length / 8)).foldl (fun d i =>
            d.feedRecord (StrHdr.tag h) (fld (imageAt body (8 * i) 8) 15 0)
              [sfld (imageAt body (8 * i) 8) 63 32, (fld (imageAt body (8 * i) 8) 31 16 : Nat), 0, 0]) e)))
        ∧ ((body.length % 8 ≠ 0 ∨ StrHdr.isPartial h = true) → exec (.bodyLinkPacket now p) s = .next { s with dev := e.feedDropped (StrHdr.tag h) }))
    ∧ (∀ c ∈ [Instr.feedbackPacket now p, .inertialPacket now p, .bodyLinkPacket now p], e.feedbackBound p (StrHdr.tag h) = false →
        ((c = .bodyLinkPacket now p ∧ p.dt = 0x33) ∨ (c = .feedbackPacket now p ∧ p.dt = 0x34 ∧ StrHdr.kind h = 0x12)
          ∨ (c = .inertialPacket now p ∧ p.dt = 0x34 ∧ StrHdr.kind h = 0x10)) →
        exec c s = .next { s with dev := e.countUnbound p.port })

/-- The decoders (R277, R286, R287): a free decoder takes the head of the queue; a whole sample decoded below its cap is
completed, and one that reaches its cap fails with ST_TIMEOUT. -/
def Obligations.DecoderRowsComplete : Prop :=
  ∀ (s : State) (now : Time), s.isUp →
    (∀ (k : Fin 2) tag seq rest, s.dev.ing.queue = (tag, seq) :: rest → nth s.dev.ing.decoders k none = none →
        (advance now s.dev).engineFree (.decoder k) = true →
        exec (.decoderTake now k) s = .next (s.timed now fun d =>
          let decoders := setAt d.ing.decoders k (some (tag, seq))
          ({ d with ing := { d.ing with queue := rest, decoders } }).modSample tag seq fun y => { y with stage := .decoding }))
    ∧ (∀ tag seq work x y, s.dev.stream tag = some x → x.live seq = some y → y.stage = .decoding → y.whole = true →
        (x.cap y.desc ≤ work → exec (.decodeDone now tag seq work) s = .next (s.timed now fun d => d.failSample tag seq 3 0x2003))
        ∧ (work < x.cap y.desc → StreamDesc.isList y.desc = true →
          exec (.decodeDone now tag seq work) s = .next (s.timed now fun d => d.completeSample tag y none work))
        ∧ (∀ g, work < x.cap y.desc → StreamDesc.isList y.desc = false → y.image = some g →
          exec (.decodeDone now tag seq work) s = .next (s.timed now fun d => d.completeSample tag y (some g) work)))
    ∧ (∀ tag seq x y, s.dev.stream tag = some x → x.live seq = some y → y.stage = .decoding →
        exec (.workCapReached now tag seq) s = .next (s.timed now fun d => d.failSample tag seq 3 0x2003))

/-- Records, batches, groups and test frames (R304, R306, R311, R314, R669): a closed batch's record is written and DESC_HOOK
signalled by 1; every open batch whose window has run out fails its waiting samples with ST_LATE; a group whose window has run out closes;
a closed group whose members are posted has its record written and GROUP_HOOK signalled; a test frame's CRC is compared. -/
def Obligations.RecordRowsComplete : Prop :=
  ∀ (s : State) (now : Time), s.isUp →
    (∀ tag x b r dest, s.dev.stream tag = some x → x.batches.find? (·.closed) = some b →
        ((advance now s.dev).setStream tag (x.dropBatch b)).streamDest b.desc = some (r, dest) →
        exec (.recordPost now tag) s = .next (s.timed now fun d =>
          let k := StreamDesc.destRef b.desc
          let n := x.posted.getD k 0
          let e := (d.setStream tag (x.dropBatch b)).writeLines r.part
            (ringAt (DestRec.recRing dest) (max 1 (DestRec.slots dest)) 12320 n) (b.bytes tag.toNat)
          let e := match e.stream tag with
            | some y => e.setStream tag { y with posted := y.posted.put k (n + 1) }
            | none => e
          (e.signalHook (.ingest tag) (DestRec.descHook dest) 1).settleStream tag))
    ∧ (∀ tag x b, s.dev.stream tag = some x →
        let due := fun (b : Batch) => !b.closed && reached (advance now s.dev).hub
          (addT b.opened (1200 * StreamDesc.batchWindow b.desc))
        b ∈ x.batches → due b = true → exec (.batchWindowExpiry now tag) s = .next (s.timed now fun d =>
          let late := x.batches.map fun q => if due q then { q with windowExpired := true, taken := StreamDesc.batch q.desc } else q
          ((x.batches.filter due).foldl (fun (d : Device) q =>
            q.members.foldl (fun (d : Device) m => d.failSample tag m 3 0x3001) d)
            (d.setStream tag { x with batches := late })).settleStream tag))
    ∧ (∀ (k : Fin 8) g, s.dev.ing.groups.find k = some g →
        exec (.groupWindowExpiry now k) s = .next (s.timed now fun d =>
          let c := d.counter (0x10 + GroupRec.refPort g.record)
          let instances := g.instances.map fun i => if !i.closed && reached c (addT i.t0 (GroupRec.window g.record * portUs)) then
            { i with closed := true, expired := true } else i
          { d with ing := { d.ing with groups := d.ing.groups.put k { g with instances } } }))
    ∧ (∀ (k : Fin 8) g i p, s.dev.ing.groups.find k = some g →
        g.instances.find? (fun i => i.closed && (advance now s.dev).membersPosted i) = some i →
        let next : Group := { g with seq := g.seq + 1, instances := g.instances.erase i }
        let e := fun (d : Device) => { d with ing := { d.ing with groups := d.ing.groups.put k next } }
        (e (advance now s.dev)).hookPart (GroupRec.hook g.record) = some p →
        exec (.groupRecordPost now k) s = .next (s.timed now fun d =>
          ((e d).writeLines p (ringAt (GroupRec.ring g.record) 64 160 g.seq.toNat)
            (i.bytes k g.seq (GroupRec.members g.record))).signalHook (.ingest 0) (GroupRec.hook g.record) 1))
    ∧ (∀ tag crc x p desc, s.dev.stream tag = some x → x.testPattern = some p → x.desc = some desc →
        (crc = testCrc desc p.val → exec (.testFrameCompare now tag crc) s = .next (s.timed now fun d =>
          ((d.setStream tag { x with testPattern := none, abandoned := 0 }).setStream tag
            { x with testPattern := none, abandoned := 0, overdueTold := false }).notifyAgain stTestOverdue srcStream
              (tag.setWidth 16)))
        ∧ (crc ≠ testCrc desc p.val → exec (.testFrameCompare now tag crc) s = .next (s.timed now fun d =>
          ((d.setStream tag { x with testPattern := none, abandoned := 0 }).setStream tag
            { x with testPattern := none, abandoned := 0, withholdNext := true }).notify stInputTest srcStream
              (tag.setWidth 16))))

/-! ### Finisher, Fusion, Shelf and Planner -/

/-- FINISHER_FRAME of the first waiting frame job takes LEVELS counts of IN_HOOK and runs the frame of the running period's epoch
(R336, R572);
CORRESPONDENCE_SAMPLE keeps the captured pair as the newest of 1,024 (R355, R356). -/
def Obligations.FinisherAndSamplesComplete : Prop :=
  ∀ (s : State) (now : Time), s.isUp →
    (∀ job r x p f e, (advance now s.dev).working job = some (r, x, p) → r.engine = engFinisher →
        (advance now s.dev).engineFree .fusion = true → (advance now s.dev).frameAhead r p = false →
        r.desc = some f → (advance now s.dev).tagInView r f = true → ((advance now s.dev).finJob job).held = none →
        BitVec.ofNat 16 ((advance now s.dev).frameEpoch r f) = p.epoch →
        (advance now s.dev).takeHook (.job job) (FinDesc.inHook f) (FinDesc.levels f) = (e, true) →
        exec (.finisherFrame now job) s = .next { s with dev := e.runFrame r f })
    ∧ (∀ (k : Byte) (t : Time) (c : Time), (advance now s.dev).hub = now → now.toNat % 12000 = 0 → k ≠ 0 →
        (advance now s.dev).domOn 0x3B = true →
        (advance now s.dev).clk.counters.find k.toNat = some c → (timeDiff t c).natAbs ≤ 1 →
        (((advance now s.dev).samples k.toNat).head?.map (·.1)) ≠ some now →
        exec (.correspondenceSample now [(k, t)]) s = .next (s.timed now fun d =>
          { d with clk := { d.clk with samples := d.clk.samples.put k.toNat (((now, t) :: d.samples k.toNat).take 1024) } }))

/-- Fusion (R367, R370, R371, R373): a signalled measurement record is taken from the ring; a free tick, or the next
locked edge, opens cycle k with its close
FUSE_HOLD and its emission EMIT_DELAY later; the close takes the measurements up to τ; the emission writes the results, or only the
completion record with ST_LATE when the work was not finished, and cleans the job's Hooks up. -/
def Obligations.FusionRowsComplete : Prop :=
  ∀ (s : State) (now : Time), s.isUp → ∀ r desc, (advance now s.dev).fusionJob = some (r, desc) →
    (∀ e, s.dev.eng.fus.running = true → (advance now s.dev).takeHook (.job r.id) (FusDesc.measHook desc) 1 = (e, true) →
        let a := FusDesc.measRing desc + e.eng.fus.measNext * 64
        let g := (e.fus fun x => { x with measNext := (x.measNext + 1) % max 1 (FusDesc.measRecords desc) }).hubRead r.part a 64
        exec (.measurementTake now) s = .next (s.withDev
          (g.1.receive (ringMeas (leNat (g.1.readView r.part a 64)) g.2 g.1.hub))))
    ∧ (∀ t, s.dev.eng.fus.running = true → (advance now s.dev).engineOk .fusion = true →
        (advance now s.dev).inBoundary r.part = false →
        (FusDesc.lockEn desc = true → s.dev.eng.fus.due.head? = some t) →
        (FusDesc.lockEn desc = false →
          t = if s.dev.eng.fus.first then s.dev.eng.fus.last else addT s.dev.eng.fus.last (usHub (FusDesc.period desc))) →
        reached (advance now s.dev).hub t = true →
        exec (.fusionTick now) s = .next (s.timed now fun d => d.openCycle desc t)
          ∧ (let x := ((advance now s.dev).openCycle desc t).eng.fus
             x.cycle = s.dev.eng.fus.cycle + 1 ∧ x.last = t ∧ x.due = s.dev.eng.fus.due.tail ∧ ∃ c, x.cycles = s.dev.eng.fus.cycles ++ [c] ∧ c.tau = t
               ∧ c.number = s.dev.eng.fus.cycle ∧ c.closeAt = addT t (usHub (FusDesc.hold desc))
               ∧ c.emitAt = addT c.closeAt (usHub (FusDesc.emitDelay desc))))
    ∧ (∀ c, s.dev.eng.fus.cycles.find? (fun c => !c.closed) = some c → reached (advance now s.dev).hub c.closeAt = true →
        exec (.fusionClose now) s = .next (s.timed now fun d => d.closeCycle r desc c))
    ∧ (∀ c rest, s.dev.eng.fus.cycles = c :: rest → c.closed = true → reached (advance now s.dev).hub c.emitAt = true →
        exec (.fusionEmission now true) s = .next (s.timed now fun d => (d.fus fun x => { x with cycles := rest }).emitCycle r desc c)
        ∧ exec (.fusionEmission now false) s = .next (s.timed now fun d =>
            ((d.fus fun x => { x with cycles := rest }).recordCycle r c 0x3001).cleanFusion r desc))

/-- The Shelf (R407, R411, R412): signalled ring slots join the queue while it holds fewer than 16 batches; the head batch is
read, committed whole or refused, and answered. The Planner (R440, R445, R449): a candidate that the search finds before the budget's end
is checked and accepted or repaired; the end of the budget, or of the search, ends the period without a new plan. -/
def Obligations.ShelfAndPlannerRowsComplete : Prop :=
  (∀ (s : State) (now : Time) desc, s.isUp → s.dev.eng.shelf.desc = some desc →
     exec (.shelfUpdateSignal now) s = .next (s.timed now Device.admitMaps)
     ∧ (∀ d e : Device, d.eng.shelf.desc = some desc → d.eng.shelf.queue.length < 16 →
         d.takeHook .shelf (ShelfDesc.updateHook desc) 1 = (e, true) →
         d.admitMap = e.shelf fun x =>
           let b : Batch32 := { drawer := none, slot := x.nextSlot, bytes := [] }
           { x with queue := x.queue ++ [b], nextSlot := (x.nextSlot + 1) % max 1 (ShelfDesc.slots desc) })
     ∧ (∀ b rest e bs, s.dev.eng.shelf.queue = b :: rest →
         ((advance now s.dev).shelf fun x => { x with queue := rest }).mapBytes desc b = (e, bs, false) →
         exec (.shelfBatch now) s = .next (s.withDev (
           let c := e.eng.shelf.commit desc bs
           ((e.shelf fun _ => c.1).answerMap b c.2 (if c.2 = 0 then c.1.current.number else 0)).admitMaps))))
  ∧ (∀ (s : State) (now : Time) job r desc p u, s.isUp → (advance now s.dev).searching job = some (r, desc, p, u) →
       (∀ cand m ws, reached (advance now s.dev).hub (addT p.s (usHub (PlanDesc.budget desc))) = false →
           let e := (advance now s.dev).spoilShelf job ((advance now s.dev).pinned u.inst) cand
           let x := e.planJob job
           (e.world r desc u.query (e.pinned u.inst)).found e.eng.shelf x.roadmap u cand = some (m, ws) →
           exec (.candidateComplete now job cand) s = .next (s.withDev
             (((e.setPlanJob job { x with roadmap := m }).candidate r desc p u ws cand.checks).startPlanners)))
       ∧ (reached (advance now s.dev).hub (addT p.s (usHub (PlanDesc.budget desc))) = true →
           exec (.plannerBudgetEnd now job) s = .next (s.timed now fun d => (d.failSearch r desc p u).startPlanners))
       ∧ exec (.searchFails now job) s = .next (s.timed now fun d => (d.failSearch r desc p u).startPlanners))

/-- The Solver (R470, R475, R477, R490): signalled delta slots join the job's queue while it holds fewer than 16 batches; the head batch is applied between solves;
the application point takes the input Hook, applies the queued batches and forms iterate 0; an iteration of the solve that the instance serves forms the next iterate, then the instance chooses again (log 8); the
end of the budget returns the best one with ST_SOLVE_BUDGET. -/
def Obligations.SolverRowsComplete : Prop :=
  ∀ (s : State) (now : Time) job, s.isUp →
    (∀ x, (advance now s.dev).solvJob job = some x → x.solve = none →
        exec (.solverBatchApply now job) s = .next (s.timed now fun d => d.applyHead job (d.nextSolve job)))
    ∧ exec (.solverUpdateSignal now job) s = .next (s.timed now fun d => d.admitDeltas job)
    ∧ (∀ (d e : Device) r desc st x, d.solver job = some (r, desc, st, x) → x.queue.length < 16 →
        d.takeHook (.job job) (SDesc.updateHook desc) 1 = (e, true) →
        d.admitDelta job =
          (let queue := x.queue ++ [{ drawer := none, slot := x.nextSlot, bytes := [] }]
           e.setSolv job { x with queue, nextSlot := (x.nextSlot + 1) % max 1 (SDesc.slots desc) }))
    ∧ (∀ r desc st x v p, (advance now s.dev).solving job = some (r, desc, st, x, v, p) →
        let inst := SDesc.inst desc
        let go := fun (d : Device) =>
          let e := (d.applyQueued job p.seq x.queue.length).formZero job
          e.serve inst (d.served inst <|> e.chooseSolve inst)
        (v.applied = false → reached (advance now s.dev).hub (budgetEnd desc p) = false → SDesc.inCount desc = 0 →
          (advance now s.dev).engineFree (.solver ⟨SDesc.inst desc % 4, Nat.mod_lt _ (by decide)⟩) = true →
          exec (.applicationPoint now job) s = .next (s.timed now go))
        ∧ (∀ e, v.applied = false → reached (advance now s.dev).hub (budgetEnd desc p) = false → SDesc.inCount desc ≠ 0 →
          (advance now s.dev).engineFree (.solver ⟨SDesc.inst desc % 4, Nat.mod_lt _ (by decide)⟩) = true →
          (advance now s.dev).takeHook (.job job) (SDesc.inHook desc) (SDesc.inCount desc) = (e, true) →
          exec (.applicationPoint now job) s = .next (s.withDev (go e)))
        ∧ (v.applied = true → timeDiff (advance now s.dev).hub (budgetEnd desc p) ≤ 0 →
          (advance now s.dev).served inst = some job →
          let next := fun (d : Device) => d.serve inst (d.chooseSolve inst)
          exec (.iterationComplete now job .clean) s = .next (s.timed now fun d => next (d.iterate job))
          ∧ exec (.iterationComplete now job .corrected) s = .next (s.timed now fun d =>
              next ((d.chipCount (2 + inst) 1 0).iterate job))
          ∧ exec (.iterationComplete now job .uncorrectable) s = .next (s.timed now fun d =>
              next (d.solverStoreError job inst x)))
        ∧ (reached (advance now s.dev).hub (budgetEnd desc p) = true →
          exec (.solveBudgetExpiry now job) s = .next (s.timed now fun d => d.endSolve job 0x300A v.best)))

/-! ### Control Engine -/

/-- A slot's period (R513, R518, R520, R522, R527, R528): it starts at its instant in a half that works, latches its inputs LATCH_PHASE later, compares
the two results of a safety slot, and writes its output OUT_PHASE later; the write is safe where the results differ or the safe
state is held, and an uncorrectable store error found at the write stops the loop's job (R532). -/
def Obligations.SlotRowsComplete : Prop :=
  ∀ (s : State) (now : Time) (k : Fin 256) (c : Image), s.isUp →
    let d := advance now s.dev
    let x := d.slot k
    (∀ t, d.ceDesc k = some c → x.running = true → x.stage = 3 → d.slotServed c = true →
        (if CeDesc.lockEn c then x.gen.due = some t
          else t = (if x.gen.first then x.gen.last else addT x.gen.last (CeDesc.period c))) → reached d.ceNow t = true →
        exec (.slotPeriodStart now k) s = .next (s.timed now fun d =>
          ((d.setSlot k { x with
            gen := { x.gen with last := t, first := false, due := none }
            period := if x.gen.first then 0 else x.period + 1
            epoch := (d.part (d.slotPart c)).epoch
            stage := 0, badNow := false, compared := false, out := none, out2 := none
            mismatched := x.mismatched || x.mismatchNext, mismatchNext := false }).ackSlot k).finishModes))
    ∧ (∀ u, d.ceDesc k = some c → x.running = true → x.stage = 0 →
        reached d.ceNow (addT x.gen.last (CeDesc.latchPhase c)) = true →
        exec (.inputLatch now k u) s = .next (s.timed now fun d => d.latchSlot k c u))
    ∧ (∀ a b, x.stage = 1 → x.out = some a → x.out2 = some b →
        (a.y = b.y → a.x = b.x → a.z = b.z → exec (.loopCompare now k) s = .next (s.timed now fun d =>
          d.setSlot k { x with compared := true, badNow := false, stage := 2 }))
        ∧ ((a.y ≠ b.y ∨ a.x ≠ b.x ∨ a.z ≠ b.z) → exec (.loopCompare now k) s = .next (s.timed now fun d =>
          ((d.setSlot k { x with compared := true, badNow := a.y != b.y, mismatchNext := true, stage := 2 }).slotCount k fun n =>
            { n with mismatch := sat32 (n.mismatch + 1) }).notify stLoopMismatch srcSlot (BitVec.ofNat 16 k))))
    ∧ (∀ r finding, d.ceDesc k = some c → x.running = true → (if d.slotSafety c then x.stage = 2 else x.stage = 1) →
        reached d.ceNow (addT x.gen.last (CeDesc.outPhase c)) = true →
        d.lowerSlotDue k (addT x.gen.last (CeDesc.outPhase c)) = false → (d.writeSlot k c finding).job (BitVec.ofNat 16 (CeDesc.jobId c)) = some r →
        exec (.outputWrite now k finding) s = .next (s.timed now fun d =>
          let e := d.writeSlot k c finding
          ((if finding = .uncorrectable then e.stopJob r else e).settleStop r.id).settleStarts))

/-- Edges (R370, R519, R543): an edge on a period pin is offered to every slot, job and to Fusion that uses the pin; a window that
ends without an edge misses it, counts it and starts the period at the window's end. -/
def Obligations.EdgeRowsComplete : Prop :=
  ∀ (s : State) (now : Time), s.isUp →
    let d := advance now s.dev
    (∀ pin : Fin 8, d.ceDescs = [] → (∀ r ∈ d.activeJobs, JobRec.pin r.image ≠ pin.val) →
        ∀ r desc, d.fusionJob = some (r, desc) → d.eng.fus.running = true → FusDesc.lockEn desc = true →
        FusDesc.pin desc = pin.val →
        exec (.periodInEdge now pin) s = .next (s.timed now fun d => d.fus fun x => { x with due := x.due ++ [d.hub] }))
    ∧ (∀ pin : Fin 8, exec (.periodInEdge now pin) s = .next (s.timed now fun d =>
        let d := ((d.ceDescs.map (·.2)).filter fun c => CeDesc.pin c == pin.val).foldl
          (fun (d : Device) c => d.slotEdge (CeDesc.slot c) c) d
        ((d.activeJobs.filter fun r => JobRec.pin r.image == pin.val).foldl Device.jobEdge d).fusionEdge pin.val))
    ∧ (∀ (k : Fin 256) c, d.ceDesc k = some c → (d.slot k).running = true → (d.slot k).stage = 3 → (d.slot k).gen.due = none →
        CeDesc.lockEn c = true → d.slotServed c = true → reached d.ceNow ((d.slot k).gen.windowEnd (CeDesc.period c)) = true →
        exec (.edgeWindowExpiry now (.slot k)) s = .next (s.timed now fun d =>
          let g := (d.slot k).gen.miss (CeDesc.period c)
          let e := (d.setSlot k { d.slot k with gen := g.1 }).slotCount k fun n => { n with missedEdge := sat32 (n.missedEdge + 1) }
          let e := if g.2 then e.notify stPeriodLost srcSlot (BitVec.ofNat 16 k) else e
          e.beginSlotPeriod k c ((d.slot k).gen.windowEnd (CeDesc.period c))))
    ∧ (∀ j r x, d.job j = some r → d.lockedRun r = some x → x.gen.due = none →
        reached d.hub (x.gen.windowEnd (lockPeriod r)) = true →
        exec (.edgeWindowExpiry now (.job j)) s = .next (s.timed now fun d =>
          let g := x.gen.miss (lockPeriod r)
          let e := d.setRun r.id { x with gen := g.1 }
          let e := if g.2 then e.notify stPeriodLost srcJob r.id else e
          e.periodicDue r (x.gen.windowEnd (lockPeriod r))))

/-! ### Dispatcher -/

/-- Periods begin (R542, R544, R545, R602): a periodic job that is idle starts at its instant, a Hook-triggered one takes the
whole count of its Hook, counts what it took beyond one as skipped and starts, and its state slots' queues follow the Hook (R244), and the grants for background work go in job order. -/
def Obligations.PeriodStartRowsComplete : Prop :=
  ∀ (s : State) (now : Time), s.isUp →
    let d := advance now s.dev
    (∀ j r x t, d.job j = some r → d.nextDue r = some t → reached d.hub t = true → d.openPeriod r.id = none →
        d.run r.id = some x → d.inBoundary r.part = false →
        (r.background = false → x.idle = true →
          exec (.periodicPeriodStart now j) s = .next (s.timed now fun d => d.startPeriod r x t))
        ∧ (r.background = true → x.idle = true → s.dev.pow.gov.barred = false →
          exec (.periodicPeriodStart now j) s = .next (s.timed now fun d => d.setRun r.id
            { x with phase := .waiting, waitS := some t, gen := { x.gen with last := t, first := false, due := none } })))
    ∧ (∀ j r x, d.job j = some r → d.run r.id = some x → x.idle = true → JobRec.trigger r.image = 1 →
        d.inBoundary r.part = false → (d.hook (JobRec.triggerHook r.image)).count ≠ 0 →
        let h := JobRec.triggerHook r.image
        (r.background = false → exec (.hookTriggeredStart now j) s = .next (s.timed now fun d =>
          ((((d.setHook h { d.hook h with count := 0 }).count (clientOf r) 3 ((d.hook h).count - 1)).startPeriod r x d.hub)).syncChunks
            r))
        ∧ (r.background = true → exec (.hookTriggeredStart now j) s = .next (s.timed now fun d =>
          (d.setRun r.id { x with phase := .waiting }).syncChunks r)))
    ∧ exec (.backgroundGrant now) s = .next (s.timed now fun d =>
        (sortBy (fun (a b : JobRef) => decide (a.id ≤ b.id)) (d.activeJobs.filter JobRef.background)).foldl Device.considerGrant d)
    ∧ (∀ r x v, d.run r.id = some x → x.started = true → x.stopping = false → x.barred = false → x.period = none →
        x.phase = .waiting → d.inBoundary r.part = false → d.unitInSlice r = false →
        (if r.engine = engTrestle then d.chooseVariant r x d.hub else some 0) = some v → d.budgetOk r x v = true →
        (d.variantTiles r v).all d.tileFree = true → d.considerGrant r = d.startGranted r { x with phase := .idle })

/-- Periods end and are put aside (R548 to R552, R554 to R556): a late period is withheld with ST_LATE at its deadline, a done one is published,
a withheld one is cleaned up; background work on tiles that other work needs is saved, and resumed when its tiles are free; a tile whose
store or saved context has an uncorrectable error withholds the period (R112, log 23). -/
def Obligations.PeriodEndRowsComplete : Prop :=
  ∀ (s : State) (now : Time) (j : BitVec 16) (r : JobRef) (x : JobRun) (p : Period), s.isUp →
    (advance now s.dev).openPeriod j = some (r, x, p) →
    let d := advance now s.dev
    (∀ e, d.isLate r p = true → r.deadline p = some e → exec (.deadlineExpiry now j) s = .next (s.timed now fun d =>
        (((((d.cancelPeriod j stLate).modPeriod j fun q => { q with cause := some (stLate, e) }).dropSaved j).cleanUp
          j).startPlanners).settleStarts))
    ∧ (p.cause.isSome = true → exec (.periodComplete now j) s = .next (s.timed now fun d =>
        ((d.cleanUp j).startPlanners).settleStarts))
    ∧ (∀ st t, p.cause = none → p.done = some (st, t) → d.isLate r p = false → d.hookPending j = false →
        exec (.periodComplete now j) s = .next (s.timed now fun d => d.publish r p st t))
    ∧ (r.background = true → r.engine = engTrestle → x.phase = .running → p.cause = none → p.done = none →
        ((d.part r.part).mode.isSome = true ∨ d.pow.gov.barred = true
          ∨ d.activeJobs.any (fun q => q.id != j && q.engine == engTrestle && ((d.nextDue q).isSome
              || (d.run q.id).any fun y => y.period.isSome || y.phase == .waiting)
            && (List.range (JobRec.variants q.image)).any fun v => (d.variantTiles q v).any p.left.contains) = true) →
        exec (.saveBegin now j) s = .next (s.timed now fun d =>
          (p.left.foldl (fun (d : Device) (t : Fin 4160) =>
            { d.setTile t (d.tile t).beginSave with hooks := d.hooks.forgetWaits (.tile t) }) d).setRun j
              { x with phase := .saving, stopWait := p.left }))
    ∧ (∀ (t : Fin 4160) se f, d.tileJob t = some j → (d.tile t).t.phase = .saving → x.phase = .saving →
        (d.storeRead t se [(0, saveStore)] = (f, true) →
          exec (.preemptSaveDone now ⟨t, se⟩) s = .next (s.withDev ((f.dropSaved r.id).consumePoison t)))
        ∧ (d.storeRead t se [(0, saveStore)] = (f, false) → exec (.preemptSaveDone now ⟨t, se⟩) s = .next (s.withDev (
          let y := f.tile t
          let e := f.writeSave r (JobRec.saveBase r.image + saveImage * f.savePos r p t) y
          let e := { e with saved := e.saved.put (r.id.toNat * 8192 + t.val) y }
          let e := e.setTile t { y with t := { y.t with phase := .idle, job := none, queues := [[], [], [], []] }
                                        r := TileRun.fresh }
          let rest := x.stopWait.filter (· != t)
          let e := e.setRun r.id { x with stopWait := rest, phase := if rest.isEmpty then .saved else .saving }
          if rest.isEmpty then e.settleStarts else e))))
    ∧ (∀ e lost, x.phase = .saved → p.left.all d.tileFree = true → d.budgetOk r x p.variant = true → d.inBoundary r.part = false →
        let back := fun (a : Device × List (Fin 4160)) (t : Fin 4160) =>
          ((a.1.reloadTile r p t).1, if (a.1.reloadTile r p t).2 then a.2 ++ [t] else a.2)
        p.left.foldl back (d, []) = (e, lost) → exec (.resume now j) s = .next (s.withDev (
          lost.foldl Device.consumePoison
            ((e.dropSaved j).setRun j { x with phase := .running, period := some { p with preempted := true } }))))
    ∧ (∀ (t : Fin 4160) y, d.saved.find (r.id.toNat * 8192 + t.val) = some y →
        let base := JobRec.saveBase r.image + saveImage * d.savePos r p t
        let g := d.dmaRead r.part base saveStore []
        let h := g.1.hubRead r.part (base + saveStore) saveContext
        let z := (({ y with t := { y.t with phase := .running, store := [], poison := [] } } : TileState).putStore 0 g.2.1).setResumed
        d.reloadTile r p t = (h.1.setTile t { z with t := { z.t with poison := g.2.2 } }, h.2))

/-! ### Tiles -/

/-- The sequencer of a running tile (R136, R137, R153 to R157, R160, R164, R186): HOOK_WAIT and HOOK_SIGNAL put their marks in the named queues while
these have room, HOOK_WAIT_TRY leaves its request and goes on at once, LOOP opens a loop, BRANCH_EPOCH goes to its
target where the epoch compares as asked, and END signals and ends the tile's work once everything is done. -/
def Obligations.TileSequencerRowsComplete : Prop :=
  ∀ (s : State) (now : Time) (t : Fin 4160) (w : BitVec 128), s.isUp →
    let d := advance now s.dev
    let x := d.tile t
    x.t.phase = .running → x.current = some w →
    (∀ y, Cmd.op w.toNat = 0x07 → HookCmd.isTry w.toNat = false → x.placeAll w = some y →
        exec (.hookWait now t) s = .next (s.timed now fun d =>
          let m : WaitMark := { id := x.t.nextId, units := BitVec.ofNat 4 (HookCmd.units w.toNat), hook := HookCmd.hook w.toNat,
                                count := HookCmd.count w.toNat, sent := false, released := false }
          (d.setTile t ({ y with r := { y.r with waits := y.r.waits ++ [m] } }).nextPc).settleTile t))
    ∧ (∀ y, Cmd.op w.toNat = 0x08 → x.placeAll w = some y →
        exec (.hookSignal now t) s = .next (s.timed now fun d =>
          let m : SignalMark := { id := x.t.nextId, units := BitVec.ofNat 4 (HookCmd.units w.toNat),
                                  hook := HookCmd.hook w.toNat, count := HookCmd.count w.toNat }
          (d.setTile t ({ y with r := { y.r with marks := y.r.marks ++ [m] } }).nextPc).settleTile t))
    ∧ (Cmd.op w.toNat = 0x07 → HookCmd.isTry w.toNat = true →
        exec (.hookWaitTry now t) s = .next (s.timed now fun d =>
          let m : TryMark := { id := x.t.nextId, addr := (x.entryOf w).addr (HookCmd.resultAddr w.toNat),
                               hook := HookCmd.hook w.toNat, count := HookCmd.count w.toNat, sent := false, result := none }
          (d.setTile t ({ x with r := { x.r with tries := x.r.tries ++ [m] } }).nextPc).settleTile t))
    ∧ (Cmd.op w.toNat = 0x09 → exec (.loopBody now t) s = .next (s.timed now fun d =>
          let f : LoopFrame := { first := x.t.pc + 1, len := LoopCmd.len w.toNat, count := LoopCmd.count w.toNat, index := 0,
                                 stride := LoopCmd.stride w.toNat }
          (d.setTile t { x with t := { x.t with pc := x.t.pc + 1, nextId := x.t.nextId + 1, loops := f :: x.t.loops } }).settleTile
            t))
    ∧ (Cmd.op w.toNat = 0x0A →
        ((x.t.epoch.toNat == Branch.epoch w.toNat) = !(Branch.cond w.toNat) → exec (.branchEpoch now t) s = .next (s.timed now fun d =>
          (d.setTile t { x with t := { x.t with pc := Branch.target w.toNat, nextId := x.t.nextId + 1 } }).settleTile t))
        ∧ ((x.t.epoch.toNat == Branch.epoch w.toNat) = Branch.cond w.toNat → exec (.branchEpoch now t) s = .next (s.timed now fun d =>
          (d.setTile t x.nextPc).settleTile t)))
    ∧ (∀ j, Cmd.op w.toNat = 0x0F → x.allDone = true → d.tileJob t = some j →
        exec (.endProgram now t) s = .next (s.timed now fun d =>
          let e := d.setTile t { t := { x.t with phase := .idle, pc := 0, loops := [] }, r := { x.r with segments := [] } }
          ((e.tileSignal t (EndCmd.hook w.toNat) (EndCmd.count w.toNat)).tileDone j t x.r.nonfinite).settleTile t))

/-- A tile's start, refill, waits, stop and scrub (R113, R159, R162, R163, R165, R186, R664): an accepted START fetches the program with
fresh registers and the epoch in the start word; a released wait leaves its queues; a refill reads the segments that the tile wants and does not hold from the
program's image in main memory; a stopping
tile with nothing in flight becomes idle; a scrub counts a corrected word, and poisons an uncorrectable one and charges the bucket.
While the tile runs or stops, a SEND's packets, in order for each destination (R178), end at the destination's store with its signal, and a transfer outward becomes
visible in memory and signals its Hook (R150, R169). -/
def Obligations.TileControlRowsComplete : Prop :=
  ∀ (s : State) (now : Time) (t : Fin 4160), s.isUp →
    let d := advance now s.dev
    let x := d.tile t
    (∀ r y p, x.t.phase = .starting → (d.tileJob t).bind d.openPeriod = some (r, y, p) →
        d.domOn (groupOf t) = true → (x.segment 0).isSome = true →
        exec (.tileStart now t) s = .next (s.timed now fun d =>
          let e := d.bump
          let regs : TileRegs := { TileRegs.fresh with undef := e.clk.nonce * 4160 + t.val, rngSeed := x.t.regs.rngSeed,
                                                       rngCount := x.t.regs.rngCount }
          let tl : Tile := { x.t with phase := .running, pc := 0, loops := [], nextId := 1, queues := [[], [], [], []], regs,
                                      epoch := p.epoch }
          let z : TileState := { t := tl, r := { TileRun.fresh with
            segments := x.r.segments, tries := x.r.tries.map fun m => { m with id := 0 } } }
          let w := mkImage [(0, 64, x.t.startWord), (64, 16, tl.epoch.toNat), (80, 176, x.t.startWord / 2 ^ 80)]
          (e.setTile t (z.putStore startWordAddr (natLE w 32))).settleTile t))
    ∧ (∀ m, x.t.phase = .running → x.r.waits.find? (·.released) = some m →
        exec (.hookWaitDone now t) s = .next (s.timed now fun d => (d.setTile t (x.endWait m.id)).settleTile t))
    ∧ (∀ me ce c, x.t.program = some c → exec (.refillDone now ⟨t, me, ce⟩) s = .next (s.timed now fun d =>
        let f := (x.wanted c.segments).foldl (fun (a : Device × List Segment) k => match x.segment k with
          | some g => (a.1, a.2 ++ [g])
          | none =>
            let g := a.1.dmaRead c.part (c.base + 1024 * k) 1024 me
            (g.1.cacheTouch c.part (c.base + 1024 * k) 1024 0 false, a.2 ++ [Segment.ofBytes c k g.2.1 g.2.2])) (d.cacheErrors ce, [])
        let y := f.1.tile t
        (f.1.setTile t { y with r := { y.r with segments := f.2 } }).settleTile t))
    ∧ (∀ j y, x.t.phase = .stopping → x.r.sends = [] → x.r.dmas = [] → d.signalsGone t = true → x.t.job = some j →
        d.run j = some y → exec (.tileStopped now t) s = .next (s.timed now fun d =>
          let e := d.setTile t { t := { x.t with phase := .idle, pc := 0, loops := [] }, r := { TileRun.fresh with segments := [] } }
          (((e.setRun j { y with stopWait := y.stopWait.filter (· != t) }).cleanUp j).startPlanners).settleStarts))
    ∧ (d.domOn (groupOf t) = true → ∀ word : Fin 4096,
        exec (.tileScrub now t word .clean) s = .next { s with dev := d }
        ∧ exec (.tileScrub now t word .corrected) s = .next (s.timed now fun d =>
            d.setTile t { x with t := { x.t with ceCount := min 65535 (x.t.ceCount + 1) } })
        ∧ exec (.tileScrub now t word .uncorrectable) s = .next (s.timed now fun d =>
            let new := ((List.range 32).map (32 * word.val + ·)).filter fun a => !x.t.poison.contains a
            (d.setTile t { x with t := { x.t with poison := (new ++ x.t.poison).mergeSort } }).addBucket t))
    ∧ (∀ (i : Nat) f u, x.r.sends[i]? = some f → (∀ g ∈ x.r.sends.take i, g.dest ≠ f.dest) → x.live = true →
        d.serving f.dest = some u → exec (.sendAcknowledged now ⟨t, i⟩) s = .next (s.timed now fun d =>
          let e := d.setTile t { x with r := { x.r with sends := x.r.sends.eraseIdx i } }
          ((e.setTile u ((e.tile u).putAll f.packets)).tileSignal t f.hook f.count).settleTile t))
    ∧ (∀ f r, x.live = true → x.flightOf false = some f → (d.tileJob t).bind d.job = some r →
        exec (.dmaOutVisible now t) s = .next (s.timed now fun d =>
          let e := f.runs.foldl (fun (d : Device) w =>
            ((List.range (w.2.length / 256)).foldl (fun (d : Device) i => match d.viewPhys r.part (w.1 + 256 * i) with
              | some y => d.wroteLine y
              | none => d) (d.writeViewBytes r.part w.1 w.2)).cacheTouch r.part w.1 w.2.length f.pol true)
            (d.setTile t (x.endFlight f))
          (e.tileSignal t f.hook f.count).settleTile t))

/-- The Array and Gate units of a running tile (R80, R81, R85, R87, R92, R93, R99, R138, R141, R663): LOAD_W fills the staging block and the checker's, PASS runs on it
while a group may close, a drain takes the closed group and clears its accumulators, a checksum that disagrees withholds the
period and charges the bucket, and a GATE chain runs; a PASS that would use a poisoned value withholds the period with
ST_UNCORRECTABLE instead (R112). -/
def Obligations.TileUnitRowsComplete : Prop :=
  ∀ (s : State) (now : Time) (t : Fin 4160), s.isUp →
    let d := advance now s.dev
    let x := d.tile t
    x.t.phase = .running →
    (∀ se e, d.unitHead t 0 0x01 = some e → exec (.loadW now t se) s = .next (s.timed now fun d =>
        let f := d.storeRead t se (x.touch e).reads
        let y := f.1.tile t
        let b := y.block e f.2
        ((f.1.setTile t { y with t := { y.t with regs := { y.t.regs with
          staging := some b, checkStaged := some b.checked } } }).popUnit t 0).settleTile t))
    ∧ (∀ se e f, d.unitHead t 0 0x02 = some e → (x.r.groupOpen = true ∨ x.r.closing.length < 2) →
        d.storeRead t se (x.touch e).reads = (f, false) → x.usedBad = false →
        exec (.arrayPass now t se) s = .next (s.withDev (
          ((f.setTile t ((f.tile t).runPass e)).popUnit t 0).settleTile t)))
    ∧ (∀ se e f bad, d.unitHead t 0 0x02 = some e → (x.r.groupOpen = true ∨ x.r.closing.length < 2) →
        d.storeRead t se (x.touch e).reads = (f, bad) → (bad || x.usedBad) = true →
        exec (.arrayPass now t se) s = .next { s with dev := (f.consumePoison t).settleTile t })
    ∧ (∀ g rest, x.r.drains = [] → (x.queue 1).any (fun e => e.op == 0x03 && Gate.src e.w) = true →
        x.r.closing = g :: rest → exec (.drain now t) s = .next (s.timed now fun d =>
          let half := if rest.isEmpty then !x.t.regs.half else x.t.regs.half
          (d.setTile t
            { t := { x.t with regs := { x.t.regs with
                acc := (List.range g.1.length).foldl (fun (t : Tbl F32) i => t.put (accIndex half i) 0) x.t.regs.acc } }
              r := { x.r with closing := rest, drains := [g] } }).settleTile t))
    ∧ (∀ c rest, x.r.checks = c :: rest →
        (∀ fs, c.agrees fs = true → exec (.checksumCompare now t fs) s = .next (s.timed now fun d =>
          (d.setTile t { x with r := { x.r with checks := rest } }).settleTile t))
        ∧ (∀ fs, c.agrees fs = false → exec (.checksumCompare now t fs) s = .next (s.timed now fun d =>
          (((d.setTile t { x with r := { x.r with checks := rest } }).tileWithhold t stCheckMismatch).addBucket t).settleTile t)))
    ∧ (∀ c : PassCheck, c.agrees [] = c.sums.all fun p => sumsMatch p.1 p.2)
    ∧ (∀ from_ se e, x.gateNext from_ = some e → d.mayRun t e = true →
        (from_ = true → x.r.drains ≠ []) →
        exec (.gateChain now t from_ se) s = .next (s.timed now fun d => (d.runGate t se e).settleTile t))

/-- The Send and DMA units (R149, R150, R152, R166 to R170): a SEND takes its data into packets of at most 512 bytes (R175); one to a
tile that nothing serves withholds the period; a DMA reads its descriptor, a poisoned one withholds the period (R112), and then
reads or writes its rows; a transfer inward lands in the store and signals its Hook; a descriptor
that breaks the rules withholds the period with ST_ACCESS. -/
def Obligations.TileTransferRowsComplete : Prop :=
  ∀ (s : State) (now : Time) (t : Fin 4160), s.isUp →
    let d := advance now s.dev
    let x := d.tile t
    x.t.phase = .running →
    (∀ se e f, d.unitHead t 2 0x04 = some e → (Send.srcQ e.w = true → 32 * Send.words e.w ≤ x.r.sendQ.length) →
        (d.serving (Send.dest e.w)).isSome = true → d.storeRead t se (x.touch e).reads = (f, false) →
        exec (.meshSend now t se) s = .next (s.withDev (
          let y := f.tile t
          let n := 32 * Send.words e.w
          let data := if Send.srcQ e.w then y.r.sendQ.take n else y.getStore (e.addr (Send.srcAddr e.w)) n
          let g : SendFlight := { cmd := e, dest := Send.dest e.w, packets := meshPackets (e.addr (Send.destAddr e.w)) data,
                                  span := (x.touch e).reads, hook := Send.hook e.w, count := Send.count e.w }
          ((f.setTile t { y with r := { y.r with sends := y.r.sends ++ [g],
                                                 sendQ := if Send.srcQ e.w then y.r.sendQ.drop n else y.r.sendQ } }).popUnit
            t 2).settleTile t)))
    ∧ (∀ se e, d.unitHead t 2 0x04 = some e → (Send.srcQ e.w = true → 32 * Send.words e.w ≤ x.r.sendQ.length) →
        d.serving (Send.dest e.w) = none → exec (.meshSend now t se) s = .next (s.timed now fun d =>
          (d.tileWithhold t stTileFenced).settleTile t))
    ∧ (∀ se me ce e r f, d.unitHead t 3 0x05 = some e → (d.tileJob t).bind d.job = some r →
        (d.storeRead t se [(e.addr (Dma.desc e.w), 32)] = (f, true) →
          exec (.dmaIn now t ⟨se, me⟩ ce) s = .next (s.withDev ((f.consumePoison t).settleTile t)))
        ∧ (d.storeRead t se [(e.addr (Dma.desc e.w), 32)] = (f, false) →
          (dmaDescOk (x.desc e) e false = true → kvRows (x.desc e) e = false →
            exec (.dmaIn now t ⟨se, me⟩ ce) s = .next (s.withDev (((f.cacheErrors ce).startDma t r e false me).settleTile t)))
          ∧ (dmaDescOk (x.desc e) e false = true → kvRows (x.desc e) e = true → ce.kvBad = false →
            exec (.dmaIn now t ⟨se, me⟩ ce) s = .next (s.withDev (
              (((f.chipCount 8 ce.kvCorrected 0).cacheErrors ce).startDma t r e false me).settleTile t)))
          ∧ (dmaDescOk (x.desc e) e false = false →
            exec (.dmaIn now t ⟨se, me⟩ ce) s = .next (s.withDev ((f.tileAccess t).settleTile t)))))
    ∧ (∀ se e r g f, d.unitHead t 3 0x06 = some e → (d.tileJob t).bind d.job = some r → dmaDescOk (x.desc e) e true = true →
        d.storeRead t se [(e.addr (Dma.desc e.w), 32)] = (g, false) →
        g.storeRead t { se with corrected := 0 } (x.touch e).reads = (f, false) →
        exec (.dmaOut now t se) s = .next { s with dev := (f.startDma t r e true []).settleTile t })
    ∧ (∀ f, x.flightOf true = some f → exec (.dmaInLanded now t) s = .next (s.timed now fun d =>
        let y := (x.endFlight f).putAll f.runs
        ((d.setTile t { y with t := { y.t with poison := (f.bad ++ y.t.poison).mergeSort } }).tileSignal t f.hook
          f.count).settleTile t))

/-! ### Hook array -/

/-- The Hook array's requests (R181 to R185, R627): a landed SIGNAL adds to a Hook of its job; one to another job's Hook
withholds the period with ST_ACCESS; an uncorrectable entry is not applied; a WAIT and a TRY are answered in turn; a RESET that is
allowed empties the Hook and ends its waits; a refused WAIT tries again after its time. -/
def Obligations.HookArrayRowsComplete : Prop :=
  ∀ (s : State) (now : Time) (i : Nat), s.isUp →
    let d := advance now s.dev
    (∀ w j h n, d.hooks.next i = some (.signal w j h n) →
        (d.hookMine j h = true → exec (.hookArraySignal now i .clean) s = .next (s.timed now fun d =>
            ((d.landed i).signalHook (.job j) h n).cleanUp j))
        ∧ (d.hookMine j h = false → exec (.hookArraySignal now i .clean) s = .next (s.timed now fun d =>
            ((d.landed i).withholdStop j stAccess).cleanUp j))
        ∧ exec (.hookArraySignal now i .uncorrectable) s = .next (s.timed now fun d => (d.landed i).hookBad h))
    ∧ (∀ w h n, d.hooks.next i = some (.wait w h n) → (d.landed i).hookAllowed w h = true →
        ((d.hook h).waiters = [] → n ≤ (d.hook h).count → exec (.hookArrayWait now i) s = .next (s.timed now fun d =>
          ((((d.landed i).setHook h { d.hook h with count := (d.hook h).count - n }).resumeWaiter h ⟨w, n⟩).afterHook w)))
        ∧ (((d.hook h).waiters ≠ [] ∨ (d.hook h).count < n) → (d.hook h).waiters.length < 32 →
          exec (.hookArrayWait now i) s = .next (s.timed now fun d =>
            ((d.landed i).setHook h { d.hook h with waiters := (d.hook h).waiters ++ [⟨w, n⟩] }).afterHook w))
        ∧ ((d.hook h).waiters.length = 32 → exec (.hookArrayWait now i) s = .next (s.timed now fun d =>
            ((d.landed i).setHook h { d.hook h with retry := (d.hook h).retry ++ [(⟨w, n⟩, addT d.hub 256)] }).afterHook w)))
    ∧ (∀ t h n, d.hooks.next i = some (.try (.tile t) h n) → (d.landed i).hookAllowed (.tile t) h = true →
        exec (.hookTry now i) s = .next (s.timed now fun d =>
          ((d.landed i).setHook h ((d.hook h).try n).1).answerTry t ((d.hook h).try n).2))
    ∧ (∀ h : Fin 16384,
        (d.mayReset h = true → exec (.hookArrayReset now h) s = .next (s.timed now fun d =>
          ((d.hook h).waiters ++ (d.hook h).retry.map (·.1)).foldl (fun d w => d.cancelWait h w) (d.setHook h Hook.fresh)))
        ∧ (d.mayReset h = false → exec (.hookArrayReset now h) s = .next { s with dev := d }))
    ∧ (∀ (h : Fin 16384) w t, (d.hook h).retry[i]? = some (w, t) → reached d.hub t = true →
        exec (.waitRetry now h i) s = .next (s.timed now fun d =>
          (d.setHook h { d.hook h with retry := (d.hook h).retry.eraseIdx i }).waitHook w.who h w.n))

/-! ### Governor, power domains and memory errors -/

/-- The power governor (R585, R587, R591 to R597, R604): each interval estimates the power, attributes it and steps the caps; the
trim moves by at most 3 W; a junction reading with no sensor at 105 °C only stores, one at 110 °C stops the module; a group above the limit for
100 ms stops it; a die that cooled leaves its emergency; an overrun of 50 µs puts background work aside, one of 10 ms posts
ST_POWER_LIMIT; a droop is counted. -/
def Obligations.GovernorRowsComplete : Prop :=
  ∀ (s : State) (now : Time), s.isUp →
    let d := advance now s.dev
    let g := d.pow.gov
    (∀ r : GovernorReading, exec (.governorInterval now r) s = .next (s.timed now fun d =>
        let e := d.bump
        let est := e.estimate r.counts
        let f := e.gov fun g => { g with vBatt := r.battMv, iBatt := r.battMa, pEst := est
                                         history := (est :: g.history).take 500, pPeak := max g.pPeak est }
        ((f.attribute (f.attributed r.counts) r.pinNj).watchPower).stepCaps))
    ∧ (∀ m : Int, exec (.trimUpdate now m) s = .next (s.timed now fun d => d.gov fun g =>
        { g with trim := g.trim + max (-3000000) (min 3000000 (m - g.p1ms)) }))
    ∧ (∀ raw : List (BitVec 16),
        let rs := (raw.take 144).zipIdx.map fun (e : BitVec 16 × Nat) => d.corrected e.2 e.1.toInt
        let used := (rs.zipIdx.map fun (e : Int × Nat) => (e.2, e.1)).filter fun e => g.inUse e.1
        ((∀ e ∈ used, e.2 < 6720) → exec (.junctionSensorRead now raw) s = .next (s.timed now fun d => d.gov fun g =>
          { g with sensors := rs, hotSince := [],
                   heat := g.heat.zipIdx.map fun (e : DieHeat × Nat) =>
                     { e.1 with coolSince := if (used.filter fun u => sensorDie u.1 == e.2).all
                                  (fun u => decide (u.2 < (64 * g.limits.tjTarget : Nat))) then some (e.1.coolSince.getD d.hub)
                                else none } }))
        ∧ ((∃ e ∈ used, 7040 ≤ e.2) → ∃ u, exec (.junctionSensorRead now raw) s = .next u ∧ u.pending = s.pending
            ∧ u.dev.pow.phase = .shut ∧ u.dev.lect.safe = true ∧ u.dev.lect.pinA = false ∧ u.dev.lect.pinB = false))
    ∧ (∀ e, g.hotSince.find? (fun e => reached d.hub (addT e.2 (usHub 100000))) = some e →
        exec (.thermalHoldExpiry now) s = .next (s.timed now fun d =>
          ((d.enterSafe .thermal stThermal (BitVec.ofNat 16 e.1)).event stThermal srcSensor (BitVec.ofNat 16 e.1) 0).shutdown))
    ∧ (∀ die t, let k : Nat := match die with
          | .die0 => 0
          | .die1 => 1
          | .hub => 2
        nth g.heat k ⟨false, none⟩ = ⟨true, some t⟩ → reached d.hub (addT t (usHub 1000)) = true →
        exec (.thermalRecovery now die) s = .next (s.timed now fun d => d.gov fun g =>
          { g with heat := setAt g.heat k ⟨false, some t⟩ }))
    ∧ (∀ t, g.overSince = some t → reached d.hub (addT t (usHub 50)) = true →
        exec (.powerOverrunPreempt now) s = .next (s.timed now fun d =>
          let e := d.gov fun g => { g with barred := true }
          let rs := e.activeJobs.filterMap fun r =>
            if r.background ∧ r.engine = engTrestle then (e.openPeriod r.id).map fun o => (r, o.2.2.left.length) else none
          (sortBy (fun (a b : JobRef × Nat) => decide (b.2 ≤ a.2)) rs).foldl
            (fun (d : Device) (e : JobRef × Nat) => d.beginSave e.1.id) e))
    ∧ (∀ t, g.limitRaised = false → g.limitSince = some t → reached d.hub (addT t (usHub 10000)) = true →
        exec (.powerLimitEvent now) s = .next (s.timed now fun d =>
          (d.gov fun g => { g with limitRaised := true }).event stPowerLimit srcNone 0 0))
    ∧ (∀ die, exec (.droopDetect now die) s = .next (s.timed now fun d => d.gov fun g => { g with droops := sat32 (g.droops + 1) }))

/-- Power domains (R579, R583, R584): an idle domain that nothing needs begins to go off; when it is off it loses its state, or goes on
again if it is needed; when it is on it works. Main-memory scrubs (R631, R639) read and repair the patrol line and the demanded
lines; the persistent record is written without what SERVICE_CLEAR removed (R127, R645, R752). -/
def Obligations.DomainAndScrubRowsComplete : Prop :=
  ∀ (s : State) (now : Time), s.isUp →
    let d := advance now s.dev
    (∀ (k : Fin 68) t, d.dom k = .on (some t) → d.needed k = false → reached d.hub (addT t (usHub (idleUs k))) = true →
        exec (.domainIdleTimeout now k) s = .next (s.timed now fun d => d.setDom k (.goingOff d.hub false)))
    ∧ (∀ (k : Fin 68) t again, d.dom k = .goingOff t again →
        let e := (d.setDom k .off).loseDomain k
        (e.enteringStandby = none → (again || e.needed k) = false → exec (.domainOffDone now k) s = .next { s with dev := e })
        ∧ (e.enteringStandby = none → (again || e.needed k) = true →
            exec (.domainOffDone now k) s = .next { s with dev := e.setDom k (.goingOn e.hub) })
        ∧ (∀ n, e.enteringStandby = some n → e.allOff = false → exec (.domainOffDone now k) s = .next { s with dev := e })
        ∧ (∀ n, e.enteringStandby = some n → e.allOff = true → e.pow.wake = none →
            exec (.domainOffDone now k) s = .next { s with dev := e.inStandby n }))
    ∧ (∀ (k : Fin 68) t, d.dom k = .goingOn t → exec (.domainOnDone now k) s = .next (s.timed now fun d =>
        ((((d.setDom k (.on none)).gainDomain k).settleDomains).startPlanners).settleStarts))
    ∧ (∀ (k : Fin 4) found reread, d.domOn (setDomain k) = true → (d.memSet k).excluded = false →
        exec (.patrolScrub now k found reread) s = .next (s.timed now fun d =>
          let e := d.scrubLine k (d.memSet k).patrol found reread
          e.setMemSet k { e.memSet k with patrol := (d.memSet k).patrol + 1 }))
    ∧ (∀ (k : Fin 4) found reread l rest, d.domOn (setDomain k) = true → (d.memSet k).demand = l :: rest →
        exec (.demandScrub now k found reread) s = .next (s.timed now fun d =>
          (d.setMemSet k { d.memSet k with demand := rest }).scrubLine k l found reread))
    ∧ (d.bur.persistDue.isSome = true → exec (.persistRecord now) s = .next (s.timed now fun d =>
        let all : PersistCopy := { seq := 0, complete := true, fences := (d.jobs.fenced.map (·.1)).eraseDups
                                   remaps := d.mem.sets.map (·.remap), erased := d.mem.sets.map (·.erased) }
        { d with bur := { d.bur with nv := d.bur.nv.putPersist (all.without d.bur.cleared), persistDue := none } }))

/-! ### Lectern -/

/-- What the Lectern's own checks do when they fail (R627, R649 to R652, R686, R687): each cause enters the safe state with both
pins low and its bit in the cause word and posts its event; a check that finds nothing changes nothing. -/
def Obligations.LecternCheckRowsComplete : Prop :=
  ∀ (s : State) (now : Time), s.isAwake →
    (∀ (d : Device) (c : SafeCause) (st : Status), let e := d.lecternCause c st
        e.lect.safe = true ∧ e.lect.pinA = false ∧ e.lect.pinB = false ∧ e.lect.causes = (d.lect.causes ||| causeMask c)
          ∧ e.jobs = d.jobs ∧ e.tiles = d.tiles ∧ e.mem = d.mem ∧ e.ce = d.ce)
    ∧ exec (.lockstepMismatch now true) s = .next (s.timed now fun d =>
        (d.lecternCause .lecternFault stLecternFault).lectern fun l => { l with bootOk := true })
    ∧ exec (.lockstepMismatch now false) s = .next (s.timed now fun d =>
        ((d.lecternCause .lecternFault stLecternFault).lectern fun l => { l with bootOk := false }).watchStatus fun d =>
          d.win fun w => { w with lecternFault := true })
    ∧ exec (.lecternLinkFault now) s = .next (s.timed now fun d => d.lecternCause .lecternFault stLecternFault)
    ∧ (∀ ppm : Int, (1000 < ppm.natAbs → exec (.clockCheck now ppm) s = .next (s.timed now fun d =>
          d.lecternCause .clockFault stClockFault))
        ∧ (ppm.natAbs ≤ 1000 → exec (.clockCheck now ppm) s = .next { s with dev := advance now s.dev }))
    ∧ exec (.railOutOfRange now) s = .next (s.timed now fun d => d.lecternCause .supplyFault stSupplyFault)
    ∧ (∀ a b, ((a ≠ s.dev.lect.pinA ∨ b ≠ s.dev.lect.pinB) → exec (.safePinReadback now a b) s = .next (s.timed now fun d =>
          d.lecternCause .safePinFault stSafePinFault))
        ∧ (a = s.dev.lect.pinA → b = s.dev.lect.pinB → exec (.safePinReadback now a b) s = .next { s with dev := advance now s.dev }))
    ∧ exec (.lecternStoreScrub now .bothCopies) s = .next (s.timed now fun d => d.lecternCause .lecternFault stLecternFault)
    ∧ exec (.lecternStoreScrub now .oneCopy) s = .next { s with dev := advance now s.dev }
    ∧ exec (.lecternStoreScrub now .clean) s = .next { s with dev := advance now s.dev }

/-- The Lectern's watchdog and monitor (R655, R657, R680, R682 to R684): a kick in the window with the next number is taken, an early or wrong one
and an expired window are causes; a START token sets its check point, a RESULT token meets it, one that passes without a result is
a miss; a notification is logged and posted, with the safe state where it is a cause. -/
def Obligations.LecternMonitorRowsComplete : Prop :=
  ∀ (s : State) (now : Time), s.isAwake →
    let d := advance now s.dev
    (∀ seq, let early := ∃ t, d.lect.wdLast = some t ∧ timeDiff d.hub t < d.lect.policy.window / 4
        let wrong := d.lect.wdLast.isSome = true ∧ seq ≠ d.lect.wdSeq + 1
        (¬ early → ¬ wrong → exec (.watchdogKick now seq) s = .next (s.timed now fun d =>
          d.lectern fun l => { l with wdSeq := seq, wdLast := some d.hub }))
        ∧ (early ∨ wrong → exec (.watchdogKick now seq) s = .next (s.timed now fun d =>
          (d.lectern fun l => { l with wdSeq := seq, wdLast := some d.hub }).lecternCause .watchdog stWatchdog)))
    ∧ (∀ t, d.lect.wdLast = some t → reached d.hub (addT t d.lect.policy.window) = true →
        exec (.watchdogExpiry now) s = .next (s.timed now fun d =>
          (d.lectern fun l => { l with wdLast := some d.hub }).lecternCause .watchdog stWatchdog))
    ∧ (∀ k t e m, d.takeToken true = some (.start k t, e) → e.monEntryOf k = some m → e.monStarted k = true →
        exec (.startToken now) s = .next (s.withDev (
          let checks := if m.deadline = 0 then m.checks
            else m.checks ++ [(addT e.hub (ceilDiv (m.deadline * 120024) 100 + monMargin), false)]
          let startBy := if m.trigger = 0 ∧ m.period ≠ 0 then some (addT e.hub (m.longest + monMargin)) else none
          e.setMon { m with checks, startBy })))
    ∧ (∀ j q ep st t e m, d.takeToken false = some (.result (.job j) q ep st t, e) → notPresent st = false →
        (e.lapse (.job j) (e.hub - 1)).monEntryOf (.job j) = some m → (m.deadline = 0 ∨ m.checks.any (fun c => !c.2) = true) →
        exec (.resultToken now) s = .next (s.withDev
          ((e.lapse (.job j) (e.hub - 1)).present { m with checks := meetCheck true m.checks })))
    ∧ (∀ j m c rest, d.monEntryOf (.job j) = some m → m.checks = (c, false) :: rest → reached d.hub c = true → m.startBy = none →
        m.behind = true → exec (.checkPointExpiry now (.job j)) s = .next (s.timed now fun d =>
          d.setMon { m with checks := rest, misses := m.misses + 1, presents := 0 }))
    ∧ (∀ n rest, d.lect.inbox = n :: rest → n.status ≠ stThermal →
        let e := (d.lectern fun l => { l with inbox := rest }).lectLog n.status n.kind n.source
        (e.noteCause n = none → exec (.notification now) s = .next (s.withDev (
            e.postEvent n.status (e.severity n.status) n.kind n.source 0)))
        ∧ (∀ c, e.noteCause n = some c → exec (.notification now) s = .next (s.withDev (
            ((e.enterSafe c n.status n.source).noteBehind n c).postEvent n.status 3 n.kind n.source 0))))

/-! ### Self-test -/

/-- Self-test (R654, R664, R674 to R676, R678, R679): the buckets leak by one each interval; a unit that is due and free is given a slice; a passed
slice is counted and the last one ends the test; a failed slice fences its tile; an interval without a pass is told once; a Control
Engine half whose test row fails is noted. -/
def Obligations.SelfTestRowsComplete : Prop :=
  ∀ (s : State) (now : Time), s.isUp →
    let d := advance now s.dev
    (let due := addT d.leakAt (usHub (1000000 * d.lect.policy.leakS))
     reached d.hub due = true → exec (.bucketLeak now) s = .next (s.timed now fun d =>
        { d with leakAt := due, tiles := d.tiles.mapVals fun _ (x : TileState) =>
            { x with t := { x.t with bucket := x.t.bucket - 1 } } }))
    ∧ (∀ u, (d.test u).slice = none → (d.test u).failed = false →
        (0 < (d.test u).passed ∨ reached d.hub (addT (d.test u).lastSched (usHub (250000 * d.dtiS u))) = true) →
        d.testable u = true → d.sliceFits u = true → exec (.selftestSchedule now u) s = .next (s.timed now fun d =>
          d.setTest { d.test u with slice := some d.hub,
                                    lastSched := if (d.test u).passed = 0 then d.hub else (d.test u).lastSched }))
    ∧ (∀ e t, (d.test (.engine e)).slice = some t → (d.test (.engine e)).passed + 1 < slicesOf (.engine e) →
        exec (.sliceComplete now (.engine e) true) s = .next (s.timed now fun d =>
          ((d.setTest { d.test (.engine e) with slice := none, passed := (d.test (.engine e)).passed + 1 }).startPlanners).settleStarts))
    ∧ (∀ t b, (d.test (.tile t)).slice = some b →
        (slicesOf (.tile t) ≤ (d.test (.tile t)).passed + 1 → (d.test (.tile t)).overdue = false →
          exec (.sliceComplete now (.tile t) true) s = .next (s.timed now fun d =>
            ((((d.afterSlice t).setTest { d.test (.tile t) with slice := none, passed := 0, lastPass := d.hub, overdue := false })).startPlanners).settleStarts))
        ∧ exec (.sliceComplete now (.tile t) false) s = .next (s.timed now fun d =>
            ((((d.afterSlice t).setTest { d.test (.tile t) with slice := none, passed := 0 }).fenceTile t).startPlanners).settleStarts))
    ∧ (∀ e, (d.test (.engine e)).failed = false → (d.test (.engine e)).overdue = false →
        reached d.hub (addT (d.test (.engine e)).lastPass (usHub (1000000 * d.dtiS (.engine e)))) = true →
        exec (.testOverdue now (.engine e)) s = .next (s.timed now fun d =>
          (d.setTest { d.test (.engine e) with overdue := true }).notify stTestOverdue (unitSource (.engine e)).1
            (unitSource (.engine e)).2))
    ∧ (∀ h : Half, exec (.testRow now h true) s = .next { s with dev := d }
        ∧ (d.domOn (if h = .a then 0x36 else 0x37) = true → d.ce.failed.contains h = false →
            exec (.testRow now h false) s = .next (s.timed now fun d => d.halfFailed h)))

/-! ### Private reads -/

/-- A private read (R692, R693; a read comes with HOST_WINDOW_WRITE, log 65) returns bytes from the read address onwards, each of
which advances it by one. Eight bytes from an aligned address are the window's bytes at the moment when the first is sent; a byte
of a captured group comes from the capture, whatever has happened since; after the byte at 0xFFFF the read has ended. -/
def Obligations.PrivateReadsCaptureGroups : Prop :=
  (∀ (s : State) (now : Time) (n : Nat), s.isAwake →
     exec (.hostWindowWrite now ⟨[], (.fresh n)⟩) s = .next (s.timed now fun d => d.beginRead.readBytes n)
     ∧ exec (.hostWindowWrite now ⟨[], (.more n)⟩) s = .next (s.timed now fun d => d.readBytes n))
  ∧ (∀ (d : Device) (a : BitVec 16), d.bur.win.readAddr = a → d.readSpan a.toNat = (a.toNat, 8) →
       let e := d.beginRead.readBytes 8
       e.bur.win.sent = (List.range 8).map (fun i => d.windowByte (a.toNat + i)) ∧ e.bur.win.readAddr = a + 8
         ∧ e.bur.win.readOver = (a == 0xFFF8))
  ∧ (∀ (d : Device) (a : BitVec 16) (c : Nat × Bytes), d.bur.win.readAddr = a → d.bur.win.readOver = false →
       d.bur.win.capture = some c → c.1 ≤ a.toNat → a.toNat < c.1 + c.2.length →
       let e := d.readBytes 1
       e.bur.win.sent = d.bur.win.sent ++ [nth c.2 (a.toNat - c.1) 0] ∧ e.bur.win.capture = some c
         ∧ e.bur.win.readAddr = a + 1 ∧ e.bur.win.readOver = (a == 0xFFFF))
  ∧ (∀ (d : Device) (n : Nat), d.bur.win.readOver = true → d.readBytes n = d)
end

