-- ==== Sys2Proof/Laws/State.lean ====
section
/-!
SUPPORT. What the shared operations leave alone and what they answer: the time's advance, the shells of the
commands, Drawer replies. Later proofs cite these and do not unfold the operations.
-/

namespace Sys2Proof.Machine

/-! ### Time -/

/-- The advance of time changes the clocks only. -/
theorem advance_eq (now : Time) (d : Device) : advance now d = { d with clk := (advance now d).clk } := by
  unfold advance; split
  · rfl
  · split <;> rfl

@[simp] theorem advance_pow (now : Time) (d : Device) : (advance now d).pow = d.pow := by rw [advance_eq]
@[simp] theorem advance_mem (now : Time) (d : Device) : (advance now d).mem = d.mem := by rw [advance_eq]
@[simp] theorem advance_hooks (now : Time) (d : Device) : (advance now d).hooks = d.hooks := by rw [advance_eq]
@[simp] theorem advance_bur (now : Time) (d : Device) : (advance now d).bur = d.bur := by rw [advance_eq]
@[simp] theorem advance_lect (now : Time) (d : Device) : (advance now d).lect = d.lect := by rw [advance_eq]
@[simp] theorem advance_tests (now : Time) (d : Device) : (advance now d).tests = d.tests := by rw [advance_eq]
@[simp] theorem advance_readyAt (now : Time) (d : Device) : (advance now d).readyAt = d.readyAt := by rw [advance_eq]
@[simp] theorem advance_leakAt (now : Time) (d : Device) : (advance now d).leakAt = d.leakAt := by rw [advance_eq]
@[simp] theorem advance_jobs (now : Time) (d : Device) : (advance now d).jobs = d.jobs := by rw [advance_eq]
@[simp] theorem advance_tiles (now : Time) (d : Device) : (advance now d).tiles = d.tiles := by rw [advance_eq]
@[simp] theorem advance_saved (now : Time) (d : Device) : (advance now d).saved = d.saved := by rw [advance_eq]
@[simp] theorem advance_seq (now : Time) (d : Device) : (advance now d).seq = d.seq := by rw [advance_eq]
@[simp] theorem advance_ce (now : Time) (d : Device) : (advance now d).ce = d.ce := by rw [advance_eq]
@[simp] theorem advance_ports (now : Time) (d : Device) : (advance now d).ports = d.ports := by rw [advance_eq]
@[simp] theorem advance_ing (now : Time) (d : Device) : (advance now d).ing = d.ing := by rw [advance_eq]
@[simp] theorem advance_eng (now : Time) (d : Device) : (advance now d).eng = d.eng := by rw [advance_eq]
@[simp] theorem advance_drawer (now : Time) (d : Device) (n : Fin 64) : (advance now d).drawer n = d.drawer n := by
  simp [Device.drawer]
@[simp] theorem advance_tile (now : Time) (d : Device) (t : Nat) : (advance now d).tile t = d.tile t := by
  simp [Device.tile]
@[simp] theorem advance_hook (now : Time) (d : Device) (h : Nat) : (advance now d).hook h = d.hook h := by
  simp [Device.hook]

/-- A later hub time is taken over (R352). -/
theorem advance_hub {now : Time} {d : Device} (hp : d.pow.phase ≠ .off) (ht : 0 < timeDiff now d.clk.hub) :
    (advance now d).hub = now := by
  simp [advance, Device.hub, hp, not_le.mpr ht]

/-! ### The shells of the commands -/

theorem State.onUp_up {s : State} (h : s.isUp) (now : Time) (f : Device → Device) :
    s.onUp now f = .next { s with dev := f (advance now s.dev) } := by
  have h : s.dev.pow.phase = .up := h
  simp [State.onUp, State.act, h]

theorem State.onUp_down {s : State} (h : ¬ s.isUp) (now : Time) (f : Device → Device) :
    s.onUp now f = .next { s with dev := advance now s.dev } := by
  have h : ¬ s.dev.pow.phase = .up := h
  simp [State.onUp, State.act, h]

theorem State.onAlive_awake {s : State} (h : s.isAwake) (now : Time) (f : Device → Device) :
    s.onAlive now f = .next { s with dev := f (advance now s.dev) } := by
  have h : s.dev.pow.phase = .up ∨ s.dev.pow.phase = .standby ∨ s.dev.pow.phase = .shut := h
  simp [State.onAlive, State.act, h]

theorem State.onAlive_asleep {s : State} (h : ¬ s.isAwake) (now : Time) (f : Device → Device) :
    s.onAlive now f = .next { s with dev := advance now s.dev } := by
  have h : ¬ (s.dev.pow.phase = .up ∨ s.dev.pow.phase = .standby ∨ s.dev.pow.phase = .shut) := h
  simp [State.onAlive, State.act, h]

@[simp] theorem advance_cmdOpcode (now : Time) (d : Device) (n : Fin 64) : (advance now d).cmdOpcode n = d.cmdOpcode n := by
  simp [Device.cmdOpcode]

/-- Taking a command changes nothing that the opcode, the state or the parameters are read from. -/
theorem Device.command_taken (d : Device) (n : Fin 64) (op : Nat) (eff : Device → Device)
    (h : d.bur.queue.head? = some n ∧ (d.drawer n).state = .busy ∧ d.cmdOpcode n = op) :
    d.command n op eff = match (d.taken n).checkCommand n with
      | some st => (d.taken n).fail n st
      | none => if (d.taken n).heldBefore n (d.taken n).bur.holds then (d.taken n).hold n else eff (d.taken n) := by
  unfold Device.command; rw [if_pos h]; rfl

/-- An accepted command has its effect on the device from which its Drawer's command has been taken. -/
theorem State.command_accepted {s : State} {now : Time} {n : Fin 64} {op : Nat} (h : s.accepts now n op)
    (eff : Device → Device) :
    (advance now s.dev).command n op eff = eff ((advance now s.dev).taken n) := by
  obtain ⟨⟨-, hq, hb, ho⟩, hc, hh⟩ := h
  rw [Device.command_taken _ _ _ _ (by simp [hq, hb, ho]), hc]
  have : ((advance now s.dev).taken n).bur.holds = s.dev.bur.holds := by simp [Device.taken, Device.setDrawer]
  simp [this, hh]

/-- An accepted Drawer command answers the next state that its effect gives. -/
theorem State.drawerCommand_accepted {s : State} {now : Time} {n : Fin 64} {op : Nat} (h : s.accepts now n op)
    (eff : Device → Device) :
    s.drawerCommand now n op eff = .next { s with dev := eff ((advance now s.dev).taken n) } := by
  unfold State.drawerCommand
  rw [State.onAlive_awake h.1.1, State.command_accepted h]

/-- A command that fails a check of R704 only replies with the status of the first failure. -/
theorem State.drawerCommand_failed {s : State} {now : Time} {n : Fin 64} {op : Nat} {st : Status} (h : s.isNext n op)
    (hc : ((advance now s.dev).taken n).checkCommand n = some st) (eff : Device → Device) :
    s.drawerCommand now n op eff = .next { s with dev := ((advance now s.dev).taken n).fail n st } := by
  unfold State.drawerCommand
  obtain ⟨ha, hq, hb, ho⟩ := h
  rw [State.onAlive_awake ha, Device.command_taken _ _ _ _ (by simp [hq, hb, ho]), hc]

end Sys2Proof.Machine
end

