-- ==== Sys2Proof/Laws/Frames.lean ====
section
/-!
SUPPORT. One frame lemma per operation that writes one part of the device: every other part stays as it is. Then what a
write to a bank or a table reads as afterwards.
-/

namespace Sys2Proof.Machine

@[simp] theorem Device.win_rest (d : Device) (f : Window → Window) :
    (d.win f).clk = d.clk ∧ (d.win f).pow = d.pow ∧ (d.win f).mem = d.mem ∧ (d.win f).hooks = d.hooks ∧
      (d.win f).lect = d.lect ∧ (d.win f).tests = d.tests ∧ (d.win f).readyAt = d.readyAt ∧
      (d.win f).leakAt = d.leakAt ∧ (d.win f).jobs = d.jobs ∧ (d.win f).tiles = d.tiles ∧
      (d.win f).saved = d.saved ∧ (d.win f).seq = d.seq ∧ (d.win f).ce = d.ce ∧ (d.win f).ports = d.ports ∧
      (d.win f).ing = d.ing ∧ (d.win f).eng = d.eng :=
  ⟨rfl, rfl, rfl, rfl, rfl, rfl, rfl, rfl, rfl, rfl, rfl, rfl, rfl, rfl, rfl, rfl⟩
@[simp] theorem Device.i3c_rest (d : Device) (f : I3c → I3c) :
    (d.i3c f).clk = d.clk ∧ (d.i3c f).pow = d.pow ∧ (d.i3c f).mem = d.mem ∧ (d.i3c f).hooks = d.hooks ∧
      (d.i3c f).lect = d.lect ∧ (d.i3c f).tests = d.tests ∧ (d.i3c f).readyAt = d.readyAt ∧
      (d.i3c f).leakAt = d.leakAt ∧ (d.i3c f).jobs = d.jobs ∧ (d.i3c f).tiles = d.tiles ∧
      (d.i3c f).saved = d.saved ∧ (d.i3c f).seq = d.seq ∧ (d.i3c f).ce = d.ce ∧ (d.i3c f).ports = d.ports ∧
      (d.i3c f).ing = d.ing ∧ (d.i3c f).eng = d.eng :=
  ⟨rfl, rfl, rfl, rfl, rfl, rfl, rfl, rfl, rfl, rfl, rfl, rfl, rfl, rfl, rfl, rfl⟩
@[simp] theorem Device.setDrawer_rest (d : Device) (n : Fin 64) (x : Drawer) :
    (d.setDrawer n x).clk = d.clk ∧ (d.setDrawer n x).pow = d.pow ∧ (d.setDrawer n x).mem = d.mem ∧
      (d.setDrawer n x).hooks = d.hooks ∧ (d.setDrawer n x).lect = d.lect ∧ (d.setDrawer n x).tests = d.tests ∧
      (d.setDrawer n x).readyAt = d.readyAt ∧ (d.setDrawer n x).leakAt = d.leakAt ∧
      (d.setDrawer n x).jobs = d.jobs ∧ (d.setDrawer n x).tiles = d.tiles ∧ (d.setDrawer n x).saved = d.saved ∧
      (d.setDrawer n x).seq = d.seq ∧ (d.setDrawer n x).ce = d.ce ∧ (d.setDrawer n x).ports = d.ports ∧
      (d.setDrawer n x).ing = d.ing ∧ (d.setDrawer n x).eng = d.eng :=
  ⟨rfl, rfl, rfl, rfl, rfl, rfl, rfl, rfl, rfl, rfl, rfl, rfl, rfl, rfl, rfl, rfl⟩
@[simp] theorem Device.lectern_rest (d : Device) (f : Lectern → Lectern) :
    (d.lectern f).clk = d.clk ∧ (d.lectern f).pow = d.pow ∧ (d.lectern f).mem = d.mem ∧
      (d.lectern f).hooks = d.hooks ∧ (d.lectern f).bur = d.bur ∧ (d.lectern f).tests = d.tests ∧
      (d.lectern f).readyAt = d.readyAt ∧ (d.lectern f).leakAt = d.leakAt ∧ (d.lectern f).jobs = d.jobs ∧
      (d.lectern f).tiles = d.tiles ∧ (d.lectern f).saved = d.saved ∧ (d.lectern f).seq = d.seq ∧
      (d.lectern f).ce = d.ce ∧ (d.lectern f).ports = d.ports ∧ (d.lectern f).ing = d.ing ∧
      (d.lectern f).eng = d.eng :=
  ⟨rfl, rfl, rfl, rfl, rfl, rfl, rfl, rfl, rfl, rfl, rfl, rfl, rfl, rfl, rfl, rfl⟩
@[simp] theorem Device.gov_rest (d : Device) (f : Governor → Governor) :
    (d.gov f).clk = d.clk ∧ (d.gov f).mem = d.mem ∧ (d.gov f).hooks = d.hooks ∧ (d.gov f).bur = d.bur ∧
      (d.gov f).lect = d.lect ∧ (d.gov f).tests = d.tests ∧ (d.gov f).readyAt = d.readyAt ∧
      (d.gov f).leakAt = d.leakAt ∧ (d.gov f).jobs = d.jobs ∧ (d.gov f).tiles = d.tiles ∧
      (d.gov f).saved = d.saved ∧ (d.gov f).seq = d.seq ∧ (d.gov f).ce = d.ce ∧ (d.gov f).ports = d.ports ∧
      (d.gov f).ing = d.ing ∧ (d.gov f).eng = d.eng :=
  ⟨rfl, rfl, rfl, rfl, rfl, rfl, rfl, rfl, rfl, rfl, rfl, rfl, rfl, rfl, rfl, rfl⟩
@[simp] theorem Device.setDom_rest (d : Device) (k : Nat) (x : DomState) :
    (d.setDom k x).clk = d.clk ∧ (d.setDom k x).mem = d.mem ∧ (d.setDom k x).hooks = d.hooks ∧
      (d.setDom k x).bur = d.bur ∧ (d.setDom k x).lect = d.lect ∧ (d.setDom k x).tests = d.tests ∧
      (d.setDom k x).readyAt = d.readyAt ∧ (d.setDom k x).leakAt = d.leakAt ∧ (d.setDom k x).jobs = d.jobs ∧
      (d.setDom k x).tiles = d.tiles ∧ (d.setDom k x).saved = d.saved ∧ (d.setDom k x).seq = d.seq ∧
      (d.setDom k x).ce = d.ce ∧ (d.setDom k x).ports = d.ports ∧ (d.setDom k x).ing = d.ing ∧
      (d.setDom k x).eng = d.eng :=
  ⟨rfl, rfl, rfl, rfl, rfl, rfl, rfl, rfl, rfl, rfl, rfl, rfl, rfl, rfl, rfl, rfl⟩
@[simp] theorem Device.fus_rest (d : Device) (f : FusionState → FusionState) :
    (d.fus f).clk = d.clk ∧ (d.fus f).pow = d.pow ∧ (d.fus f).mem = d.mem ∧ (d.fus f).hooks = d.hooks ∧
      (d.fus f).bur = d.bur ∧ (d.fus f).lect = d.lect ∧ (d.fus f).tests = d.tests ∧
      (d.fus f).readyAt = d.readyAt ∧ (d.fus f).leakAt = d.leakAt ∧ (d.fus f).jobs = d.jobs ∧
      (d.fus f).tiles = d.tiles ∧ (d.fus f).saved = d.saved ∧ (d.fus f).seq = d.seq ∧ (d.fus f).ce = d.ce ∧
      (d.fus f).ports = d.ports ∧ (d.fus f).ing = d.ing :=
  ⟨rfl, rfl, rfl, rfl, rfl, rfl, rfl, rfl, rfl, rfl, rfl, rfl, rfl, rfl, rfl, rfl⟩
@[simp] theorem Device.shelf_rest (d : Device) (f : ShelfState → ShelfState) :
    (d.shelf f).clk = d.clk ∧ (d.shelf f).pow = d.pow ∧ (d.shelf f).mem = d.mem ∧ (d.shelf f).hooks = d.hooks ∧
      (d.shelf f).bur = d.bur ∧ (d.shelf f).lect = d.lect ∧ (d.shelf f).tests = d.tests ∧
      (d.shelf f).readyAt = d.readyAt ∧ (d.shelf f).leakAt = d.leakAt ∧ (d.shelf f).jobs = d.jobs ∧
      (d.shelf f).tiles = d.tiles ∧ (d.shelf f).saved = d.saved ∧ (d.shelf f).seq = d.seq ∧
      (d.shelf f).ce = d.ce ∧ (d.shelf f).ports = d.ports ∧ (d.shelf f).ing = d.ing :=
  ⟨rfl, rfl, rfl, rfl, rfl, rfl, rfl, rfl, rfl, rfl, rfl, rfl, rfl, rfl, rfl, rfl⟩
@[simp] theorem Device.setSolv_rest (d : Device) (j : BitVec 16) (x : SolverJob) :
    (d.setSolv j x).clk = d.clk ∧ (d.setSolv j x).pow = d.pow ∧ (d.setSolv j x).mem = d.mem ∧
      (d.setSolv j x).hooks = d.hooks ∧ (d.setSolv j x).bur = d.bur ∧ (d.setSolv j x).lect = d.lect ∧
      (d.setSolv j x).tests = d.tests ∧ (d.setSolv j x).readyAt = d.readyAt ∧ (d.setSolv j x).leakAt = d.leakAt ∧
      (d.setSolv j x).jobs = d.jobs ∧ (d.setSolv j x).tiles = d.tiles ∧ (d.setSolv j x).saved = d.saved ∧
      (d.setSolv j x).seq = d.seq ∧ (d.setSolv j x).ce = d.ce ∧ (d.setSolv j x).ports = d.ports ∧
      (d.setSolv j x).ing = d.ing :=
  ⟨rfl, rfl, rfl, rfl, rfl, rfl, rfl, rfl, rfl, rfl, rfl, rfl, rfl, rfl, rfl, rfl⟩
@[simp] theorem Device.setPlanJob_rest (d : Device) (j : BitVec 16) (x : PlannerJob) :
    (d.setPlanJob j x).clk = d.clk ∧ (d.setPlanJob j x).pow = d.pow ∧ (d.setPlanJob j x).mem = d.mem ∧
      (d.setPlanJob j x).hooks = d.hooks ∧ (d.setPlanJob j x).bur = d.bur ∧ (d.setPlanJob j x).lect = d.lect ∧
      (d.setPlanJob j x).tests = d.tests ∧ (d.setPlanJob j x).readyAt = d.readyAt ∧
      (d.setPlanJob j x).leakAt = d.leakAt ∧ (d.setPlanJob j x).jobs = d.jobs ∧
      (d.setPlanJob j x).tiles = d.tiles ∧ (d.setPlanJob j x).saved = d.saved ∧ (d.setPlanJob j x).seq = d.seq ∧
      (d.setPlanJob j x).ce = d.ce ∧ (d.setPlanJob j x).ports = d.ports ∧ (d.setPlanJob j x).ing = d.ing :=
  ⟨rfl, rfl, rfl, rfl, rfl, rfl, rfl, rfl, rfl, rfl, rfl, rfl, rfl, rfl, rfl, rfl⟩
@[simp] theorem Device.setFin_rest (d : Device) (j : BitVec 16) (x : FinisherJob) :
    (d.setFin j x).clk = d.clk ∧ (d.setFin j x).pow = d.pow ∧ (d.setFin j x).mem = d.mem ∧
      (d.setFin j x).hooks = d.hooks ∧ (d.setFin j x).bur = d.bur ∧ (d.setFin j x).lect = d.lect ∧
      (d.setFin j x).tests = d.tests ∧ (d.setFin j x).readyAt = d.readyAt ∧ (d.setFin j x).leakAt = d.leakAt ∧
      (d.setFin j x).jobs = d.jobs ∧ (d.setFin j x).tiles = d.tiles ∧ (d.setFin j x).saved = d.saved ∧
      (d.setFin j x).seq = d.seq ∧ (d.setFin j x).ce = d.ce ∧ (d.setFin j x).ports = d.ports ∧
      (d.setFin j x).ing = d.ing :=
  ⟨rfl, rfl, rfl, rfl, rfl, rfl, rfl, rfl, rfl, rfl, rfl, rfl, rfl, rfl, rfl, rfl⟩
@[simp] theorem Device.setPart_rest (d : Device) (p : Nat) (x : Partition) :
    (d.setPart p x).clk = d.clk ∧ (d.setPart p x).pow = d.pow ∧ (d.setPart p x).mem = d.mem ∧
      (d.setPart p x).hooks = d.hooks ∧ (d.setPart p x).bur = d.bur ∧ (d.setPart p x).lect = d.lect ∧
      (d.setPart p x).tests = d.tests ∧ (d.setPart p x).readyAt = d.readyAt ∧ (d.setPart p x).leakAt = d.leakAt ∧
      (d.setPart p x).tiles = d.tiles ∧ (d.setPart p x).saved = d.saved ∧ (d.setPart p x).seq = d.seq ∧
      (d.setPart p x).ce = d.ce ∧ (d.setPart p x).ports = d.ports ∧ (d.setPart p x).ing = d.ing ∧
      (d.setPart p x).eng = d.eng :=
  ⟨rfl, rfl, rfl, rfl, rfl, rfl, rfl, rfl, rfl, rfl, rfl, rfl, rfl, rfl, rfl, rfl⟩
@[simp] theorem Device.setRun_rest (d : Device) (j : BitVec 16) (x : JobRun) :
    (d.setRun j x).clk = d.clk ∧ (d.setRun j x).pow = d.pow ∧ (d.setRun j x).mem = d.mem ∧
      (d.setRun j x).hooks = d.hooks ∧ (d.setRun j x).bur = d.bur ∧ (d.setRun j x).lect = d.lect ∧
      (d.setRun j x).tests = d.tests ∧ (d.setRun j x).readyAt = d.readyAt ∧ (d.setRun j x).leakAt = d.leakAt ∧
      (d.setRun j x).tiles = d.tiles ∧ (d.setRun j x).saved = d.saved ∧ (d.setRun j x).seq = d.seq ∧
      (d.setRun j x).ce = d.ce ∧ (d.setRun j x).ports = d.ports ∧ (d.setRun j x).ing = d.ing ∧
      (d.setRun j x).eng = d.eng :=
  ⟨rfl, rfl, rfl, rfl, rfl, rfl, rfl, rfl, rfl, rfl, rfl, rfl, rfl, rfl, rfl, rfl⟩
@[simp] theorem Device.setTest_rest (d : Device) (t : UnitTest) :
    (d.setTest t).clk = d.clk ∧ (d.setTest t).pow = d.pow ∧ (d.setTest t).mem = d.mem ∧
      (d.setTest t).hooks = d.hooks ∧ (d.setTest t).bur = d.bur ∧ (d.setTest t).lect = d.lect ∧
      (d.setTest t).readyAt = d.readyAt ∧ (d.setTest t).leakAt = d.leakAt ∧ (d.setTest t).jobs = d.jobs ∧
      (d.setTest t).tiles = d.tiles ∧ (d.setTest t).saved = d.saved ∧ (d.setTest t).seq = d.seq ∧
      (d.setTest t).ce = d.ce ∧ (d.setTest t).ports = d.ports ∧ (d.setTest t).ing = d.ing ∧
      (d.setTest t).eng = d.eng :=
  ⟨rfl, rfl, rfl, rfl, rfl, rfl, rfl, rfl, rfl, rfl, rfl, rfl, rfl, rfl, rfl, rfl⟩
@[simp] theorem Device.seqState_rest (d : Device) (f : SeqState → SeqState) :
    (d.seqState f).clk = d.clk ∧ (d.seqState f).pow = d.pow ∧ (d.seqState f).mem = d.mem ∧
      (d.seqState f).hooks = d.hooks ∧ (d.seqState f).bur = d.bur ∧ (d.seqState f).lect = d.lect ∧
      (d.seqState f).tests = d.tests ∧ (d.seqState f).readyAt = d.readyAt ∧ (d.seqState f).leakAt = d.leakAt ∧
      (d.seqState f).jobs = d.jobs ∧ (d.seqState f).tiles = d.tiles ∧ (d.seqState f).saved = d.saved ∧
      (d.seqState f).ce = d.ce ∧ (d.seqState f).ports = d.ports ∧ (d.seqState f).ing = d.ing ∧
      (d.seqState f).eng = d.eng :=
  ⟨rfl, rfl, rfl, rfl, rfl, rfl, rfl, rfl, rfl, rfl, rfl, rfl, rfl, rfl, rfl, rfl⟩
@[simp] theorem Device.setSlot_rest (d : Device) (k : Nat) (x : CeSlot) :
    (d.setSlot k x).clk = d.clk ∧ (d.setSlot k x).pow = d.pow ∧ (d.setSlot k x).mem = d.mem ∧
      (d.setSlot k x).hooks = d.hooks ∧ (d.setSlot k x).bur = d.bur ∧ (d.setSlot k x).lect = d.lect ∧
      (d.setSlot k x).tests = d.tests ∧ (d.setSlot k x).readyAt = d.readyAt ∧ (d.setSlot k x).leakAt = d.leakAt ∧
      (d.setSlot k x).jobs = d.jobs ∧ (d.setSlot k x).tiles = d.tiles ∧ (d.setSlot k x).saved = d.saved ∧
      (d.setSlot k x).seq = d.seq ∧ (d.setSlot k x).ports = d.ports ∧ (d.setSlot k x).ing = d.ing ∧
      (d.setSlot k x).eng = d.eng :=
  ⟨rfl, rfl, rfl, rfl, rfl, rfl, rfl, rfl, rfl, rfl, rfl, rfl, rfl, rfl, rfl, rfl⟩
@[simp] theorem Device.setStream_rest (d : Device) (t : BitVec 12) (x : Stream) :
    (d.setStream t x).clk = d.clk ∧ (d.setStream t x).pow = d.pow ∧ (d.setStream t x).mem = d.mem ∧
      (d.setStream t x).hooks = d.hooks ∧ (d.setStream t x).bur = d.bur ∧ (d.setStream t x).lect = d.lect ∧
      (d.setStream t x).tests = d.tests ∧ (d.setStream t x).readyAt = d.readyAt ∧
      (d.setStream t x).leakAt = d.leakAt ∧ (d.setStream t x).jobs = d.jobs ∧ (d.setStream t x).tiles = d.tiles ∧
      (d.setStream t x).saved = d.saved ∧ (d.setStream t x).seq = d.seq ∧ (d.setStream t x).ce = d.ce ∧
      (d.setStream t x).ports = d.ports ∧ (d.setStream t x).eng = d.eng :=
  ⟨rfl, rfl, rfl, rfl, rfl, rfl, rfl, rfl, rfl, rfl, rfl, rfl, rfl, rfl, rfl, rfl⟩
@[simp] theorem Device.setIn_rest (d : Device) (p : Nat) (c : PortCounts) :
    (d.setIn p c).clk = d.clk ∧ (d.setIn p c).pow = d.pow ∧ (d.setIn p c).mem = d.mem ∧
      (d.setIn p c).hooks = d.hooks ∧ (d.setIn p c).bur = d.bur ∧ (d.setIn p c).lect = d.lect ∧
      (d.setIn p c).tests = d.tests ∧ (d.setIn p c).readyAt = d.readyAt ∧ (d.setIn p c).leakAt = d.leakAt ∧
      (d.setIn p c).jobs = d.jobs ∧ (d.setIn p c).tiles = d.tiles ∧ (d.setIn p c).saved = d.saved ∧
      (d.setIn p c).seq = d.seq ∧ (d.setIn p c).ce = d.ce ∧ (d.setIn p c).ing = d.ing ∧ (d.setIn p c).eng = d.eng :=
  ⟨rfl, rfl, rfl, rfl, rfl, rfl, rfl, rfl, rfl, rfl, rfl, rfl, rfl, rfl, rfl, rfl⟩
@[simp] theorem Device.setOut_rest (d : Device) (p : Nat) (o : OutPort) :
    (d.setOut p o).clk = d.clk ∧ (d.setOut p o).pow = d.pow ∧ (d.setOut p o).mem = d.mem ∧
      (d.setOut p o).hooks = d.hooks ∧ (d.setOut p o).bur = d.bur ∧ (d.setOut p o).lect = d.lect ∧
      (d.setOut p o).tests = d.tests ∧ (d.setOut p o).readyAt = d.readyAt ∧ (d.setOut p o).leakAt = d.leakAt ∧
      (d.setOut p o).jobs = d.jobs ∧ (d.setOut p o).tiles = d.tiles ∧ (d.setOut p o).saved = d.saved ∧
      (d.setOut p o).seq = d.seq ∧ (d.setOut p o).ce = d.ce ∧ (d.setOut p o).ing = d.ing ∧
      (d.setOut p o).eng = d.eng :=
  ⟨rfl, rfl, rfl, rfl, rfl, rfl, rfl, rfl, rfl, rfl, rfl, rfl, rfl, rfl, rfl, rfl⟩
@[simp] theorem Device.setTile_rest (d : Device) (t : Nat) (x : TileState) :
    (d.setTile t x).clk = d.clk ∧ (d.setTile t x).pow = d.pow ∧ (d.setTile t x).mem = d.mem ∧
      (d.setTile t x).hooks = d.hooks ∧ (d.setTile t x).bur = d.bur ∧ (d.setTile t x).lect = d.lect ∧
      (d.setTile t x).tests = d.tests ∧ (d.setTile t x).readyAt = d.readyAt ∧ (d.setTile t x).leakAt = d.leakAt ∧
      (d.setTile t x).jobs = d.jobs ∧ (d.setTile t x).saved = d.saved ∧ (d.setTile t x).seq = d.seq ∧
      (d.setTile t x).ce = d.ce ∧ (d.setTile t x).ports = d.ports ∧ (d.setTile t x).ing = d.ing ∧
      (d.setTile t x).eng = d.eng :=
  ⟨rfl, rfl, rfl, rfl, rfl, rfl, rfl, rfl, rfl, rfl, rfl, rfl, rfl, rfl, rfl, rfl⟩
@[simp] theorem Device.setHook_rest (d : Device) (h : Nat) (x : Hook) :
    (d.setHook h x).clk = d.clk ∧ (d.setHook h x).pow = d.pow ∧ (d.setHook h x).mem = d.mem ∧
      (d.setHook h x).bur = d.bur ∧ (d.setHook h x).lect = d.lect ∧ (d.setHook h x).tests = d.tests ∧
      (d.setHook h x).readyAt = d.readyAt ∧ (d.setHook h x).leakAt = d.leakAt ∧ (d.setHook h x).jobs = d.jobs ∧
      (d.setHook h x).tiles = d.tiles ∧ (d.setHook h x).saved = d.saved ∧ (d.setHook h x).seq = d.seq ∧
      (d.setHook h x).ce = d.ce ∧ (d.setHook h x).ports = d.ports ∧ (d.setHook h x).ing = d.ing ∧
      (d.setHook h x).eng = d.eng :=
  ⟨rfl, rfl, rfl, rfl, rfl, rfl, rfl, rfl, rfl, rfl, rfl, rfl, rfl, rfl, rfl, rfl⟩
@[simp] theorem Device.setMemSet_rest (d : Device) (k : Nat) (m : MemSet) :
    (d.setMemSet k m).clk = d.clk ∧ (d.setMemSet k m).pow = d.pow ∧ (d.setMemSet k m).hooks = d.hooks ∧
      (d.setMemSet k m).bur = d.bur ∧ (d.setMemSet k m).lect = d.lect ∧ (d.setMemSet k m).tests = d.tests ∧
      (d.setMemSet k m).readyAt = d.readyAt ∧ (d.setMemSet k m).leakAt = d.leakAt ∧
      (d.setMemSet k m).jobs = d.jobs ∧ (d.setMemSet k m).tiles = d.tiles ∧ (d.setMemSet k m).saved = d.saved ∧
      (d.setMemSet k m).seq = d.seq ∧ (d.setMemSet k m).ce = d.ce ∧ (d.setMemSet k m).ports = d.ports ∧
      (d.setMemSet k m).ing = d.ing ∧ (d.setMemSet k m).eng = d.eng :=
  ⟨rfl, rfl, rfl, rfl, rfl, rfl, rfl, rfl, rfl, rfl, rfl, rfl, rfl, rfl, rfl, rfl⟩
@[simp] theorem Device.setCounter_rest (d : Device) (k : Nat) (t : Time) :
    (d.setCounter k t).pow = d.pow ∧ (d.setCounter k t).mem = d.mem ∧ (d.setCounter k t).hooks = d.hooks ∧
      (d.setCounter k t).bur = d.bur ∧ (d.setCounter k t).lect = d.lect ∧ (d.setCounter k t).tests = d.tests ∧
      (d.setCounter k t).readyAt = d.readyAt ∧ (d.setCounter k t).leakAt = d.leakAt ∧
      (d.setCounter k t).jobs = d.jobs ∧ (d.setCounter k t).tiles = d.tiles ∧
      (d.setCounter k t).saved = d.saved ∧ (d.setCounter k t).seq = d.seq ∧ (d.setCounter k t).ce = d.ce ∧
      (d.setCounter k t).ports = d.ports ∧ (d.setCounter k t).ing = d.ing ∧ (d.setCounter k t).eng = d.eng :=
  ⟨rfl, rfl, rfl, rfl, rfl, rfl, rfl, rfl, rfl, rfl, rfl, rfl, rfl, rfl, rfl, rfl⟩

/-! ### Banks and tables -/

@[simp] theorem setAt_length {α : Type} (l : List α) (i : Nat) (v : α) : (setAt l i v).length = l.length := by
  simp [setAt]

theorem nth_setAt {α : Type} (l : List α) (i j : Nat) (v x : α) :
    nth (setAt l i v) j x = if i = j ∧ j < l.length then v else nth l j x := by
  simp only [nth, setAt, List.getElem?_set]
  by_cases h : i = j
  · subst h; by_cases hl : i < l.length <;> simp [hl]
  · simp [h]

/-- A Drawer reads as it was written. -/
theorem Device.drawer_setDrawer {d : Device} (h : d.bur.drawers.length = 64) (n m : Fin 64) (x : Drawer) :
    (d.setDrawer n x).drawer m = if n = m then x else d.drawer m := by
  have := m.isLt
  simp only [Device.drawer, Device.setDrawer, nth_setAt, h, this, and_true, Fin.ext_iff]

theorem Tbl.find_put_self {α : Type} (t : Tbl α) (i : Nat) (v : α) : (t.put i v).find i = some v := by
  induction t with
  | nil => simp [Tbl.put, Tbl.find]
  | cons e r ih =>
    simp only [Tbl.put]
    split
    · simp [Tbl.find]
    · split
      · simp [Tbl.find]
      · simp [Tbl.find, *]

theorem Tbl.find_put_ne {α : Type} (t : Tbl α) {i j : Nat} (h : j ≠ i) (v : α) : (t.put i v).find j = t.find j := by
  induction t with
  | nil => simp [Tbl.put, Tbl.find, h]
  | cons e r ih =>
    simp only [Tbl.put]
    split
    · simp [Tbl.find, h]
    · split
      · rename_i hk; subst hk; simp [Tbl.find, h]
      · simp [Tbl.find, ih]

/-- A tile reads as it was written. -/
theorem Device.tile_setTile (d : Device) (t u : Nat) (x : TileState) :
    (d.setTile t x).tile u = if t = u then x else d.tile u := by
  by_cases h : t = u
  · subst h; simp [Device.tile, Device.setTile, Tbl.getD, Tbl.find_put_self]
  · simp [Device.tile, Device.setTile, Tbl.getD, Tbl.find_put_ne _ (Ne.symm h), h]

/-- A Hook reads as it was written. -/
theorem Device.hook_setHook (d : Device) (h k : Nat) (x : Hook) :
    (d.setHook h x).hook k = if h = k then x else d.hook k := by
  by_cases e : h = k
  · subst e; simp [Device.hook, Device.setHook, Tbl.getD, Tbl.find_put_self]
  · simp [Device.hook, Device.setHook, Tbl.getD, Tbl.find_put_ne _ (Ne.symm e), e]

end Sys2Proof.Machine
end

