-- ==== Sys2Proof/Laws/Keeps.lean ====
section
/-!
SUPPORT. What every operation of the model keeps: `Keeps d e` says that going from `d` to `e` loses none of the
invariants of `Safety`, leaves a held safe state held, and undoes no fuse. The other files `Laws/Keeps*` prove it once
for each operation.
-/

namespace Sys2Proof.Machine

/-- No fuse of the non-volatile store is undone (R755, R761, R765). -/
def NonVolatile.Kept (v w : NonVolatile) : Prop :=
  w.keyHash = v.keyHash ∧ (∀ k, nth v.revoked k 0 ≠ 0 → nth w.revoked k 0 ≠ 0)
    ∧ ∀ i, v.svnFuse.getLsbD i = true → w.svnFuse.getLsbD i = true

theorem NonVolatile.Kept.refl (v : NonVolatile) : v.Kept v := ⟨rfl, fun _ h => h, fun _ h => h⟩

theorem NonVolatile.Kept.trans {u v w : NonVolatile} (a : u.Kept v) (b : v.Kept w) : u.Kept w :=
  ⟨b.1.trans a.1, fun k h => b.2.1 k (a.2.1 k h), fun i h => b.2.2 i (a.2.2 i h)⟩

/-- What a change of the device keeps, the release of the safe state among the changes allowed. -/
structure WeakKeeps (d e : Device) : Prop where
  pins : d.pinsSafe → e.pinsSafe
  causes : d.causesHeld → e.causesHeld
  log : d.logBounded → e.logBounded
  events : d.eventsBounded → e.eventsBounded
  main : d.mem.main.wf = true → e.mem.main.wf = true
  shape : d.shaped → e.shaped
  fuses : d.bur.nv.Kept e.bur.nv

/-- As `WeakKeeps`, and a held safe state stays held. -/
structure Keeps (d e : Device) : Prop where
  weak : WeakKeeps d e
  safe : d.lect.safe = true → e.lect.safe = true

theorem WeakKeeps.refl (d : Device) : WeakKeeps d d := ⟨id, id, id, id, id, id, .refl _⟩

theorem WeakKeeps.trans {a b c : Device} (h : WeakKeeps a b) (g : WeakKeeps b c) : WeakKeeps a c :=
  ⟨g.pins ∘ h.pins, g.causes ∘ h.causes, g.log ∘ h.log, g.events ∘ h.events, g.main ∘ h.main, g.shape ∘ h.shape,
    h.fuses.trans g.fuses⟩

theorem Keeps.refl (d : Device) : Keeps d d := ⟨.refl d, id⟩

theorem Keeps.trans {a b c : Device} (h : Keeps a b) (g : Keeps b c) : Keeps a c := ⟨h.1.trans g.1, g.2 ∘ h.2⟩

/-- The lengths of the device's banks. -/
def Device.lens (d : Device) : List Nat :=
  [d.bur.drawers.length, d.pow.doms.length, d.ports.ins.length, d.ports.outs.length, d.jobs.parts.length,
    d.mem.sets.length, d.jobs.clients.length]

/-- A change that touches nothing of what is kept. -/
theorem Keeps.same {d e : Device} (l : e.lect = d.lect) (v : e.bur.win.events = d.bur.win.events)
    (m : e.mem.main = d.mem.main) (n : e.bur.nv = d.bur.nv) (k : e.lens = d.lens) : Keeps d e := by
  simp only [Device.lens, List.cons.injEq, and_true] at k
  obtain ⟨k1, k2, k3, k4, k5, k6, k7⟩ := k
  refine ⟨⟨?_, ?_, ?_, ?_, ?_, ?_, ?_⟩, ?_⟩ <;>
    simp only [Device.pinsSafe, Device.causesHeld, Device.logBounded, Device.eventsBounded, Device.shaped, l, v, m, n,
      k1, k2, k3, k4, k5, k6, k7, imp_self, NonVolatile.Kept.refl]

/-- A change of fields that what is kept does not look into. -/
theorem Keeps.put {a d : Device} {c p m h b t r l j ti sa s ce po i g} (k : Keeps a d)
    (h1 : b.win.events = d.bur.win.events) (h2 : m.main = d.mem.main) (h3 : b.nv = d.bur.nv)
    (h4 : b.drawers.length = d.bur.drawers.length) (h5 : p.doms.length = d.pow.doms.length)
    (h6 : po.ins.length = d.ports.ins.length) (h7 : po.outs.length = d.ports.outs.length)
    (h8 : j.parts.length = d.jobs.parts.length) (h9 : m.sets.length = d.mem.sets.length)
    (h10 : j.clients.length = d.jobs.clients.length) :
    Keeps a (Device.mk c p m h b d.lect t r l j ti sa s ce po i g) :=
  k.trans (Keeps.same rfl h1 h2 h3 (by simp [Device.lens, *]))

/-- A change of the Lectern that leaves the pins, the causes and the log. -/
theorem Keeps.putLect {a d : Device} {l : Lectern} (k : Keeps a d) (h1 : l.safe = d.lect.safe)
    (h2 : l.pinA = d.lect.pinA) (h3 : l.pinB = d.lect.pinB) (h4 : l.log = d.lect.log)
    (h5 : l.causes = d.lect.causes) : Keeps a { d with lect := l } := by
  refine k.trans ⟨⟨?_, ?_, ?_, id, id, id, .refl _⟩, ?_⟩ <;>
    simp only [Device.pinsSafe, Device.causesHeld, Device.logBounded, h1, h2, h3, h4, h5, imp_self]

theorem Keeps.putWin {a d : Device} {w : Window} (k : Keeps a d) (h : w.events.length ≤ max 256 d.bur.win.events.length) :
    Keeps a { d with bur := { d.bur with win := w } } := by
  refine k.trans ⟨⟨id, id, id, ?_, id, id, .refl _⟩, id⟩
  simp only [Device.eventsBounded]; omega

theorem Keeps.putMain {a d : Device} {m : Memory} (k : Keeps a d) (h : d.mem.main.wf = true → m.wf = true) :
    Keeps a { d with mem := { d.mem with main := m } } :=
  k.trans ⟨⟨id, id, id, id, h, id, .refl _⟩, id⟩

theorem Keeps.putNv {a d : Device} {v : NonVolatile} (k : Keeps a d) (h : d.bur.nv.Kept v) :
    Keeps a { d with bur := { d.bur with nv := v } } :=
  k.trans ⟨⟨id, id, id, id, id, id, h⟩, id⟩

/-- Fuses in a copy of the store whose other parts change. -/
theorem NonVolatile.Kept.of_eq {v w : NonVolatile} (a : w.keyHash = v.keyHash) (b : w.revoked = v.revoked)
    (c : w.svnFuse = v.svnFuse) : v.Kept w :=
  ⟨a, fun _ h => b ▸ h, fun _ h => c ▸ h⟩

theorem Keeps.foldl {α : Type} {a : Device} {f : Device → α → Device} (l : List α)
    (h : ∀ d x, Keeps a d → Keeps a (f d x)) : ∀ {d}, Keeps a d → Keeps a (l.foldl f d) := by
  induction l with
  | nil => exact id
  | cons x l ih => exact fun k => ih (h _ x k)

theorem Keeps.foldl_fst {α β : Type} {a : Device} {f : Device × β → α → Device × β} (l : List α)
    (h : ∀ p x, Keeps a p.1 → Keeps a (f p x).1) : ∀ {p}, Keeps a p.1 → Keeps a (l.foldl f p).1 := by
  induction l with
  | nil => exact id
  | cons x l ih => exact fun k => ih (h _ x k)

theorem Keeps.ite {p : Prop} [Decidable p] {a d e : Device} (h : Keeps a d) (g : Keeps a e) :
    Keeps a (if p then d else e) := by
  split <;> assumption

/-- A command ends with a next state: the queue as it was, and a device that keeps what `Keeps` says. -/
def StepKeeps (s : State) (o : Host.Outcome State Fault Refusal) : Prop :=
  ∃ d, o = .next { s with dev := d } ∧ Keeps s.dev d

/-- As `StepKeeps`, for the command that may release the safe state. -/
def StepWeak (s : State) (o : Host.Outcome State Fault Refusal) : Prop :=
  ∃ d, o = .next { s with dev := d } ∧ WeakKeeps s.dev d

theorem StepKeeps.weaken {s : State} {o : Host.Outcome State Fault Refusal} (h : StepKeeps s o) : StepWeak s o :=
  h.imp fun _ g => ⟨g.1, g.2.weak⟩

/-- A name for an intermediate device. -/
theorem Keeps.cut {a d e : Device} (k : Keeps a e) (h : Keeps a e → Keeps a d) : Keeps a d := h k

theorem Keeps.of_fst {α : Type} {a d : Device} {p : Device × α} {x : α} (h : p = (d, x)) (k : Keeps a p.1) :
    Keeps a d := by
  rw [h] at k; exact k

end Sys2Proof.Machine
end

