-- ==== Sys2Proof/Laws/Memory.lean ====
section
/-!
SUPPORT. The laws of main memory: reading after a write, and that every operation keeps the canonical form.
-/

namespace Sys2Proof.Machine

variable {dflt : Nat → Byte} {l : List Host.Cell} {a b : Nat} {v : Byte}

theorem Cells.ok_cons {x : Host.Cell} :
    Cells.ok dflt (x :: l) = true ↔ x.2 ≠ dflt x.1 ∧ (∀ c ∈ l, x.1 < c.1) ∧ Cells.ok dflt l = true := by
  obtain ⟨k, w⟩ := x
  simp [Cells.ok, and_assoc]

theorem Cells.mem_put {c : Host.Cell} : c ∈ Cells.put (dflt a) l a v → c = (a, v) ∨ c ∈ l := by
  induction l with
  | nil => unfold Cells.put; split <;> simp
  | cons x l ih =>
    obtain ⟨k, w⟩ := x
    unfold Cells.put
    split
    · split
      · exact .inr
      · exact List.mem_cons.1
    · split
      · split
        · exact fun h => .inr (.tail _ h)
        · exact fun h => (List.mem_cons.1 h).imp id (.tail _)
      · simp only [List.mem_cons]
        rintro (h | h)
        · exact .inr (.inl h)
        · exact (ih h).imp id .inr

/-- A write of one byte keeps the canonical form. -/
theorem Cells.put_ok (h : Cells.ok dflt l = true) : Cells.ok dflt (Cells.put (dflt a) l a v) = true := by
  induction l with
  | nil => unfold Cells.put; split <;> simp_all [Cells.ok]
  | cons x l ih =>
    obtain ⟨k, w⟩ := x
    obtain ⟨h1, h2, h3⟩ := Cells.ok_cons.1 h
    unfold Cells.put
    split
    · rename_i hk
      split
      · exact h
      · refine Cells.ok_cons.2 ⟨‹_›, ?_, h⟩
        rintro c (_ | ⟨_, hc⟩)
        · exact hk
        · exact hk.trans (h2 c hc)
    · split
      · rename_i hk
        subst hk
        split
        · exact h3
        · exact Cells.ok_cons.2 ⟨‹_›, h2, h3⟩
      · refine Cells.ok_cons.2 ⟨h1, ?_, ih h3⟩
        intro c hc
        rcases Cells.mem_put hc with rfl | hc
        · dsimp only at *; omega
        · exact h2 c hc

theorem Cells.filter_ok {e : Nat → Byte} {p : Host.Cell → Bool} (h : Cells.ok dflt l = true)
    (hp : ∀ c, p c = true → e c.1 = dflt c.1) : Cells.ok e (l.filter p) = true := by
  induction l with
  | nil => rfl
  | cons x l ih =>
    obtain ⟨h1, h2, h3⟩ := Cells.ok_cons.1 h
    rw [List.filter_cons]
    split
    · rename_i hx
      exact Cells.ok_cons.2 ⟨hp x hx ▸ h1, fun c hc => h2 c (List.mem_filter.1 hc).1, ih h3⟩
    · exact ih h3

theorem Cells.find_none (h : ∀ c ∈ l, b < c.1) : Cells.find l b = none := by
  cases l with
  | nil => rfl
  | cons x l =>
    have := h x (by simp)
    simp [Cells.find, this, Nat.ne_of_lt this]

/-- What a write of one byte changes in the listed bytes: a byte equal to the unlisted value leaves the list. -/
theorem Cells.find_put (h : Cells.ok dflt l = true) :
    (Cells.find (Cells.put (dflt a) l a v) b).getD (dflt b) = if b = a then v else (Cells.find l b).getD (dflt b) := by
  induction l with
  | nil =>
    unfold Cells.put
    by_cases hb : b = a <;> by_cases hv : v = dflt a <;> simp_all [Cells.find]
  | cons x l ih =>
    obtain ⟨k, w⟩ := x
    obtain ⟨h1, h2, h3⟩ := Cells.ok_cons.1 h
    dsimp only at h1 h2
    specialize ih h3
    unfold Cells.put
    by_cases hk : a < k
    · rw [if_pos hk]
      by_cases hb : b = a
      · subst hb
        have : Cells.find ((k, w) :: l) b = none := by
          refine Cells.find_none ?_
          rintro c (_ | ⟨_, hc⟩)
          · exact hk
          · exact hk.trans (h2 c hc)
        by_cases hv : v = dflt b
        · rw [if_pos hv, this]; simp [hv]
        · rw [if_neg hv]; simp [Cells.find]
      · rw [if_neg hb]
        by_cases hv : v = dflt a
        · rw [if_pos hv]
        · rw [if_neg hv]
          by_cases hba : b < a
          · have : Cells.find ((k, w) :: l) b = none := by
              refine Cells.find_none ?_
              rintro c (_ | ⟨_, hc⟩)
              · exact hba.trans hk
              · exact (hba.trans hk).trans (h2 c hc)
            rw [this]; simp [Cells.find, hb, hba]
          · simp [Cells.find, hb, hba]
    · rw [if_neg hk]
      by_cases hak : a = k
      · subst hak
        rw [if_pos rfl]
        by_cases hb : b = a
        · subst hb
          have := Cells.find_none h2
          by_cases hv : v = dflt b
          · rw [if_pos hv, this]; simp [hv]
          · rw [if_neg hv]; simp [Cells.find]
        · rw [if_neg hb]
          by_cases hv : v = dflt a
          · rw [if_pos hv]
            by_cases hba : b < a
            · rw [Cells.find_none fun c hc => hba.trans (h2 c hc)]; simp [Cells.find, hb, hba]
            · simp [Cells.find, hb, hba]
          · rw [if_neg hv]; simp [Cells.find, hb]
      · rw [if_neg hak]
        by_cases hbk : b = k
        · subst hbk
          have hba : b ≠ a := fun e => hak e.symm
          simp [Cells.find, hba]
        · by_cases hlt : b < k
          · have hba : b ≠ a := by omega
            simp [Cells.find, hbk, hlt, hba]
          · simp only [Cells.find, hbk, hlt, if_false]
            exact ih

variable {m : Memory}

/-- Reading one byte after writing one byte. -/
theorem Memory.byte_setByte (h : m.wf = true) : (m.setByte a v).byte b = if b = a then v else m.byte b :=
  Cells.find_put h

theorem Memory.setByte_wf (h : m.wf = true) : (m.setByte a v).wf = true := Cells.put_ok h

theorem Memory.write_wf (bs : Bytes) : ∀ {m : Memory} (_ : m.wf = true) (a : Nat), (m.write a bs).wf = true := by
  induction bs with
  | nil => exact fun h _ => h
  | cons b bs ih => exact fun h a => ih (Memory.setByte_wf h) (a + 1)

theorem Memory.heal_wf (n : Nat) (h : m.wf = true) : (m.heal a n).wf = true := h

theorem Memory.spoil_wf (bs : List Nat) (h : m.wf = true) : (m.spoil bs).wf = true := h

theorem Memory.forget_wf (n k : Nat) (h : m.wf = true) : (m.forget a n k).wf = true := by
  unfold Memory.forget
  split
  · exact h
  · refine Cells.filter_ok h fun c hc => ?_
    have : ¬(a ≤ c.1 ∧ c.1 < a + n) := by simp at hc; omega
    simp [undefByte, List.find?_cons, this]

end Sys2Proof.Machine
end

