-- ==== Sys2Proof/Laws/KeepsOps.lean ====
section
/-!
SUPPORT. What the operations of `Machine/Ops` keep: the invariants of `Safety`, a held safe state and the fuses.
-/

set_option linter.all false

namespace Sys2Proof.Machine

@[simp] theorem Window.setIbi_events (w : Window) (v : BitVec 8) : (w.setIbi v).events = w.events := by
  unfold Window.setIbi; split <;> rfl

theorem advance_keeps {dev₀ d : Device} (kept : Keeps dev₀ d) (now : Time) : Keeps dev₀ (advance now d) := by
  unfold advance
  iterate 30 try any_goals first
    | with_reducible first | assumption | rfl
    | (extract_lets +onlyGivenNames e
       first | refine Keeps.cut (e := e) ?_ (fun _ => ?_) <;> [subst e; clear_value e]
             | (have : Option _ := e; clear this; clear_value e) | skip)
    | with_reducible (
        first | apply Device.counters_keeps | apply Keeps.ite)
    | split
    | with_reducible (
        first | apply Keeps.foldl | apply Keeps.foldl_fst | apply Keeps.of_fst ‹_› | apply Keeps.put | apply Keeps.putLect)
    | intro _ _ _ | intro _ _
    | simp +zetaDelta only [setAt, List.length_set, List.length_map, List.length_zipIdx, Window.setIbi_events]; done

theorem Device.bump_keeps {dev₀ d : Device} (kept : Keeps dev₀ d) : Keeps dev₀ (Device.bump d) :=
  kept.put rfl rfl rfl rfl rfl rfl rfl rfl rfl rfl

theorem Device.setCounter_keeps {dev₀ d : Device} (kept : Keeps dev₀ d) (dom : Nat) (t : Time) :
    Keeps dev₀ (Device.setCounter d dom t) :=
  kept.put rfl rfl rfl rfl rfl rfl rfl rfl rfl rfl

theorem Device.portAt_keeps {dev₀ d : Device} (kept : Keeps dev₀ d) (dom : Nat) (t : Time) :
    Keeps dev₀ (Device.portAt d dom t) := by
  unfold Device.portAt
  repeat' first
    | assumption | split
    | with_reducible (
        first | apply Device.setCounter_keeps | apply Device.counters_keeps)

theorem Device.writeViewBytes_keeps {dev₀ d : Device} (kept : Keeps dev₀ d) (p a : Nat) (bs : Bytes) :
    Keeps dev₀ (d.writeViewBytes p a bs) := by
  induction bs generalizing d a with
  | nil => exact kept
  | cons b bs ih =>
    unfold Device.writeViewBytes
    refine ih ?_ _
    split
    · exact kept.putMain fun w => Memory.setByte_wf w
    · exact kept

theorem Device.chipCount_keeps {dev₀ d : Device} (kept : Keeps dev₀ d) (k ce ue : Nat) :
    Keeps dev₀ (Device.chipCount d k ce ue) :=
  kept.put rfl rfl rfl rfl rfl rfl rfl rfl rfl rfl

theorem MemState.touch_main (m : MemState) (part : Fin 8) (mask pol : Nat) (write : Bool) (x nonce : Nat) :
    (m.touch part mask pol write x nonce).main = m.main ∧ (m.touch part mask pol write x nonce).sets = m.sets := by
  unfold MemState.touch
  dsimp only
  repeat' split
  all_goals exact ⟨rfl, rfl⟩

theorem MemState.foldl_main {f : MemState → Nat → MemState} (hf : ∀ m i, (f m i).main = m.main ∧ (f m i).sets = m.sets)
    (l : List Nat) : ∀ m, (l.foldl f m).main = m.main ∧ (l.foldl f m).sets = m.sets := by
  induction l with
  | nil => exact fun m => ⟨rfl, rfl⟩
  | cons i l ih => exact fun m => ⟨(ih _).1.trans (hf m i).1, (ih _).2.trans (hf m i).2⟩

theorem Device.cacheTouch_keeps {dev₀ d : Device} (kept : Keeps dev₀ d) (p a n pol : Nat) (write : Bool) :
    Keeps dev₀ (d.cacheTouch p a n pol write) := by
  unfold Device.cacheTouch
  split
  · exact kept
  · rename_i rec' _
    extract_lets e
    have ke : Keeps dev₀ e := bump_keeps kept
    have h := MemState.foldl_main (f := fun m i => match e.viewPhys p ((a / 256 + i) * 256) with
        | some x => m.touch ⟨p % 8, Nat.mod_lt _ (by decide)⟩ (PartRec.wayMask rec') pol write x (e.clk.nonce + i)
        | none => m) (fun m i => by
      split
      · exact MemState.touch_main ..
      · exact ⟨rfl, rfl⟩) (List.range ((a + n + 255) / 256 - a / 256)) e.mem
    exact ke.put rfl h.1 rfl rfl rfl rfl rfl rfl (congrArg _ h.2) rfl

theorem Device.setMemSet_keeps {dev₀ d : Device} (kept : Keeps dev₀ d) (k : Nat) (m : MemSet) :
    Keeps dev₀ (Device.setMemSet d k m) := by
  unfold Device.setMemSet
  iterate 30 try any_goals first
    | with_reducible first | assumption | rfl
    | (extract_lets +onlyGivenNames e
       first | refine Keeps.cut (e := e) ?_ (fun _ => ?_) <;> [subst e; clear_value e]
             | (have : Option _ := e; clear this; clear_value e) | skip)
    | with_reducible (
        first | apply Keeps.ite)
    | split
    | with_reducible (
        first | apply Keeps.foldl | apply Keeps.foldl_fst | apply Keeps.of_fst ‹_› | apply Keeps.put | apply Keeps.putLect)
    | intro _ _ _ | intro _ _
    | simp +zetaDelta only [setAt, List.length_set, List.length_map, List.length_zipIdx, Window.setIbi_events]; done

theorem Device.wroteLine_keeps {dev₀ d : Device} (kept : Keeps dev₀ d) (x : Nat) : Keeps dev₀ (d.wroteLine x) :=
  (setMemSet_keeps kept _ _).putMain fun w => Memory.heal_wf 256 w

theorem Device.writeLines_keeps {dev₀ d : Device} (kept : Keeps dev₀ d) (p a : Nat) (bs : Bytes) :
    Keeps dev₀ (Device.writeLines d p a bs) := by
  unfold Device.writeLines
  iterate 30 try any_goals first
    | with_reducible first | assumption | rfl
    | (extract_lets +onlyGivenNames e
       first | refine Keeps.cut (e := e) ?_ (fun _ => ?_) <;> [subst e; clear_value e]
             | (have : Option _ := e; clear this; clear_value e) | skip)
    | with_reducible (
        first | apply Device.writeViewBytes_keeps | apply Device.cacheTouch_keeps | apply Device.wroteLine_keeps
              | apply Keeps.ite)
    | split
    | with_reducible (
        first | apply Keeps.foldl | apply Keeps.foldl_fst | apply Keeps.of_fst ‹_› | apply Keeps.put | apply Keeps.putLect)
    | intro _ _ _ | intro _ _
    | simp +zetaDelta only [setAt, List.length_set, List.length_map, List.length_zipIdx, Window.setIbi_events]; done

theorem Device.win_le_keeps {dev₀ d : Device} (kept : Keeps dev₀ d) {f : Window → Window}
    (h : (f d.bur.win).events.length ≤ max 256 d.bur.win.events.length) : Keeps dev₀ (d.win f) :=
  kept.putWin h

theorem Device.win_keeps {dev₀ d : Device} (kept : Keeps dev₀ d) {f : Window → Window}
    (h : (f d.bur.win).events = d.bur.win.events) : Keeps dev₀ (d.win f) :=
  kept.putWin (by rw [h]; omega)

theorem Device.watchStatus_keeps {dev₀ d : Device} {f : Device → Device} (kept : Keeps dev₀ (f d)) :
    Keeps dev₀ (d.watchStatus f) := by
  unfold Device.watchStatus
  extract_lets e
  split
  · exact kept
  · exact win_keeps kept (Window.setIbi_events ..)

theorem Device.postEvent_keeps {dev₀ d : Device} (kept : Keeps dev₀ d) (st : Status) (sev : BitVec 2) (kind : BitVec 4)
    (src : BitVec 16) (detail : BitVec 112) : Keeps dev₀ (d.postEvent st sev kind src detail) := by
  unfold Device.postEvent
  dsimp only
  split
  · refine win_keeps ?_ ?_
    · exact kept.putNv (.of_eq rfl rfl rfl)
    · rfl
  · refine win_le_keeps ?_ ?_
    · exact kept.putNv (.of_eq rfl rfl rfl)
    dsimp only
    split <;> simp only [Window.setIbi_events, List.length_append, List.length_singleton] <;> omega

theorem Device.event_keeps {dev₀ d : Device} (kept : Keeps dev₀ d) (st : Status) (kind : BitVec 4) (src : BitVec 16) (detail : BitVec 112) :
    Keeps dev₀ (Device.event d st kind src detail) := by
  unfold Device.event
  repeat' first
    | assumption | split
    | with_reducible (
        first | apply Device.postEvent_keeps)

theorem Device.notify_keeps {dev₀ d : Device} (kept : Keeps dev₀ d) (st : Status) (kind : BitVec 4) (src : BitVec 16) :
    Keeps dev₀ (Device.notify d st kind src) := by
  unfold Device.notify
  iterate 30 try any_goals first
    | with_reducible first | assumption | rfl
    | (extract_lets +onlyGivenNames e
       first | refine Keeps.cut (e := e) ?_ (fun _ => ?_) <;> [subst e; clear_value e]
             | (have : Option _ := e; clear this; clear_value e) | skip)
    | with_reducible (
        first | apply Keeps.ite)
    | split
    | with_reducible (
        first | apply Keeps.foldl | apply Keeps.foldl_fst | apply Keeps.of_fst ‹_› | apply Keeps.put | apply Keeps.putLect)
    | intro _ _ _ | intro _ _
    | simp +zetaDelta only [setAt, List.length_set, List.length_map, List.length_zipIdx, Window.setIbi_events]; done

theorem Device.lectLog_keeps {dev₀ d : Device} (kept : Keeps dev₀ d) (st : Status) (kind : BitVec 4)
    (src : BitVec 16) : Keeps dev₀ (d.lectLog st kind src) :=
  kept.trans ⟨⟨id, id, fun _ => List.length_take_le .., id, id, id, .refl _⟩, id⟩

theorem Device.enterSafe_keeps {dev₀ d : Device} (kept : Keeps dev₀ d) (c : SafeCause) (st : Status)
    (src : BitVec 16) : Keeps dev₀ (d.enterSafe c st src) :=
  watchStatus_keeps (kept.trans ⟨⟨fun _ _ => ⟨rfl, rfl⟩, fun _ h => (nomatch h), id, id, id, id, .refl _⟩, fun _ => rfl⟩)

theorem Device.enterQuiet_keeps {dev₀ d : Device} (kept : Keeps dev₀ d) (c : SafeCause) :
    Keeps dev₀ (Device.enterQuiet d c) := by
  unfold Device.enterQuiet
  repeat' first
    | assumption | split
    | with_reducible (
        first | apply Device.postEvent_keeps | apply Device.enterSafe_keeps)

theorem Device.clearCause_keeps {dev₀ d : Device} (kept : Keeps dev₀ d) (c : SafeCause) : Keeps dev₀ (d.clearCause c) :=
  kept.trans ⟨⟨id, fun h s => by simp [Device.clearCause, h s], id, id, id, id, .refl _⟩, id⟩

theorem Device.notifyAgain_keeps {dev₀ d : Device} (kept : Keeps dev₀ d) (st : Status) (kind : BitVec 4) (src : BitVec 16) :
    Keeps dev₀ (Device.notifyAgain d st kind src) := by
  unfold Device.notifyAgain
  iterate 30 try any_goals first
    | with_reducible first | assumption | rfl
    | (extract_lets +onlyGivenNames e
       first | refine Keeps.cut (e := e) ?_ (fun _ => ?_) <;> [subst e; clear_value e]
             | (have : Option _ := e; clear this; clear_value e) | skip)
    | with_reducible (
        first | apply Device.clearCause_keeps | apply Keeps.ite)
    | split
    | with_reducible (
        first | apply Keeps.foldl | apply Keeps.foldl_fst | apply Keeps.of_fst ‹_› | apply Keeps.put | apply Keeps.putLect)
    | intro _ _ _ | intro _ _
    | simp +zetaDelta only [setAt, List.length_set, List.length_map, List.length_zipIdx, Window.setIbi_events]; done

theorem Device.token_keeps {dev₀ d : Device} (kept : Keeps dev₀ d) (t : Token) : Keeps dev₀ (Device.token d t) := by
  unfold Device.token
  iterate 30 try any_goals first
    | with_reducible first | assumption | rfl
    | (extract_lets +onlyGivenNames e
       first | refine Keeps.cut (e := e) ?_ (fun _ => ?_) <;> [subst e; clear_value e]
             | (have : Option _ := e; clear this; clear_value e) | skip)
    | with_reducible (
        first | apply Keeps.ite)
    | split
    | with_reducible (
        first | apply Keeps.foldl | apply Keeps.foldl_fst | apply Keeps.of_fst ‹_› | apply Keeps.put | apply Keeps.putLect)
    | intro _ _ _ | intro _ _
    | simp +zetaDelta only [setAt, List.length_set, List.length_map, List.length_zipIdx, Window.setIbi_events]; done

theorem Device.monitorStopped_keeps {dev₀ d : Device} (kept : Keeps dev₀ d) (k : MonKey) :
    Keeps dev₀ (Device.monitorStopped d k) := by
  unfold Device.monitorStopped
  iterate 30 try any_goals first
    | with_reducible first | assumption | rfl
    | (extract_lets +onlyGivenNames e
       first | refine Keeps.cut (e := e) ?_ (fun _ => ?_) <;> [subst e; clear_value e]
             | (have : Option _ := e; clear this; clear_value e) | skip)
    | with_reducible (
        first | apply Device.clearCause_keeps | apply Keeps.ite)
    | split
    | with_reducible (
        first | apply Keeps.foldl | apply Keeps.foldl_fst | apply Keeps.of_fst ‹_› | apply Keeps.put | apply Keeps.putLect)
    | intro _ _ _ | intro _ _
    | simp +zetaDelta only [setAt, List.length_set, List.length_map, List.length_zipIdx, Window.setIbi_events]; done

theorem Device.setHook_keeps {dev₀ d : Device} (kept : Keeps dev₀ d) (h : Nat) (x : Hook) :
    Keeps dev₀ (Device.setHook d h x) :=
  kept.put rfl rfl rfl rfl rfl rfl rfl rfl rfl rfl

theorem Device.setTile_keeps {dev₀ d : Device} (kept : Keeps dev₀ d) (t : Nat) (x : TileState) :
    Keeps dev₀ (Device.setTile d t x) :=
  kept.put rfl rfl rfl rfl rfl rfl rfl rfl rfl rfl

theorem Device.setRun_keeps {dev₀ d : Device} (kept : Keeps dev₀ d) (j : BitVec 16) (r : JobRun) :
    Keeps dev₀ (Device.setRun d j r) :=
  kept.put rfl rfl rfl rfl rfl rfl rfl rfl rfl rfl

theorem Device.cancelTile_keeps {dev₀ d : Device} (kept : Keeps dev₀ d) (t : Fin 4160) :
    Keeps dev₀ (Device.cancelTile d t) := by
  unfold Device.cancelTile
  iterate 30 try any_goals first
    | with_reducible first | assumption | rfl
    | (extract_lets +onlyGivenNames e
       first | refine Keeps.cut (e := e) ?_ (fun _ => ?_) <;> [subst e; clear_value e]
             | (have : Option _ := e; clear this; clear_value e) | skip)
    | with_reducible (
        first | apply Device.setTile_keeps | apply Device.forgetWaits_keeps | apply Keeps.ite)
    | split
    | with_reducible (
        first | apply Keeps.foldl | apply Keeps.foldl_fst | apply Keeps.of_fst ‹_› | apply Keeps.put | apply Keeps.putLect)
    | intro _ _ _ | intro _ _
    | simp +zetaDelta only [setAt, List.length_set, List.length_map, List.length_zipIdx, Window.setIbi_events]; done

theorem Device.cancelPeriod_keeps {dev₀ d : Device} (kept : Keeps dev₀ d) (j : BitVec 16) (st : Status) :
    Keeps dev₀ (Device.cancelPeriod d j st) := by
  unfold Device.cancelPeriod
  iterate 30 try any_goals first
    | with_reducible first | assumption | rfl
    | (extract_lets +onlyGivenNames e
       first | refine Keeps.cut (e := e) ?_ (fun _ => ?_) <;> [subst e; clear_value e]
             | (have : Option _ := e; clear this; clear_value e) | skip)
    | with_reducible (
        first | apply Device.setRun_keeps | apply Device.cancelTile_keeps | apply Keeps.ite)
    | split
    | with_reducible (
        first | apply Keeps.foldl | apply Keeps.foldl_fst | apply Keeps.of_fst ‹_› | apply Keeps.put | apply Keeps.putLect)
    | intro _ _ _ | intro _ _
    | simp +zetaDelta only [setAt, List.length_set, List.length_map, List.length_zipIdx, Window.setIbi_events]; done

theorem Device.withholdStop_keeps {dev₀ d : Device} (kept : Keeps dev₀ d) (j : BitVec 16) (st : Status) :
    Keeps dev₀ (Device.withholdStop d j st) := by
  unfold Device.withholdStop
  repeat' first
    | with_reducible assumption
    | (extract_lets +onlyGivenNames e
       first | refine Keeps.cut (e := e) ?_ (fun _ => ?_) <;> [subst e; clear_value e] | skip)
    | with_reducible (
        first | apply Device.setRun_keeps | apply Device.cancelPeriod_keeps | apply Keeps.ite)
    | split

theorem Device.resumeWaiter_keeps {dev₀ d : Device} (kept : Keeps dev₀ d) (h : Nat) (w : Waiter) :
    Keeps dev₀ (Device.resumeWaiter d h w) := by
  unfold Device.resumeWaiter
  repeat' first
    | assumption | split
    | with_reducible (
        first | apply Device.setHook_keeps | apply Device.setTile_keeps)

theorem Device.signalHook_keeps {dev₀ d : Device} (kept : Keeps dev₀ d) (who : Requester) (h n : Nat) :
    Keeps dev₀ (Device.signalHook d who h n) := by
  unfold Device.signalHook
  iterate 30 try any_goals first
    | with_reducible first | assumption | rfl
    | (extract_lets +onlyGivenNames e
       first | refine Keeps.cut (e := e) ?_ (fun _ => ?_) <;> [subst e; clear_value e]
             | (have : Option _ := e; clear this; clear_value e) | skip)
    | with_reducible (
        first | apply Device.setHook_keeps | apply Device.withholdStop_keeps | apply Device.resumeWaiter_keeps
              | apply Keeps.ite)
    | split
    | with_reducible (
        first | apply Keeps.foldl | apply Keeps.foldl_fst | apply Keeps.of_fst ‹_› | apply Keeps.put | apply Keeps.putLect)
    | intro _ _ _ | intro _ _
    | simp +zetaDelta only [setAt, List.length_set, List.length_map, List.length_zipIdx, Window.setIbi_events]; done

theorem Device.waitHook_keeps {dev₀ d : Device} (kept : Keeps dev₀ d) (who : Requester) (h n : Nat) :
    Keeps dev₀ (Device.waitHook d who h n) := by
  unfold Device.waitHook
  repeat' first
    | assumption | split
    | with_reducible (
        first | apply Device.setHook_keeps | apply Device.withholdStop_keeps | apply Device.resumeWaiter_keeps)

theorem Device.takeHook_keeps {dev₀ d : Device} (kept : Keeps dev₀ d) (who : Requester) (h n : Nat) :
    Keeps dev₀ (Device.takeHook d who h n).1 := by
  unfold Device.takeHook
  repeat' first
    | assumption | split
    | with_reducible (
        first | apply Device.setHook_keeps)

theorem Device.tryHook_keeps {dev₀ d : Device} (kept : Keeps dev₀ d) (h n : Nat) :
    Keeps dev₀ (Device.tryHook d h n).1 :=
  kept.put rfl rfl rfl rfl rfl rfl rfl rfl rfl rfl

theorem Device.forgetWaits_keeps {dev₀ d : Device} (kept : Keeps dev₀ d) (who : Requester) :
    Keeps dev₀ (Device.forgetWaits d who) :=
  kept.put rfl rfl rfl rfl rfl rfl rfl rfl rfl rfl

theorem Device.resetHook_keeps {dev₀ d : Device} (kept : Keeps dev₀ d) (h : Nat) :
    Keeps dev₀ (Device.resetHook d h) :=
  kept.put rfl rfl rfl rfl rfl rfl rfl rfl rfl rfl

theorem Device.initHook_keeps {dev₀ d : Device} (kept : Keeps dev₀ d) (h n : Nat) :
    Keeps dev₀ (Device.initHook d h n) :=
  kept.put rfl rfl rfl rfl rfl rfl rfl rfl rfl rfl

theorem Device.setOut_keeps {dev₀ d : Device} (kept : Keeps dev₀ d) (p : Nat) (o : OutPort) :
    Keeps dev₀ (Device.setOut d p o) := by
  unfold Device.setOut
  iterate 30 try any_goals first
    | with_reducible first | assumption | rfl
    | (extract_lets +onlyGivenNames e
       first | refine Keeps.cut (e := e) ?_ (fun _ => ?_) <;> [subst e; clear_value e]
             | (have : Option _ := e; clear this; clear_value e) | skip)
    | with_reducible (
        first | apply Keeps.ite)
    | split
    | with_reducible (
        first | apply Keeps.foldl | apply Keeps.foldl_fst | apply Keeps.of_fst ‹_› | apply Keeps.put | apply Keeps.putLect)
    | intro _ _ _ | intro _ _
    | simp +zetaDelta only [setAt, List.length_set, List.length_map, List.length_zipIdx, Window.setIbi_events]; done

theorem Device.sendRecord_keeps {dev₀ d : Device} (kept : Keeps dev₀ d) (r : OutRecord) :
    Keeps dev₀ (Device.sendRecord d r) := by
  unfold Device.sendRecord
  repeat' first
    | with_reducible assumption
    | (extract_lets +onlyGivenNames e
       first | refine Keeps.cut (e := e) ?_ (fun _ => ?_) <;> [subst e; clear_value e] | skip)
    | with_reducible (
        first | apply Device.win_keeps | apply Device.setOut_keeps | apply Keeps.ite)
    | split

theorem Device.setDrawer_keeps {dev₀ d : Device} (kept : Keeps dev₀ d) (n : Fin 64) (x : Drawer) :
    Keeps dev₀ (Device.setDrawer d n x) := by
  unfold Device.setDrawer
  iterate 30 try any_goals first
    | with_reducible first | assumption | rfl
    | (extract_lets +onlyGivenNames e
       first | refine Keeps.cut (e := e) ?_ (fun _ => ?_) <;> [subst e; clear_value e]
             | (have : Option _ := e; clear this; clear_value e) | skip)
    | with_reducible (
        first | apply Keeps.ite)
    | split
    | with_reducible (
        first | apply Keeps.foldl | apply Keeps.foldl_fst | apply Keeps.of_fst ‹_› | apply Keeps.put | apply Keeps.putLect)
    | intro _ _ _ | intro _ _
    | simp +zetaDelta only [setAt, List.length_set, List.length_map, List.length_zipIdx, Window.setIbi_events]; done

theorem Device.reply_keeps {dev₀ d : Device} (kept : Keeps dev₀ d) (n : Fin 64) (st : Status) (bs : Bytes) :
    Keeps dev₀ (d.reply n st bs) := by
  unfold Device.reply
  extract_lets x long held e
  refine win_keeps ?_ ?_
  · exact (setDrawer_keeps kept n _).put rfl rfl rfl rfl rfl rfl rfl rfl rfl rfl
  · exact Window.setIbi_events ..

theorem Device.fail_keeps {dev₀ d : Device} (kept : Keeps dev₀ d) (n : Fin 64) (st : Status) :
    Keeps dev₀ (Device.fail d n st) := by
  unfold Device.fail
  repeat' first
    | assumption | split
    | with_reducible (
        first | apply Device.reply_keeps)

theorem Device.count_keeps {dev₀ d : Device} (kept : Keeps dev₀ d) (client k n : Nat) :
    Keeps dev₀ (Device.count d client k n) := by
  unfold Device.count
  iterate 30 try any_goals first
    | with_reducible first | assumption | rfl
    | (extract_lets +onlyGivenNames e
       first | refine Keeps.cut (e := e) ?_ (fun _ => ?_) <;> [subst e; clear_value e]
             | (have : Option _ := e; clear this; clear_value e) | skip)
    | with_reducible (
        first | apply Keeps.ite)
    | split
    | with_reducible (
        first | apply Keeps.foldl | apply Keeps.foldl_fst | apply Keeps.of_fst ‹_› | apply Keeps.put | apply Keeps.putLect)
    | intro _ _ _ | intro _ _
    | simp +zetaDelta only [setAt, List.length_set, List.length_map, List.length_zipIdx, Window.setIbi_events]; done

theorem Device.setDom_keeps {dev₀ d : Device} (kept : Keeps dev₀ d) (k : Nat) (x : DomState) :
    Keeps dev₀ (Device.setDom d k x) := by
  unfold Device.setDom
  iterate 30 try any_goals first
    | with_reducible first | assumption | rfl
    | (extract_lets +onlyGivenNames e
       first | refine Keeps.cut (e := e) ?_ (fun _ => ?_) <;> [subst e; clear_value e]
             | (have : Option _ := e; clear this; clear_value e) | skip)
    | with_reducible (
        first | apply Keeps.ite)
    | split
    | with_reducible (
        first | apply Keeps.foldl | apply Keeps.foldl_fst | apply Keeps.of_fst ‹_› | apply Keeps.put | apply Keeps.putLect)
    | intro _ _ _ | intro _ _
    | simp +zetaDelta only [setAt, List.length_set, List.length_map, List.length_zipIdx, Window.setIbi_events]; done

theorem Device.needDom_keeps {dev₀ d : Device} (kept : Keeps dev₀ d) (k : Nat) : Keeps dev₀ (Device.needDom d k) := by
  unfold Device.needDom
  repeat' first
    | assumption | split
    | with_reducible (
        first | apply Device.setDom_keeps)

theorem Device.persist_keeps {dev₀ d : Device} (kept : Keeps dev₀ d) : Keeps dev₀ (Device.persist d) :=
  kept.put rfl rfl rfl rfl rfl rfl rfl rfl rfl rfl

/-! ### The shells of the meanings -/

theorem State.act_keeps {now : Time} {s : State} {f : Device → Device} (h : ∀ d, Keeps s.dev d → Keeps s.dev (f d)) :
    StepKeeps s (s.act now f) :=
  ⟨_, rfl, h _ (advance_keeps (.refl _) now)⟩

theorem State.onUp_keeps {now : Time} {s : State} {f : Device → Device} (h : ∀ d, Keeps s.dev d → Keeps s.dev (f d)) :
    StepKeeps s (s.onUp now f) :=
  act_keeps fun d k => Keeps.ite (h d k) k

theorem State.onAlive_keeps {now : Time} {s : State} {f : Device → Device}
    (h : ∀ d, Keeps s.dev d → Keeps s.dev (f d)) : StepKeeps s (s.onAlive now f) :=
  act_keeps fun d k => Keeps.ite (h d k) k

end Sys2Proof.Machine
end

