-- ==== Sys2Proof/Laws/KeepsFlags.lean ====
section
/-!
SUPPORT. What the operations of `Machine/Flags` keep: the invariants of `Safety`, a held safe state and the fuses.
-/

set_option linter.all false

namespace Sys2Proof.Machine

theorem Device.hold_keeps {dev₀ d : Device} (kept : Keeps dev₀ d) (n : Fin 64) : Keeps dev₀ (Device.hold d n) := by
  unfold Device.hold
  iterate 30 try any_goals first
    | with_reducible first | assumption | rfl
    | (extract_lets +onlyGivenNames e
       first | refine Keeps.cut (e := e) ?_ (fun _ => ?_) <;> [subst e; clear_value e]
             | (have : Option _ := e; clear this; clear_value e) | skip)
    | with_reducible (
        first | apply Device.setDrawer_keeps | apply Keeps.ite)
    | split
    | with_reducible (
        first | apply Keeps.foldl | apply Keeps.foldl_fst | apply Keeps.of_fst ‹_› | apply Keeps.put | apply Keeps.putLect)
    | intro _ _ _ | intro _ _
    | simp +zetaDelta only [setAt, List.length_set, List.length_map, List.length_zipIdx, Window.setIbi_events]; done

theorem Device.command_keeps {dev₀ d : Device} (kept : Keeps dev₀ d) (n : Fin 64) (op : Nat) {eff : Device → Device}
    (he : ∀ e, Keeps dev₀ e → Keeps dev₀ (eff e)) : Keeps dev₀ (d.command n op eff) := by
  unfold Device.command
  split
  · extract_lets b e x f
    have ke : Keeps dev₀ e := kept.put rfl rfl rfl rfl rfl rfl rfl rfl rfl rfl
    have kf : Keeps dev₀ f := setDrawer_keeps ke _ _
    split
    · exact fail_keeps kf ..
    · split
      · exact hold_keeps kf ..
      · exact he _ kf
  · exact kept

theorem Device.goOn_keeps {dev₀ d : Device} (kept : Keeps dev₀ d) (n : Fin 64) : Keeps dev₀ (Device.goOn d n) := by
  unfold Device.goOn
  repeat' first
    | assumption | split
    | with_reducible (
        first | apply Device.setDrawer_keeps)

theorem Device.armBulk_keeps {dev₀ d : Device} (kept : Keeps dev₀ d) (n : Fin 64) (ref : Image) (limit : Nat) (dest : Option (Fin 8 × Nat × Nat)) :
    Keeps dev₀ (Device.armBulk d n ref limit dest) := by
  unfold Device.armBulk
  iterate 30 try any_goals first
    | with_reducible first | assumption | rfl
    | (extract_lets +onlyGivenNames e
       first | refine Keeps.cut (e := e) ?_ (fun _ => ?_) <;> [subst e; clear_value e]
             | (have : Option _ := e; clear this; clear_value e) | skip)
    | with_reducible (
        first | apply Device.fail_keeps | apply Device.needDom_keeps | apply Device.goOn_keeps | apply Keeps.ite)
    | split
    | with_reducible (
        first | apply Keeps.foldl | apply Keeps.foldl_fst | apply Keeps.of_fst ‹_› | apply Keeps.put | apply Keeps.putLect)
    | intro _ _ _ | intro _ _
    | simp +zetaDelta only [setAt, List.length_set, List.length_map, List.length_zipIdx, Window.setIbi_events]; done

theorem State.drawerCommand_keeps {now : Time} {s : State} {n : Fin 64} {op : Nat} {eff : Device → Device}
    (h : ∀ d, Keeps s.dev d → Keeps s.dev (eff d)) : StepKeeps s (s.drawerCommand now n op eff) :=
  onAlive_keeps fun _ k => Device.command_keeps k n op h

end Sys2Proof.Machine
end

