-- ==== Sys2Proof/Laws/KeepsHostWindow.lean ====
section
/-!
SUPPORT. What the operations of `Machine/HostWindow` keep: the invariants of `Safety`, a held safe state and the fuses.
-/

set_option linter.all false

namespace Sys2Proof.Machine

theorem Device.hostError_keeps {dev₀ d : Device} (kept : Keeps dev₀ d) (e : HostErr) :
    Keeps dev₀ (Device.hostError d e) :=
  kept.put rfl rfl rfl rfl rfl rfl rfl rfl rfl rfl

theorem Device.writeAreas_keeps {dev₀ d : Device} (kept : Keeps dev₀ d) (a : Nat) (bs : Bytes) :
    Keeps dev₀ (Device.writeAreas d a bs) := by
  unfold Device.writeAreas
  iterate 30 try any_goals first
    | with_reducible first | assumption | rfl
    | (extract_lets +onlyGivenNames e
       first | refine Keeps.cut (e := e) ?_ (fun _ => ?_) <;> [subst e; clear_value e]
             | (have : Option _ := e; clear this; clear_value e) | skip)
    | with_reducible (
        first | apply Device.setDrawer_keeps | apply Device.hostError_keeps | apply Keeps.ite)
    | split
    | with_reducible (
        first | apply Keeps.foldl | apply Keeps.foldl_fst | apply Keeps.of_fst ‹_› | apply Keeps.put | apply Keeps.putLect)
    | intro _ _ _ | intro _ _
    | simp +zetaDelta only [setAt, List.length_set, List.length_map, List.length_zipIdx, Window.setIbi_events]; done

theorem Device.doorbell_keeps {dev₀ d : Device} (kept : Keeps dev₀ d) (n : Fin 64) :
    Keeps dev₀ (Device.doorbell d n) := by
  unfold Device.doorbell
  iterate 30 try any_goals first
    | with_reducible first | assumption | rfl
    | (extract_lets +onlyGivenNames e
       first | refine Keeps.cut (e := e) ?_ (fun _ => ?_) <;> [subst e; clear_value e]
             | (have : Option _ := e; clear this; clear_value e) | skip)
    | with_reducible (
        first | apply Device.setDrawer_keeps | apply Device.reply_keeps | apply Device.fail_keeps
              | apply Device.hostError_keeps | apply Keeps.ite)
    | split
    | with_reducible (
        first | apply Keeps.foldl | apply Keeps.foldl_fst | apply Keeps.of_fst ‹_› | apply Keeps.put | apply Keeps.putLect)
    | intro _ _ _ | intro _ _
    | simp +zetaDelta only [setAt, List.length_set, List.length_map, List.length_zipIdx, Window.setIbi_events]; done

theorem Device.popEvent_keeps {dev₀ d : Device} (kept : Keeps dev₀ d) (v : BitVec 32) : Keeps dev₀ (d.popEvent v) := by
  unfold Device.popEvent
  split
  · rename_i e r h
    split
    · refine win_le_keeps kept ?_
      simp only [h, List.length_cons]
      omega
    · exact hostError_keeps kept _
  · exact hostError_keeps kept _

theorem Device.clearOverflow_keeps {dev₀ d : Device} (kept : Keeps dev₀ d) : Keeps dev₀ (Device.clearOverflow d) :=
  kept.put rfl rfl rfl rfl rfl rfl rfl rfl rfl rfl

theorem Device.privateWrite_keeps {dev₀ d : Device} (kept : Keeps dev₀ d) (bytes : Bytes) :
    Keeps dev₀ (Device.privateWrite d bytes) := by
  unfold Device.privateWrite
  iterate 30 try any_goals first
    | with_reducible first | assumption | rfl
    | (extract_lets +onlyGivenNames e
       first | refine Keeps.cut (e := e) ?_ (fun _ => ?_) <;> [subst e; clear_value e]
             | (have : Option _ := e; clear this; clear_value e) | skip)
    | with_reducible (
        first | apply Device.win_keeps | apply Device.hostError_keeps | apply Device.writeAreas_keeps
              | apply Device.doorbell_keeps | apply Device.popEvent_keeps | apply Device.clearOverflow_keeps
              | apply Keeps.ite)
    | split
    | with_reducible (
        first | apply Keeps.foldl | apply Keeps.foldl_fst | apply Keeps.of_fst ‹_› | apply Keeps.put | apply Keeps.putLect)
    | intro _ _ _ | intro _ _
    | simp +zetaDelta only [setAt, List.length_set, List.length_map, List.length_zipIdx, Window.setIbi_events]; done

theorem Device.readByte_keeps {dev₀ d : Device} (kept : Keeps dev₀ d) : Keeps dev₀ (Device.readByte d) := by
  unfold Device.readByte
  iterate 30 try any_goals first
    | with_reducible first | assumption | rfl
    | (extract_lets +onlyGivenNames e
       first | refine Keeps.cut (e := e) ?_ (fun _ => ?_) <;> [subst e; clear_value e]
             | (have : Option _ := e; clear this; clear_value e) | skip)
    | with_reducible (
        first | apply Device.win_keeps | apply Keeps.ite)
    | split
    | with_reducible (
        first | apply Keeps.foldl | apply Keeps.foldl_fst | apply Keeps.of_fst ‹_› | apply Keeps.put | apply Keeps.putLect)
    | intro _ _ _ | intro _ _
    | simp +zetaDelta only [setAt, List.length_set, List.length_map, List.length_zipIdx, Window.setIbi_events]; done

theorem Device.readBytes_keeps {dev₀ d : Device} (kept : Keeps dev₀ d) (z : Nat) :
    Keeps dev₀ (Device.readBytes d z) := by
  induction z generalizing d with
  | zero => exact kept
  | succ n ih => exact ih (readByte_keeps kept)

theorem Device.beginRead_keeps {dev₀ d : Device} (kept : Keeps dev₀ d) : Keeps dev₀ (Device.beginRead d) :=
  kept.put rfl rfl rfl rfl rfl rfl rfl rfl rfl rfl

theorem Device.endRead_keeps {dev₀ d : Device} (kept : Keeps dev₀ d) : Keeps dev₀ (Device.endRead d) :=
  kept.put rfl rfl rfl rfl rfl rfl rfl rfl rfl rfl

theorem Device.privateRead_keeps {dev₀ d : Device} (kept : Keeps dev₀ d) (z : HostRead) :
    Keeps dev₀ (Device.privateRead d z) := by
  unfold Device.privateRead
  repeat' first
    | assumption | split
    | with_reducible (
        first | apply Device.readBytes_keeps | apply Device.beginRead_keeps)

theorem Device.hello_keeps {dev₀ d : Device} (kept : Keeps dev₀ d) (n : Fin 64) : Keeps dev₀ (Device.hello d n) := by
  unfold Device.hello
  iterate 30 try any_goals first
    | with_reducible first | assumption | rfl
    | (extract_lets +onlyGivenNames e
       first | refine Keeps.cut (e := e) ?_ (fun _ => ?_) <;> [subst e; clear_value e]
             | (have : Option _ := e; clear this; clear_value e) | skip)
    | with_reducible (
        first | apply Device.win_keeps | apply Device.reply_keeps | apply Device.fail_keeps | apply Keeps.ite)
    | split
    | with_reducible (
        first | apply Keeps.foldl | apply Keeps.foldl_fst | apply Keeps.of_fst ‹_› | apply Keeps.put | apply Keeps.putLect)
    | intro _ _ _ | intro _ _
    | simp +zetaDelta only [setAt, List.length_set, List.length_map, List.length_zipIdx, Window.setIbi_events]; done

theorem Device.readMore_keeps {dev₀ d : Device} (kept : Keeps dev₀ d) (n : Fin 64) :
    Keeps dev₀ (Device.readMore d n) := by
  unfold Device.readMore
  repeat' first
    | assumption | split
    | with_reducible (
        first | apply Device.setDrawer_keeps | apply Device.reply_keeps)

theorem Device.useTime_keeps {dev₀ d : Device} (kept : Keeps dev₀ d) : Keeps dev₀ (Device.useTime d) := by
  unfold Device.useTime
  iterate 30 try any_goals first
    | with_reducible first | assumption | rfl
    | (extract_lets +onlyGivenNames e
       first | refine Keeps.cut (e := e) ?_ (fun _ => ?_) <;> [subst e; clear_value e]
             | (have : Option _ := e; clear this; clear_value e) | skip)
    | with_reducible (
        first | apply Device.needDom_keeps | apply Keeps.ite)
    | split
    | with_reducible (
        first | apply Keeps.foldl | apply Keeps.foldl_fst | apply Keeps.of_fst ‹_› | apply Keeps.put | apply Keeps.putLect)
    | intro _ _ _ | intro _ _
    | simp +zetaDelta only [setAt, List.length_set, List.length_map, List.length_zipIdx, Window.setIbi_events]; done

theorem Device.timeSamples_keeps {dev₀ d : Device} (kept : Keeps dev₀ d) (n : Fin 64) :
    Keeps dev₀ (Device.timeSamples d n) := by
  unfold Device.timeSamples
  repeat' first
    | with_reducible assumption
    | (extract_lets +onlyGivenNames e
       first | refine Keeps.cut (e := e) ?_ (fun _ => ?_) <;> [subst e; clear_value e] | skip)
    | with_reducible (
        first | apply Device.reply_keeps | apply Device.fail_keeps | apply Device.count_keeps | apply Keeps.ite)
    | split

theorem Device.timeConvert_keeps {dev₀ d : Device} (kept : Keeps dev₀ d) (n : Fin 64) :
    Keeps dev₀ (Device.timeConvert d n) := by
  unfold Device.timeConvert
  repeat' first
    | with_reducible assumption
    | (extract_lets +onlyGivenNames e
       first | refine Keeps.cut (e := e) ?_ (fun _ => ?_) <;> [subst e; clear_value e] | skip)
    | with_reducible (
        first | apply Device.reply_keeps | apply Device.fail_keeps | apply Keeps.ite)
    | split

theorem Device.lecternLog_keeps {dev₀ d : Device} (kept : Keeps dev₀ d) (n : Fin 64) :
    Keeps dev₀ (Device.lecternLog d n) := by
  unfold Device.lecternLog
  repeat' first
    | with_reducible assumption
    | (extract_lets +onlyGivenNames e
       first | refine Keeps.cut (e := e) ?_ (fun _ => ?_) <;> [subst e; clear_value e] | skip)
    | with_reducible (
        first | apply Device.reply_keeps | apply Device.fail_keeps | apply Device.count_keeps | apply Keeps.ite)
    | split

theorem Device.i3c_keeps {dev₀ d : Device} (kept : Keeps dev₀ d) (f : I3c → I3c) : Keeps dev₀ (Device.i3c d f) :=
  kept.put rfl rfl rfl rfl rfl rfl rfl rfl rfl rfl

theorem Device.answer_keeps {dev₀ d : Device} (kept : Keeps dev₀ d) (target : Fin 5) (bs : Bytes) :
    Keeps dev₀ (Device.answer d target bs) :=
  kept.put rfl rfl rfl rfl rfl rfl rfl rfl rfl rfl

theorem Device.setBridge_keeps {dev₀ d : Device} (kept : Keeps dev₀ d) (b : Fin 4) (x : Bridge) :
    Keeps dev₀ (Device.setBridge d b x) :=
  kept.put rfl rfl rfl rfl rfl rfl rfl rfl rfl rfl

theorem Device.setNack_keeps {dev₀ d : Device} (kept : Keeps dev₀ d) (n : Bool) : Keeps dev₀ (Device.setNack d n) :=
  kept.put rfl rfl rfl rfl rfl rfl rfl rfl rfl rfl

theorem Device.bridgeStart_keeps {dev₀ d : Device} (kept : Keeps dev₀ d) (b : Fin 4) (op : BridgeOp) :
    Keeps dev₀ (Device.bridgeStart d b op) := by
  unfold Device.bridgeStart
  repeat' first
    | with_reducible assumption
    | (extract_lets +onlyGivenNames e
       first | refine Keeps.cut (e := e) ?_ (fun _ => ?_) <;> [subst e; clear_value e] | skip)
    | with_reducible (
        first | apply Device.setBridge_keeps | apply Keeps.ite)
    | split

theorem State.onI3c_keeps {now : Time} {s : State} {f : Device → Device}
    (h : ∀ d, Keeps s.dev d → Keeps s.dev (f d)) : StepKeeps s (s.onI3c now f) :=
  act_keeps fun d k => Keeps.ite k (h d k)

theorem State.onBridge_keeps {now : Time} {b : Fin 4} {s : State} {f : Device → Device}
    (h : ∀ d, Keeps s.dev d → Keeps s.dev (f d)) : StepKeeps s (s.onBridge now b f) := by
  refine act_keeps fun d k => ?_
  split
  · exact k
  · exact k
  · exact Device.setNack_keeps k _
  · exact Keeps.ite (Device.setNack_keeps k _) (h _ (Device.setNack_keeps k _))

theorem execHostWindowWrite_keeps (now : Time) (transfer : HostTransfer) (s : State) :
    StepKeeps s (execHostWindowWrite now transfer s) := by
  refine State.act_keeps fun e kept => ?_
  repeat' first
    | assumption | split
    | with_reducible (
        first | apply Device.privateWrite_keeps | apply Device.endRead_keeps | apply Device.privateRead_keeps)

theorem execEventPop_keeps (now : Time) (value : BitVec 32) (s : State) : StepKeeps s (execEventPop now value s) := by
  refine State.onAlive_keeps fun e kept => ?_
  repeat' first
    | assumption | split
    | with_reducible (
        first | apply Device.popEvent_keeps)

theorem execOverflowClear_keeps (now : Time) (s : State) : StepKeeps s (execOverflowClear now s) := by
  refine State.onAlive_keeps fun e kept => ?_
  repeat' first
    | assumption | split
    | with_reducible (
        first | apply Device.clearOverflow_keeps)

theorem execIbiAck_keeps (now : Time) (s : State) : StepKeeps s (execIbiAck now s) := by
  refine State.onAlive_keeps fun e kept => ?_
  iterate 30 try any_goals first
    | with_reducible first | assumption | rfl
    | (extract_lets +onlyGivenNames e
       first | refine Keeps.cut (e := e) ?_ (fun _ => ?_) <;> [subst e; clear_value e]
             | (have : Option _ := e; clear this; clear_value e) | skip)
    | with_reducible (
        first | apply Device.win_keeps | apply Keeps.ite)
    | split
    | with_reducible (
        first | apply Keeps.foldl | apply Keeps.foldl_fst | apply Keeps.of_fst ‹_› | apply Keeps.put | apply Keeps.putLect)
    | intro _ _ _ | intro _ _
    | simp +zetaDelta only [setAt, List.length_set, List.length_map, List.length_zipIdx, Window.setIbi_events]; done

theorem execIbiRetry_keeps (now : Time) (s : State) : StepKeeps s (execIbiRetry now s) := by
  refine State.onAlive_keeps fun e kept => ?_
  iterate 30 try any_goals first
    | with_reducible first | assumption | rfl
    | (extract_lets +onlyGivenNames e
       first | refine Keeps.cut (e := e) ?_ (fun _ => ?_) <;> [subst e; clear_value e]
             | (have : Option _ := e; clear this; clear_value e) | skip)
    | with_reducible (
        first | apply Device.win_keeps | apply Keeps.ite)
    | split
    | with_reducible (
        first | apply Keeps.foldl | apply Keeps.foldl_fst | apply Keeps.of_fst ‹_› | apply Keeps.put | apply Keeps.putLect)
    | intro _ _ _ | intro _ _
    | simp +zetaDelta only [setAt, List.length_set, List.length_map, List.length_zipIdx, Window.setIbi_events]; done

theorem execHello_keeps (now : Time) (drawer : Fin 64) (s : State) : StepKeeps s (execHello now drawer s) := by
  refine State.drawerCommand_keeps fun e kept => ?_
  repeat' first
    | assumption | split
    | with_reducible (
        first | apply Device.hello_keeps)

theorem execReadMore_keeps (now : Time) (drawer : Fin 64) (s : State) : StepKeeps s (execReadMore now drawer s) := by
  refine State.drawerCommand_keeps fun e kept => ?_
  repeat' first
    | assumption | split
    | with_reducible (
        first | apply Device.readMore_keeps)

theorem execTimeSamples_keeps (now : Time) (drawer : Fin 64) (s : State) :
    StepKeeps s (execTimeSamples now drawer s) := by
  refine State.drawerCommand_keeps fun e kept => ?_
  repeat' first
    | assumption | split
    | with_reducible (
        first | apply Device.useTime_keeps | apply Device.timeSamples_keeps)

theorem execTimeConvert_keeps (now : Time) (drawer : Fin 64) (s : State) :
    StepKeeps s (execTimeConvert now drawer s) := by
  refine State.drawerCommand_keeps fun e kept => ?_
  repeat' first
    | assumption | split
    | with_reducible (
        first | apply Device.useTime_keeps | apply Device.timeConvert_keeps)

theorem execLecternLog_keeps (now : Time) (drawer : Fin 64) (s : State) :
    StepKeeps s (execLecternLog now drawer s) := by
  refine State.drawerCommand_keeps fun e kept => ?_
  repeat' first
    | assumption | split
    | with_reducible (
        first | apply Device.lecternLog_keeps)

theorem execCorrespondenceSample_keeps (now : Time) (captured : List (Byte × Time)) (s : State) :
    StepKeeps s (execCorrespondenceSample now captured s) := by
  refine State.onUp_keeps fun e kept => ?_
  iterate 30 try any_goals first
    | with_reducible first | assumption | rfl
    | (extract_lets +onlyGivenNames e
       first | refine Keeps.cut (e := e) ?_ (fun _ => ?_) <;> [subst e; clear_value e]
             | (have : Option _ := e; clear this; clear_value e) | skip)
    | with_reducible (
        first | apply Device.counters_keeps | apply Keeps.ite)
    | split
    | with_reducible (
        first | apply Keeps.foldl | apply Keeps.foldl_fst | apply Keeps.of_fst ‹_› | apply Keeps.put | apply Keeps.putLect)
    | intro _ _ _ | intro _ _
    | simp +zetaDelta only [setAt, List.length_set, List.length_map, List.length_zipIdx, Window.setIbi_events]; done

theorem execEnec_keeps (now : Time) (target : Option (Fin 5)) (events : BitVec 8) (s : State) :
    StepKeeps s (execEnec now target events s) := by
  refine State.onI3c_keeps fun e kept => ?_
  iterate 30 try any_goals first
    | with_reducible first | assumption | rfl
    | (extract_lets +onlyGivenNames e
       first | refine Keeps.cut (e := e) ?_ (fun _ => ?_) <;> [subst e; clear_value e]
             | (have : Option _ := e; clear this; clear_value e) | skip)
    | with_reducible (
        first | apply Device.win_keeps | apply Device.i3c_keeps | apply Keeps.ite)
    | split
    | with_reducible (
        first | apply Keeps.foldl | apply Keeps.foldl_fst | apply Keeps.of_fst ‹_› | apply Keeps.put | apply Keeps.putLect)
    | intro _ _ _ | intro _ _
    | simp +zetaDelta only [setAt, List.length_set, List.length_map, List.length_zipIdx, Window.setIbi_events]; done

theorem execDisec_keeps (now : Time) (target : Option (Fin 5)) (events : BitVec 8) (s : State) :
    StepKeeps s (execDisec now target events s) := by
  refine State.onI3c_keeps fun e kept => ?_
  iterate 30 try any_goals first
    | with_reducible first | assumption | rfl
    | (extract_lets +onlyGivenNames e
       first | refine Keeps.cut (e := e) ?_ (fun _ => ?_) <;> [subst e; clear_value e]
             | (have : Option _ := e; clear this; clear_value e) | skip)
    | with_reducible (
        first | apply Device.win_keeps | apply Device.i3c_keeps | apply Keeps.ite)
    | split
    | with_reducible (
        first | apply Keeps.foldl | apply Keeps.foldl_fst | apply Keeps.of_fst ‹_› | apply Keeps.put | apply Keeps.putLect)
    | intro _ _ _ | intro _ _
    | simp +zetaDelta only [setAt, List.length_set, List.length_map, List.length_zipIdx, Window.setIbi_events]; done

theorem execRstdaa_keeps (now : Time) (s : State) : StepKeeps s (execRstdaa now s) := by
  refine State.onI3c_keeps fun e kept => ?_
  repeat' first
    | assumption | split
    | with_reducible (
        first | apply Device.i3c_keeps)

theorem execEntdaa_keeps (now : Time) (assigned : List (Fin 5 × BitVec 7)) (s : State) :
    StepKeeps s (execEntdaa now assigned s) := by
  refine State.onI3c_keeps fun e kept => ?_
  repeat' first
    | assumption | split
    | with_reducible (
        first | apply Device.i3c_keeps)

theorem execSetmwl_keeps (now : Time) (_target : Option (Fin 5)) (_len : BitVec 16) (s : State) :
    StepKeeps s (execSetmwl now _target _len s) := by
  refine State.onI3c_keeps fun e kept => ?_
  repeat' first | assumption | split

theorem execSetmrl_keeps (now : Time) (_target : Option (Fin 5)) (_len : BitVec 16) (s : State) :
    StepKeeps s (execSetmrl now _target _len s) := by
  refine State.onI3c_keeps fun e kept => ?_
  repeat' first | assumption | split

theorem execEnthdr0_keeps (now : Time) (s : State) : StepKeeps s (execEnthdr0 now s) := by
  refine State.onI3c_keeps fun e kept => ?_
  repeat' first
    | assumption | split
    | with_reducible (
        first | apply Device.i3c_keeps)

theorem execSetdasa_keeps (now : Time) (addr : BitVec 7) (s : State) : StepKeeps s (execSetdasa now addr s) := by
  refine State.onI3c_keeps fun e kept => ?_
  repeat' first
    | assumption | split
    | with_reducible (
        first | apply Device.i3c_keeps)

theorem execSetnewda_keeps (now : Time) (target : Fin 5) (addr : BitVec 7) (s : State) :
    StepKeeps s (execSetnewda now target addr s) := by
  refine State.onI3c_keeps fun e kept => ?_
  repeat' first
    | assumption | split
    | with_reducible (
        first | apply Device.i3c_keeps)

theorem execGetmwl_keeps (now : Time) (target : Fin 5) (s : State) : StepKeeps s (execGetmwl now target s) := by
  refine State.onI3c_keeps fun e kept => ?_
  repeat' first
    | assumption | split
    | with_reducible (
        first | apply Device.answer_keeps)

theorem execGetmrl_keeps (now : Time) (target : Fin 5) (s : State) : StepKeeps s (execGetmrl now target s) := by
  refine State.onI3c_keeps fun e kept => ?_
  repeat' first
    | assumption | split
    | with_reducible (
        first | apply Device.answer_keeps)

theorem execGetpid_keeps (now : Time) (target : Fin 5) (s : State) : StepKeeps s (execGetpid now target s) := by
  refine State.onI3c_keeps fun e kept => ?_
  repeat' first
    | assumption | split
    | with_reducible (
        first | apply Device.answer_keeps)

theorem execGetbcr_keeps (now : Time) (target : Fin 5) (s : State) : StepKeeps s (execGetbcr now target s) := by
  refine State.onI3c_keeps fun e kept => ?_
  repeat' first
    | assumption | split
    | with_reducible (
        first | apply Device.answer_keeps)

theorem execGetdcr_keeps (now : Time) (target : Fin 5) (s : State) : StepKeeps s (execGetdcr now target s) := by
  refine State.onI3c_keeps fun e kept => ?_
  repeat' first
    | assumption | split
    | with_reducible (
        first | apply Device.answer_keeps)

theorem execGetstatus_keeps (now : Time) (target : Fin 5) (s : State) : StepKeeps s (execGetstatus now target s) := by
  refine State.onI3c_keeps fun e kept => ?_
  repeat' first
    | assumption | split
    | with_reducible (
        first | apply Device.win_keeps | apply Device.i3c_keeps | apply Device.answer_keeps)

theorem execGetmxds_keeps (now : Time) (target : Fin 5) (s : State) : StepKeeps s (execGetmxds now target s) := by
  refine State.onI3c_keeps fun e kept => ?_
  repeat' first
    | assumption | split
    | with_reducible (
        first | apply Device.answer_keeps)

theorem execBridgePrivateWrite_keeps (now : Time) (bridge : Fin 4) (addr : BitVec 7) (data : Bytes) (s : State) :
    StepKeeps s (execBridgePrivateWrite now bridge addr data s) := by
  refine State.onBridge_keeps fun e kept => ?_
  repeat' first
    | assumption | split
    | with_reducible (
        first | apply Device.bridgeStart_keeps)

theorem execBridgeBroadcastCcc_keeps (now : Time) (bridge : Fin 4) (data : Bytes) (s : State) :
    StepKeeps s (execBridgeBroadcastCcc now bridge data s) := by
  refine State.onBridge_keeps fun e kept => ?_
  repeat' first
    | assumption | split
    | with_reducible (
        first | apply Device.bridgeStart_keeps)

theorem execBridgeSetMode_keeps (now : Time) (bridge : Fin 4) (mode : Byte) (s : State) :
    StepKeeps s (execBridgeSetMode now bridge mode s) := by
  refine State.onBridge_keeps fun e kept => ?_
  repeat' first
    | with_reducible assumption
    | (extract_lets +onlyGivenNames e
       first | refine Keeps.cut (e := e) ?_ (fun _ => ?_) <;> [subst e; clear_value e] | skip)
    | with_reducible (
        first | apply Device.setBridge_keeps | apply Keeps.ite)
    | split

theorem execBridgeEntdaa_keeps (now : Time) (bridge : Fin 4) (first : Byte) (s : State) :
    StepKeeps s (execBridgeEntdaa now bridge first s) := by
  refine State.onBridge_keeps fun e kept => ?_
  repeat' first
    | assumption | split
    | with_reducible (
        first | apply Device.bridgeStart_keeps)

theorem execBridgeRstdaa_keeps (now : Time) (bridge : Fin 4) (s : State) :
    StepKeeps s (execBridgeRstdaa now bridge s) := by
  refine State.onBridge_keeps fun e kept => ?_
  repeat' first
    | assumption | split
    | with_reducible (
        first | apply Device.bridgeStart_keeps)

theorem execBridgePrivateRead_keeps (now : Time) (bridge : Fin 4) (addr : BitVec 7) (len : Byte) (s : State) :
    StepKeeps s (execBridgePrivateRead now bridge addr len s) := by
  refine State.onBridge_keeps fun e kept => ?_
  repeat' first
    | assumption | split
    | with_reducible (
        first | apply Device.bridgeStart_keeps)

theorem execBridgeTransferDone_keeps (now : Time) (bridge : Fin 4) (result : BridgeResult) (s : State) :
    StepKeeps s (execBridgeTransferDone now bridge result s) := by
  refine State.onI3c_keeps fun e kept => ?_
  repeat' first
    | with_reducible assumption
    | (extract_lets +onlyGivenNames e
       first | refine Keeps.cut (e := e) ?_ (fun _ => ?_) <;> [subst e; clear_value e] | skip)
    | with_reducible (
        first | apply Device.setBridge_keeps | apply Keeps.ite)
    | split

end Sys2Proof.Machine
end

