-- ==== Sys2Proof/Laws/KeepsPorts.lean ====
section
/-!
SUPPORT. What the operations of `Machine/Ports` keep: the invariants of `Safety`, a held safe state and the fuses.
-/

set_option linter.all false

namespace Sys2Proof.Machine

theorem Device.setIn_keeps {dev₀ d : Device} (kept : Keeps dev₀ d) (p : Nat) (c : PortCounts) :
    Keeps dev₀ (Device.setIn d p c) := by
  unfold Device.setIn
  iterate 30 try any_goals first
    | with_reducible first | assumption | rfl
    | (extract_lets +onlyGivenNames e
       first | refine Keeps.cut (e := e) ?_ (fun _ => ?_) <;> [subst e; clear_value e]
             | (have : Option _ := e; clear this; clear_value e) | skip)
    | with_reducible (
        first | apply Keeps.ite)
    | split
    | with_reducible (
        first | apply Keeps.foldl | apply Keeps.foldl_fst | apply Keeps.of_fst ‹_› | apply Keeps.put | apply Keeps.putLect)
    | intro _ _ _ | intro _ _
    | simp +zetaDelta only [setAt, List.length_set, List.length_map, List.length_zipIdx, Window.setIbi_events]; done

theorem Device.header_keeps {dev₀ d : Device} (kept : Keeps dev₀ d) (port : Fin 12) (ecc : Ecc) :
    Keeps dev₀ (Device.header d port ecc).1 := by
  unfold Device.header
  repeat' first
    | assumption | split
    | with_reducible (
        first | apply Device.setIn_keeps)

theorem Device.countUnbound_keeps {dev₀ d : Device} (kept : Keeps dev₀ d) (port : Fin 12) :
    Keeps dev₀ (Device.countUnbound d port) := by
  unfold Device.countUnbound
  repeat' first
    | assumption | split
    | with_reducible (
        first | apply Device.setIn_keeps)

theorem Device.countHeaderError_keeps {dev₀ d : Device} (kept : Keeps dev₀ d) (port : Fin 12) :
    Keeps dev₀ (Device.countHeaderError d port) := by
  unfold Device.countHeaderError
  repeat' first
    | assumption | split
    | with_reducible (
        first | apply Device.setIn_keeps)

theorem Device.arrive_keeps {dev₀ d : Device} (kept : Keeps dev₀ d) (p : Pkt) : Keeps dev₀ (Device.arrive d p).1 := by
  unfold Device.arrive
  iterate 30 try any_goals first
    | with_reducible first | assumption | rfl
    | (extract_lets +onlyGivenNames e
       first | refine Keeps.cut (e := e) ?_ (fun _ => ?_) <;> [subst e; clear_value e]
             | (have : Option _ := e; clear this; clear_value e) | skip)
    | with_reducible (
        first | apply Device.portAt_keeps | apply Device.setIn_keeps | apply Device.header_keeps
              | apply Device.countUnbound_keeps | apply Device.countHeaderError_keeps | apply Keeps.ite)
    | split
    | with_reducible (
        first | apply Keeps.foldl | apply Keeps.foldl_fst | apply Keeps.of_fst ‹_› | apply Keeps.put | apply Keeps.putLect)
    | intro _ _ _ | intro _ _
    | simp +zetaDelta only [setAt, List.length_set, List.length_map, List.length_zipIdx, Window.setIbi_events]; done

theorem Device.settlePorts_keeps {dev₀ d : Device} (kept : Keeps dev₀ d) : Keeps dev₀ (Device.settlePorts d) := by
  unfold Device.settlePorts
  iterate 30 try any_goals first
    | with_reducible first | assumption | rfl
    | (extract_lets +onlyGivenNames e
       first | refine Keeps.cut (e := e) ?_ (fun _ => ?_) <;> [subst e; clear_value e]
             | (have : Option _ := e; clear this; clear_value e) | skip)
    | with_reducible (
        first | apply Device.win_keeps | apply Device.setOut_keeps | apply Keeps.ite)
    | split
    | with_reducible (
        first | apply Keeps.foldl | apply Keeps.foldl_fst | apply Keeps.of_fst ‹_› | apply Keeps.put | apply Keeps.putLect)
    | intro _ _ _ | intro _ _
    | simp +zetaDelta only [setAt, List.length_set, List.length_map, List.length_zipIdx, Window.setIbi_events]; done

theorem execLineShortPacket_keeps (now : Time) (p : ShortPkt) (s : State) :
    StepKeeps s (execLineShortPacket now p s) := by
  refine State.onUp_keeps fun e kept => ?_
  repeat' first
    | assumption | split
    | with_reducible (
        first | apply Device.portAt_keeps | apply Device.header_keeps)

theorem execGenericShortPacket_keeps (now : Time) (p : ShortPkt) (s : State) :
    StepKeeps s (execGenericShortPacket now p s) := by
  refine State.onUp_keeps fun e kept => ?_
  iterate 30 try any_goals first
    | with_reducible first | assumption | rfl
    | (extract_lets +onlyGivenNames e
       first | refine Keeps.cut (e := e) ?_ (fun _ => ?_) <;> [subst e; clear_value e]
             | (have : Option _ := e; clear this; clear_value e) | skip)
    | with_reducible (
        first | apply Device.portAt_keeps | apply Device.setIn_keeps | apply Device.header_keeps | apply Keeps.ite)
    | split
    | with_reducible (
        first | apply Keeps.foldl | apply Keeps.foldl_fst | apply Keeps.of_fst ‹_› | apply Keeps.put | apply Keeps.putLect)
    | intro _ _ _ | intro _ _
    | simp +zetaDelta only [setAt, List.length_set, List.length_map, List.length_zipIdx, Window.setIbi_events]; done

theorem execInputSkewCalibration_keeps (now : Time) (port : Fin 12) (lanes : BitVec 3) (deskewed : Bool) (s : State) :
    StepKeeps s (execInputSkewCalibration now port lanes deskewed s) := by
  refine State.onUp_keeps fun e kept => ?_
  repeat' first
    | assumption | split
    | with_reducible (
        first | apply Device.setIn_keeps)

theorem execOutputSkewCalibration_keeps (now : Time) (port : Fin 4) (s : State) :
    StepKeeps s (execOutputSkewCalibration now port s) := by
  refine State.onUp_keeps fun e kept => ?_
  repeat' first
    | with_reducible assumption
    | (extract_lets +onlyGivenNames e
       first | refine Keeps.cut (e := e) ?_ (fun _ => ?_) <;> [subst e; clear_value e] | skip)
    | with_reducible (
        first | apply Device.win_keeps | apply Device.setOut_keeps | apply Keeps.ite)
    | split

theorem execOutputPortFree_keeps (now : Time) (port : Fin 4) (portTime : Time) (s : State) :
    StepKeeps s (execOutputPortFree now port portTime s) := by
  refine State.onUp_keeps fun e kept => ?_
  repeat' first
    | with_reducible assumption
    | (extract_lets +onlyGivenNames e
       first | refine Keeps.cut (e := e) ?_ (fun _ => ?_) <;> [subst e; clear_value e] | skip)
    | with_reducible (
        first | apply Device.portAt_keeps | apply Device.setOut_keeps | apply Device.settlePorts_keeps
              | apply Keeps.ite)
    | split

end Sys2Proof.Machine
end

