-- ==== Sys2Proof/Laws/KeepsControl.lean ====
section
/-!
SUPPORT. What the operations of `Machine/Control` keep: the invariants of `Safety`, a held safe state and the fuses.
-/

set_option linter.all false

namespace Sys2Proof.Machine

theorem Device.setSlot_keeps {dev₀ d : Device} (kept : Keeps dev₀ d) (s : Nat) (x : CeSlot) :
    Keeps dev₀ (Device.setSlot d s x) :=
  kept.put rfl rfl rfl rfl rfl rfl rfl rfl rfl rfl

theorem Device.slotCount_keeps {dev₀ d : Device} (kept : Keeps dev₀ d) (s : Nat) (f : CeCounts → CeCounts) :
    Keeps dev₀ (Device.slotCount d s f) :=
  kept.put rfl rfl rfl rfl rfl rfl rfl rfl rfl rfl

theorem Device.startSlot_keeps {dev₀ d : Device} (kept : Keeps dev₀ d) (c : Image) :
    Keeps dev₀ (Device.startSlot d c) := by
  unfold Device.startSlot
  iterate 30 try any_goals first
    | with_reducible first | assumption | rfl
    | (extract_lets +onlyGivenNames e
       first | refine Keeps.cut (e := e) ?_ (fun _ => ?_) <;> [subst e; clear_value e]
             | (have : Option _ := e; clear this; clear_value e) | skip)
    | with_reducible (
        first | apply Device.clearCause_keeps | apply Device.setSlot_keeps | apply Keeps.ite)
    | split
    | with_reducible (
        first | apply Keeps.foldl | apply Keeps.foldl_fst | apply Keeps.of_fst ‹_› | apply Keeps.put | apply Keeps.putLect)
    | intro _ _ _ | intro _ _
    | simp +zetaDelta only [setAt, List.length_set, List.length_map, List.length_zipIdx, Window.setIbi_events]; done

theorem Device.stopSlot_keeps {dev₀ d : Device} (kept : Keeps dev₀ d) (s : Nat) :
    Keeps dev₀ (Device.stopSlot d s) := by
  unfold Device.stopSlot
  repeat' first
    | with_reducible assumption
    | (extract_lets +onlyGivenNames e
       first | refine Keeps.cut (e := e) ?_ (fun _ => ?_) <;> [subst e; clear_value e] | skip)
    | with_reducible (
        first | apply Device.setSlot_keeps | apply Keeps.ite)
    | split

theorem Device.ackSlot_keeps {dev₀ d : Device} (kept : Keeps dev₀ d) (s : Nat) : Keeps dev₀ (Device.ackSlot d s) := by
  unfold Device.ackSlot
  iterate 30 try any_goals first
    | with_reducible first | assumption | rfl
    | (extract_lets +onlyGivenNames e
       first | refine Keeps.cut (e := e) ?_ (fun _ => ?_) <;> [subst e; clear_value e]
             | (have : Option _ := e; clear this; clear_value e) | skip)
    | with_reducible (
        first | apply Keeps.ite)
    | split
    | with_reducible (
        first | apply Keeps.foldl | apply Keeps.foldl_fst | apply Keeps.of_fst ‹_› | apply Keeps.put | apply Keeps.putLect)
    | intro _ _ _ | intro _ _
    | simp +zetaDelta only [setAt, List.length_set, List.length_map, List.length_zipIdx, Window.setIbi_events]; done

theorem Device.finishModes_keeps {dev₀ d : Device} (kept : Keeps dev₀ d) : Keeps dev₀ (Device.finishModes d) := by
  unfold Device.finishModes
  iterate 30 try any_goals first
    | with_reducible first | assumption | rfl
    | (extract_lets +onlyGivenNames e
       first | refine Keeps.cut (e := e) ?_ (fun _ => ?_) <;> [subst e; clear_value e]
             | (have : Option _ := e; clear this; clear_value e) | skip)
    | with_reducible (
        first | apply Device.reply_keeps | apply Keeps.ite)
    | split
    | with_reducible (
        first | apply Keeps.foldl | apply Keeps.foldl_fst | apply Keeps.of_fst ‹_› | apply Keeps.put | apply Keeps.putLect)
    | intro _ _ _ | intro _ _
    | simp +zetaDelta only [setAt, List.length_set, List.length_map, List.length_zipIdx, Window.setIbi_events]; done

theorem Device.beginSlotPeriod_keeps {dev₀ d : Device} (kept : Keeps dev₀ d) (s : Nat) (c : Image) (t : Time) :
    Keeps dev₀ (Device.beginSlotPeriod d s c t) := by
  unfold Device.beginSlotPeriod
  repeat' first
    | with_reducible assumption
    | (extract_lets +onlyGivenNames e
       first | refine Keeps.cut (e := e) ?_ (fun _ => ?_) <;> [subst e; clear_value e] | skip)
    | with_reducible (
        first | apply Device.setSlot_keeps | apply Device.ackSlot_keeps | apply Device.finishModes_keeps
              | apply Keeps.ite)
    | split

theorem Device.edgeAccepted_keeps {dev₀ d : Device} (kept : Keeps dev₀ d) (g : Generator) (kind : BitVec 4) (src : BitVec 16) :
    Keeps dev₀ (Device.edgeAccepted d g kind src) := by
  unfold Device.edgeAccepted
  repeat' first
    | assumption | split
    | with_reducible (
        first | apply Device.notifyAgain_keeps)

theorem Device.slotEdge_keeps {dev₀ d : Device} (kept : Keeps dev₀ d) (s : Nat) (c : Image) :
    Keeps dev₀ (Device.slotEdge d s c) := by
  unfold Device.slotEdge
  repeat' first
    | with_reducible assumption
    | (extract_lets +onlyGivenNames e
       first | refine Keeps.cut (e := e) ?_ (fun _ => ?_) <;> [subst e; clear_value e] | skip)
    | with_reducible (
        first | apply Device.setSlot_keeps | apply Device.slotCount_keeps | apply Device.edgeAccepted_keeps
              | apply Keeps.ite)
    | split

theorem Device.slotWindow_keeps {dev₀ d : Device} (kept : Keeps dev₀ d) (s : Nat) (c : Image) :
    Keeps dev₀ (d.slotWindow s c) := by
  unfold Device.slotWindow
  extract_lets x
  split
  · exact kept
  · refine beginSlotPeriod_keeps ?_ ..
    split
    · exact notify_keeps (slotCount_keeps (setSlot_keeps kept ..) ..) ..
    · exact slotCount_keeps (setSlot_keeps kept ..) ..

theorem Device.feedInputs_keeps {dev₀ d : Device} (kept : Keeps dev₀ d) (sel : Image → Option Int) :
    Keeps dev₀ (Device.feedInputs d sel) := by
  unfold Device.feedInputs
  iterate 30 try any_goals first
    | with_reducible first | assumption | rfl
    | (extract_lets +onlyGivenNames e
       first | refine Keeps.cut (e := e) ?_ (fun _ => ?_) <;> [subst e; clear_value e]
             | (have : Option _ := e; clear this; clear_value e) | skip)
    | with_reducible (
        first | apply Device.setSlot_keeps | apply Keeps.ite)
    | split
    | with_reducible (
        first | apply Keeps.foldl | apply Keeps.foldl_fst | apply Keeps.of_fst ‹_› | apply Keeps.put | apply Keeps.putLect)
    | intro _ _ _ | intro _ _
    | simp +zetaDelta only [setAt, List.length_set, List.length_map, List.length_zipIdx, Window.setIbi_events]; done

theorem Device.feedRecord_keeps {dev₀ d : Device} (kept : Keeps dev₀ d) (tag channel : Nat) (vs : List Int) :
    Keeps dev₀ (Device.feedRecord d tag channel vs) := by
  unfold Device.feedRecord
  repeat' first
    | assumption | split
    | with_reducible (
        first | apply Device.feedInputs_keeps)

theorem Device.feedDropped_keeps {dev₀ d : Device} (kept : Keeps dev₀ d) (tag : Nat) :
    Keeps dev₀ (Device.feedDropped d tag) := by
  unfold Device.feedDropped
  iterate 30 try any_goals first
    | with_reducible first | assumption | rfl
    | (extract_lets +onlyGivenNames e
       first | refine Keeps.cut (e := e) ?_ (fun _ => ?_) <;> [subst e; clear_value e]
             | (have : Option _ := e; clear this; clear_value e) | skip)
    | with_reducible (
        first | apply Device.slotCount_keeps | apply Keeps.ite)
    | split
    | with_reducible (
        first | apply Keeps.foldl | apply Keeps.foldl_fst | apply Keeps.of_fst ‹_› | apply Keeps.put | apply Keeps.putLect)
    | intro _ _ _ | intro _ _
    | simp +zetaDelta only [setAt, List.length_set, List.length_map, List.length_zipIdx, Window.setIbi_events]; done

theorem Device.latchSlot_keeps {dev₀ d : Device} (kept : Keeps dev₀ d) (s : Nat) (c : Image) (u : Option Upset) :
    Keeps dev₀ (Device.latchSlot d s c u) := by
  unfold Device.latchSlot
  repeat' first
    | with_reducible assumption
    | (extract_lets +onlyGivenNames e
       first | refine Keeps.cut (e := e) ?_ (fun _ => ?_) <;> [subst e; clear_value e] | skip)
    | with_reducible (
        first | apply Device.notify_keeps | apply Device.notifyAgain_keeps | apply Device.setSlot_keeps
              | apply Device.slotCount_keeps | apply Keeps.ite)
    | split

theorem Device.compareSlot_keeps {dev₀ d : Device} (kept : Keeps dev₀ d) (s : Nat) :
    Keeps dev₀ (Device.compareSlot d s) := by
  unfold Device.compareSlot
  repeat' first
    | with_reducible assumption
    | (extract_lets +onlyGivenNames e
       first | refine Keeps.cut (e := e) ?_ (fun _ => ?_) <;> [subst e; clear_value e] | skip)
    | with_reducible (
        first | apply Device.notify_keeps | apply Device.setSlot_keeps | apply Device.slotCount_keeps
              | apply Keeps.ite)
    | split

theorem Device.writeSlot_keeps {dev₀ d : Device} (kept : Keeps dev₀ d) (s : Nat) (c : Image) (finding : ScrubFinding) :
    Keeps dev₀ (d.writeSlot s c finding) := by
  unfold Device.writeSlot
  extract_lets x storeError
  clear_value storeError
  split
  · exact kept
  · refine settlePorts_keeps (Keeps.ite (event_keeps (chipCount_keeps (Keeps.ite (chipCount_keeps ?_ ..) ?_) ..) ..)
      (Keeps.ite (chipCount_keeps ?_ ..) ?_))
    all_goals refine Keeps.ite (monitorStopped_keeps (Keeps.ite (token_keeps ?_ ..) ?_) ..) (Keeps.ite (token_keeps ?_ ..) ?_)
    all_goals exact feedInputs_keeps (setSlot_keeps (sendRecord_keeps kept _) ..) _

theorem execSlotPeriodStart_keeps (now : Time) (slot : Fin 256) (s : State) :
    StepKeeps s (execSlotPeriodStart now slot s) := by
  refine State.onUp_keeps fun e kept => ?_
  iterate 30 try any_goals first
    | with_reducible first | assumption | rfl
    | (extract_lets +onlyGivenNames e
       first | refine Keeps.cut (e := e) ?_ (fun _ => ?_) <;> [subst e; clear_value e]
             | (have : Option _ := e; clear this; clear_value e) | skip)
    | with_reducible (
        first | apply Device.beginSlotPeriod_keeps | apply Keeps.ite)
    | split
    | with_reducible (
        first | apply Keeps.foldl | apply Keeps.foldl_fst | apply Keeps.of_fst ‹_› | apply Keeps.put | apply Keeps.putLect)
    | intro _ _ _ | intro _ _
    | simp +zetaDelta only [setAt, List.length_set, List.length_map, List.length_zipIdx, Window.setIbi_events]; done

theorem execFeedbackPacket_keeps (now : Time) (p : Pkt) (s : State) : StepKeeps s (execFeedbackPacket now p s) := by
  refine State.onUp_keeps fun e kept => ?_
  iterate 30 try any_goals first
    | with_reducible first | assumption | rfl
    | (extract_lets +onlyGivenNames e
       first | refine Keeps.cut (e := e) ?_ (fun _ => ?_) <;> [subst e; clear_value e]
             | (have : Option _ := e; clear this; clear_value e) | skip)
    | with_reducible (
        first | apply Device.countUnbound_keeps | apply Device.arrive_keeps | apply Device.feedRecord_keeps
              | apply Device.feedDropped_keeps | apply Keeps.ite)
    | split
    | with_reducible (
        first | apply Keeps.foldl | apply Keeps.foldl_fst | apply Keeps.of_fst ‹_› | apply Keeps.put | apply Keeps.putLect)
    | intro _ _ _ | intro _ _
    | simp +zetaDelta only [setAt, List.length_set, List.length_map, List.length_zipIdx, Window.setIbi_events]; done

theorem execBodyLinkPacket_keeps (now : Time) (p : Pkt) (s : State) : StepKeeps s (execBodyLinkPacket now p s) := by
  refine State.onUp_keeps fun e kept => ?_
  iterate 30 try any_goals first
    | with_reducible first | assumption | rfl
    | (extract_lets +onlyGivenNames e
       first | refine Keeps.cut (e := e) ?_ (fun _ => ?_) <;> [subst e; clear_value e]
             | (have : Option _ := e; clear this; clear_value e) | skip)
    | with_reducible (
        first | apply Device.countUnbound_keeps | apply Device.arrive_keeps | apply Device.feedRecord_keeps
              | apply Device.feedDropped_keeps | apply Keeps.ite)
    | split
    | with_reducible (
        first | apply Keeps.foldl | apply Keeps.foldl_fst | apply Keeps.of_fst ‹_› | apply Keeps.put | apply Keeps.putLect)
    | intro _ _ _ | intro _ _
    | simp +zetaDelta only [setAt, List.length_set, List.length_map, List.length_zipIdx, Window.setIbi_events]; done

theorem execInputLatch_keeps (now : Time) (slot : Fin 256) (upset : Option Upset) (s : State) :
    StepKeeps s (execInputLatch now slot upset s) := by
  refine State.onUp_keeps fun e kept => ?_
  repeat' first
    | with_reducible assumption
    | (extract_lets +onlyGivenNames e
       first | refine Keeps.cut (e := e) ?_ (fun _ => ?_) <;> [subst e; clear_value e] | skip)
    | with_reducible (
        first | apply Device.latchSlot_keeps | apply Keeps.ite)
    | split

theorem execLoopCompare_keeps (now : Time) (slot : Fin 256) (s : State) :
    StepKeeps s (execLoopCompare now slot s) := by
  refine State.onUp_keeps fun e kept => ?_
  repeat' first
    | assumption | split
    | with_reducible (
        first | apply Device.compareSlot_keeps)

end Sys2Proof.Machine
end

