-- ==== Sys2Proof/Laws/KeepsPeriods.lean ====
section
/-!
SUPPORT. What the operations of `Machine/Periods` keep: the invariants of `Safety`, a held safe state and the fuses.
-/

set_option linter.all false

namespace Sys2Proof.Machine

theorem Device.setTest_keeps {dev₀ d : Device} (kept : Keeps dev₀ d) (t : UnitTest) :
    Keeps dev₀ (Device.setTest d t) :=
  kept.put rfl rfl rfl rfl rfl rfl rfl rfl rfl rfl

theorem Device.modPeriod_keeps {dev₀ d : Device} (kept : Keeps dev₀ d) (j : BitVec 16) (f : Period → Period) :
    Keeps dev₀ (Device.modPeriod d j f) := by
  unfold Device.modPeriod
  repeat' first
    | assumption | split
    | with_reducible (
        first | apply Device.setRun_keeps)

theorem Device.markDone_keeps {dev₀ d : Device} (kept : Keeps dev₀ d) (j : BitVec 16) (st : Status) :
    Keeps dev₀ (Device.markDone d j st) := by
  unfold Device.markDone
  repeat' first
    | assumption | split
    | with_reducible (
        first | apply Device.modPeriod_keeps)

theorem Device.engineSignal_keeps {dev₀ d : Device} (kept : Keeps dev₀ d) (j : BitVec 16) (h n : Nat) :
    Keeps dev₀ (Device.engineSignal d j h n) := by
  unfold Device.engineSignal
  repeat' first
    | assumption | split
    | with_reducible (
        first | apply Device.signalHook_keeps)

theorem Device.writeCompletion_keeps {dev₀ d : Device} (kept : Keeps dev₀ d) (r : JobRef) (p : Period) (st : Status) (t : Time) :
    Keeps dev₀ (Device.writeCompletion d r p st t) := by
  unfold Device.writeCompletion
  repeat' first
    | with_reducible assumption
    | (extract_lets +onlyGivenNames e
       first | refine Keeps.cut (e := e) ?_ (fun _ => ?_) <;> [subst e; clear_value e] | skip)
    | with_reducible (
        first | apply Device.writeLines_keeps | apply Keeps.ite)
    | split

end Sys2Proof.Machine
end

