-- ==== Sys2Proof/Laws/KeepsMemErr.lean ====
section
/-!
SUPPORT. What the operations of `Machine/MemErr` keep: the invariants of `Safety`, a held safe state and the fuses.
-/

set_option linter.all false

namespace Sys2Proof.Machine

theorem Device.checkErasure_keeps {dev₀ d : Device} (kept : Keeps dev₀ d) (k : Nat) :
    Keeps dev₀ (Device.checkErasure d k) := by
  unfold Device.checkErasure
  repeat' first
    | with_reducible assumption
    | (extract_lets +onlyGivenNames e
       first | refine Keeps.cut (e := e) ?_ (fun _ => ?_) <;> [subst e; clear_value e] | skip)
    | with_reducible (
        first | apply Device.setMemSet_keeps | apply Device.notify_keeps | apply Device.persist_keeps
              | apply Keeps.ite)
    | split

theorem Device.demandRead_keeps {dev₀ d : Device} (kept : Keeps dev₀ d) (x : Nat) (errs : List BeatError) :
    Keeps dev₀ (Device.demandRead d x errs).1 := by
  unfold Device.demandRead
  extract_lets k l b r
  clear_value r
  refine checkErasure_keeps (Keeps.ite (event_keeps ?_ ..) ?_) _
  all_goals refine Keeps.ite ((setMemSet_keeps kept ..).putMain fun w => Memory.spoil_wf _ w) (setMemSet_keeps kept ..)

theorem Device.hubRead_keeps {dev₀ d : Device} (kept : Keeps dev₀ d) (p a n : Nat) :
    Keeps dev₀ (Device.hubRead d p a n).1 := by
  unfold Device.hubRead
  iterate 30 try any_goals first
    | with_reducible first | assumption | rfl
    | (extract_lets +onlyGivenNames e
       first | refine Keeps.cut (e := e) ?_ (fun _ => ?_) <;> [subst e; clear_value e]
             | (have : Option _ := e; clear this; clear_value e) | skip)
    | with_reducible (
        first | apply Device.cacheTouch_keeps | apply Device.demandRead_keeps | apply Keeps.ite)
    | split
    | with_reducible (
        first | apply Keeps.foldl | apply Keeps.foldl_fst | apply Keeps.of_fst ‹_› | apply Keeps.put | apply Keeps.putLect)
    | intro _ _ _ | intro _ _
    | simp +zetaDelta only [setAt, List.length_set, List.length_map, List.length_zipIdx, Window.setIbi_events]; done

theorem Device.hardFault_keeps {dev₀ d : Device} (kept : Keeps dev₀ d) (k : Nat) (line : BitVec 27) :
    Keeps dev₀ (Device.hardFault d k line) := by
  unfold Device.hardFault
  repeat' first
    | with_reducible assumption
    | (extract_lets +onlyGivenNames e
       first | refine Keeps.cut (e := e) ?_ (fun _ => ?_) <;> [subst e; clear_value e] | skip)
    | with_reducible (
        first | apply Device.setMemSet_keeps | apply Device.event_keeps | apply Device.persist_keeps
              | apply Keeps.ite)
    | split

theorem Device.scrubLine_keeps {dev₀ d : Device} (kept : Keeps dev₀ d) (k : Nat) (line : BitVec 27) (found reread : List BeatError) :
    Keeps dev₀ (Device.scrubLine d k line found reread) := by
  unfold Device.scrubLine
  extract_lets b r e f
  have ke : Keeps dev₀ e := checkErasure_keeps (setMemSet_keeps kept ..) _
  exact Keeps.ite (hardFault_keeps ke ..) ke

theorem Device.memReport_keeps {dev₀ d : Device} (kept : Keeps dev₀ d) (n : Fin 64) :
    Keeps dev₀ (Device.memReport d n) := by
  unfold Device.memReport
  iterate 30 try any_goals first
    | with_reducible first | assumption | rfl
    | (extract_lets +onlyGivenNames e
       first | refine Keeps.cut (e := e) ?_ (fun _ => ?_) <;> [subst e; clear_value e]
             | (have : Option _ := e; clear this; clear_value e) | skip)
    | with_reducible (
        first | apply Device.setMemSet_keeps | apply Device.reply_keeps | apply Device.fail_keeps | apply Keeps.ite)
    | split
    | with_reducible (
        first | apply Keeps.foldl | apply Keeps.foldl_fst | apply Keeps.of_fst ‹_› | apply Keeps.put | apply Keeps.putLect)
    | intro _ _ _ | intro _ _
    | simp +zetaDelta only [setAt, List.length_set, List.length_map, List.length_zipIdx, Window.setIbi_events]; done

theorem execPatrolScrub_keeps (now : Time) (set : Fin 4) (found reread : List BeatError) (s : State) :
    StepKeeps s (execPatrolScrub now set found reread s) := by
  refine State.onUp_keeps fun e kept => ?_
  repeat' first
    | with_reducible assumption
    | (extract_lets +onlyGivenNames e
       first | refine Keeps.cut (e := e) ?_ (fun _ => ?_) <;> [subst e; clear_value e] | skip)
    | with_reducible (
        first | apply Device.setMemSet_keeps | apply Device.scrubLine_keeps | apply Keeps.ite)
    | split

theorem execDemandScrub_keeps (now : Time) (set : Fin 4) (found reread : List BeatError) (s : State) :
    StepKeeps s (execDemandScrub now set found reread s) := by
  refine State.onUp_keeps fun e kept => ?_
  repeat' first
    | with_reducible assumption
    | (extract_lets +onlyGivenNames e
       first | refine Keeps.cut (e := e) ?_ (fun _ => ?_) <;> [subst e; clear_value e] | skip)
    | with_reducible (
        first | apply Device.setMemSet_keeps | apply Device.scrubLine_keeps | apply Keeps.ite)
    | split

theorem execMemReport_keeps (now : Time) (drawer : Fin 64) (s : State) :
    StepKeeps s (execMemReport now drawer s) := by
  refine State.drawerCommand_keeps fun e kept => ?_
  repeat' first
    | assumption | split
    | with_reducible (
        first | apply Device.memReport_keeps)

end Sys2Proof.Machine
end

