-- ==== Sys2Proof/Laws/KeepsFinisher.lean ====
section
/-!
SUPPORT. What the operations of `Machine/Finisher` keep: the invariants of `Safety`, a held safe state and the fuses.
-/

set_option linter.all false

namespace Sys2Proof.Machine

theorem Device.commitRegions_keeps {dev₀ d : Device} (kept : Keeps dev₀ d) (tag : Nat) (rs : List Region) :
    Keeps dev₀ (Device.commitRegions d tag rs) := by
  unfold Device.commitRegions
  iterate 30 try any_goals first
    | with_reducible first | assumption | rfl
    | (extract_lets +onlyGivenNames e
       first | refine Keeps.cut (e := e) ?_ (fun _ => ?_) <;> [subst e; clear_value e]
             | (have : Option _ := e; clear this; clear_value e) | skip)
    | with_reducible (
        first | apply Device.hold_keeps | apply Keeps.ite)
    | split
    | with_reducible (
        first | apply Keeps.foldl | apply Keeps.foldl_fst | apply Keeps.of_fst ‹_› | apply Keeps.put | apply Keeps.putLect)
    | intro _ _ _ | intro _ _
    | simp +zetaDelta only [setAt, List.length_set, List.length_map, List.length_zipIdx, Window.setIbi_events]; done

theorem Device.setFin_keeps {dev₀ d : Device} (kept : Keeps dev₀ d) (j : BitVec 16) (x : FinisherJob) :
    Keeps dev₀ (Device.setFin d j x) :=
  kept.put rfl rfl rfl rfl rfl rfl rfl rfl rfl rfl

theorem Device.finCommit_keeps {dev₀ d : Device} (kept : Keeps dev₀ d) (f : Image) (x : FinList) :
    Keeps dev₀ (Device.finCommit d f x) := by
  unfold Device.finCommit
  iterate 30 try any_goals first
    | with_reducible first | assumption | rfl
    | (extract_lets +onlyGivenNames e
       first | refine Keeps.cut (e := e) ?_ (fun _ => ?_) <;> [subst e; clear_value e]
             | (have : Option _ := e; clear this; clear_value e) | skip)
    | with_reducible (
        first | apply Device.commitRegions_keeps | apply Keeps.ite)
    | split
    | with_reducible (
        first | apply Keeps.foldl | apply Keeps.foldl_fst | apply Keeps.of_fst ‹_› | apply Keeps.put | apply Keeps.putLect)
    | intro _ _ _ | intro _ _
    | simp +zetaDelta only [setAt, List.length_set, List.length_map, List.length_zipIdx, Window.setIbi_events]; done

theorem Device.runFrame_keeps {dev₀ d : Device} (kept : Keeps dev₀ d) (r : JobRef) (f : Image) :
    Keeps dev₀ (Device.runFrame d r f) := by
  unfold Device.runFrame
  iterate 30 try any_goals first
    | with_reducible first | assumption | rfl
    | (extract_lets +onlyGivenNames e
       first | refine Keeps.cut (e := e) ?_ (fun _ => ?_) <;> [subst e; clear_value e]
             | (have : Option _ := e; clear this; clear_value e) | skip)
    | with_reducible (
        first | apply Device.writeLines_keeps | apply Device.cancelPeriod_keeps | apply Device.withholdStop_keeps
              | apply Device.markDone_keeps | apply Device.engineSignal_keeps | apply Device.hubRead_keeps
              | apply Device.setFin_keeps | apply Device.finCommit_keeps | apply Keeps.ite)
    | split
    | with_reducible (
        first | apply Keeps.foldl | apply Keeps.foldl_fst | apply Keeps.of_fst ‹_› | apply Keeps.put | apply Keeps.putLect)
    | intro _ _ _ | intro _ _
    | simp +zetaDelta only [setAt, List.length_set, List.length_map, List.length_zipIdx, Window.setIbi_events]; done

theorem execFinisherFrame_keeps (now : Time) (job : BitVec 16) (s : State) :
    StepKeeps s (execFinisherFrame now job s) := by
  refine State.onUp_keeps fun e kept => ?_
  iterate 30 try any_goals first
    | with_reducible first | assumption | rfl
    | (extract_lets +onlyGivenNames e
       first | refine Keeps.cut (e := e) ?_ (fun _ => ?_) <;> [subst e; clear_value e]
             | (have : Option _ := e; clear this; clear_value e) | skip)
    | with_reducible (
        first | apply Device.withholdStop_keeps | apply Device.takeHook_keeps | apply Device.setFin_keeps
              | apply Device.runFrame_keeps | apply Keeps.ite)
    | split
    | with_reducible (
        first | apply Keeps.foldl | apply Keeps.foldl_fst | apply Keeps.of_fst ‹_› | apply Keeps.put | apply Keeps.putLect)
    | intro _ _ _ | intro _ _
    | simp +zetaDelta only [setAt, List.length_set, List.length_map, List.length_zipIdx, Window.setIbi_events]; done

end Sys2Proof.Machine
end

