-- ==== Sys2Proof/Laws/KeepsShelf.lean ====
section
/-!
SUPPORT. What the operations of `Machine/Shelf` keep: the invariants of `Safety`, a held safe state and the fuses.
-/

set_option linter.all false

namespace Sys2Proof.Machine

theorem Device.shelf_keeps {dev₀ d : Device} (kept : Keeps dev₀ d) (f : ShelfState → ShelfState) :
    Keeps dev₀ (Device.shelf d f) :=
  kept.put rfl rfl rfl rfl rfl rfl rfl rfl rfl rfl

theorem Device.admitMap_keeps {dev₀ d : Device} (kept : Keeps dev₀ d) : Keeps dev₀ (Device.admitMap d) := by
  unfold Device.admitMap
  iterate 30 try any_goals first
    | with_reducible first | assumption | rfl
    | (extract_lets +onlyGivenNames e
       first | refine Keeps.cut (e := e) ?_ (fun _ => ?_) <;> [subst e; clear_value e]
             | (have : Option _ := e; clear this; clear_value e) | skip)
    | with_reducible (
        first | apply Device.takeHook_keeps | apply Device.shelf_keeps | apply Keeps.ite)
    | split
    | with_reducible (
        first | apply Keeps.foldl | apply Keeps.foldl_fst | apply Keeps.of_fst ‹_› | apply Keeps.put | apply Keeps.putLect)
    | intro _ _ _ | intro _ _
    | simp +zetaDelta only [setAt, List.length_set, List.length_map, List.length_zipIdx, Window.setIbi_events]; done

theorem Device.admitMaps_keeps {dev₀ d : Device} (kept : Keeps dev₀ d) : Keeps dev₀ (Device.admitMaps d) := by
  unfold Device.admitMaps
  iterate 30 try any_goals first
    | with_reducible first | assumption | rfl
    | (extract_lets +onlyGivenNames e
       first | refine Keeps.cut (e := e) ?_ (fun _ => ?_) <;> [subst e; clear_value e]
             | (have : Option _ := e; clear this; clear_value e) | skip)
    | with_reducible (
        first | apply Device.admitMap_keeps | apply Keeps.ite)
    | split
    | with_reducible (
        first | apply Keeps.foldl | apply Keeps.foldl_fst | apply Keeps.of_fst ‹_› | apply Keeps.put | apply Keeps.putLect)
    | intro _ _ _ | intro _ _
    | simp +zetaDelta only [setAt, List.length_set, List.length_map, List.length_zipIdx, Window.setIbi_events]; done

theorem Device.queueMap_keeps {dev₀ d : Device} (kept : Keeps dev₀ d) (n : Fin 64) (bs : Bytes) :
    Keeps dev₀ (Device.queueMap d n bs) := by
  unfold Device.queueMap
  repeat' first
    | with_reducible assumption
    | (extract_lets +onlyGivenNames e
       first | refine Keeps.cut (e := e) ?_ (fun _ => ?_) <;> [subst e; clear_value e] | skip)
    | with_reducible (
        first | apply Device.fail_keeps | apply Device.shelf_keeps | apply Device.admitMaps_keeps | apply Keeps.ite)
    | split

theorem Device.answerMap_keeps {dev₀ d : Device} (kept : Keeps dev₀ d) (b : Batch32) (st : Status) (v : BitVec 32) :
    Keeps dev₀ (Device.answerMap d b st v) := by
  unfold Device.answerMap
  repeat' first
    | assumption | split
    | with_reducible (
        first | apply Device.writeViewBytes_keeps | apply Device.signalHook_keeps | apply Device.reply_keeps
              | apply Device.shelf_keeps)

theorem Device.mapBytes_keeps {dev₀ d : Device} (kept : Keeps dev₀ d) (desc : Image) (b : Batch32) :
    Keeps dev₀ (Device.mapBytes d desc b).1 := by
  unfold Device.mapBytes
  repeat' first
    | assumption | split
    | with_reducible (
        first | apply Device.hubRead_keeps | apply Device.shelf_keeps)

theorem Device.shelfBatch_keeps {dev₀ d : Device} (kept : Keeps dev₀ d) : Keeps dev₀ (Device.shelfBatch d) := by
  unfold Device.shelfBatch
  repeat' first
    | assumption | split
    | with_reducible (
        first | apply Device.shelf_keeps | apply Device.admitMaps_keeps | apply Device.answerMap_keeps
              | apply Device.mapBytes_keeps)

theorem Device.installShelf_keeps {dev₀ d : Device} (kept : Keeps dev₀ d) (desc : Option Image) (part : Nat) :
    Keeps dev₀ (Device.installShelf d desc part) := by
  unfold Device.installShelf
  iterate 30 try any_goals first
    | with_reducible first | assumption | rfl
    | (extract_lets +onlyGivenNames e
       first | refine Keeps.cut (e := e) ?_ (fun _ => ?_) <;> [subst e; clear_value e]
             | (have : Option _ := e; clear this; clear_value e) | skip)
    | with_reducible (
        first | apply Device.forgetWaits_keeps | apply Device.shelf_keeps | apply Device.answerMap_keeps
              | apply Keeps.ite)
    | split
    | with_reducible (
        first | apply Keeps.foldl | apply Keeps.foldl_fst | apply Keeps.of_fst ‹_› | apply Keeps.put | apply Keeps.putLect)
    | intro _ _ _ | intro _ _
    | simp +zetaDelta only [setAt, List.length_set, List.length_map, List.length_zipIdx, Window.setIbi_events]; done

theorem Device.pin_keeps {dev₀ d : Device} (kept : Keeps dev₀ d) (inst : Fin 2) : Keeps dev₀ (Device.pin d inst) :=
  kept.put rfl rfl rfl rfl rfl rfl rfl rfl rfl rfl

theorem Device.unpin_keeps {dev₀ d : Device} (kept : Keeps dev₀ d) (inst : Fin 2) :
    Keeps dev₀ (Device.unpin d inst) :=
  kept.put rfl rfl rfl rfl rfl rfl rfl rfl rfl rfl

theorem execMapUpdate_keeps (now : Time) (drawer : Fin 64) (s : State) :
    StepKeeps s (execMapUpdate now drawer s) := by
  refine State.drawerCommand_keeps fun e kept => ?_
  repeat' first
    | assumption | split
    | with_reducible (
        first | apply Device.fail_keeps | apply Device.armBulk_keeps | apply Device.shelf_keeps)

theorem execShelfUpdateSignal_keeps (now : Time) (s : State) : StepKeeps s (execShelfUpdateSignal now s) := by
  refine State.onUp_keeps fun e kept => ?_
  repeat' first
    | assumption | split
    | with_reducible (
        first | apply Device.admitMaps_keeps)

theorem execShelfBatch_keeps (now : Time) (s : State) : StepKeeps s (execShelfBatch now s) := by
  refine State.onUp_keeps fun e kept => ?_
  repeat' first
    | assumption | split
    | with_reducible (
        first | apply Device.shelfBatch_keeps)

end Sys2Proof.Machine
end

