-- ==== Sys2Proof/Laws/KeepsSeq.lean ====
section
/-!
SUPPORT. What the operations of `Machine/Seq` keep: the invariants of `Safety`, a held safe state and the fuses.
-/

set_option linter.all false

namespace Sys2Proof.Machine

theorem Keeps.foldl_option {α : Type} {a : Device} {f : Option Device → α → Option Device} (l : List α)
    (h : ∀ o x, (∀ e ∈ o, Keeps a e) → ∀ e ∈ f o x, Keeps a e) :
    ∀ {o}, (∀ e ∈ o, Keeps a e) → ∀ e ∈ l.foldl f o, Keeps a e := by
  induction l with
  | nil => exact id
  | cons x l ih => exact fun k => ih (h _ x k)

theorem Device.seqState_keeps {dev₀ d : Device} (kept : Keeps dev₀ d) (f : SeqState → SeqState) :
    Keeps dev₀ (Device.seqState d f) :=
  kept.put rfl rfl rfl rfl rfl rfl rfl rfl rfl rfl

theorem Device.allocPage_keeps {dev₀ d : Device} (kept : Keeps dev₀ d) (r : JobRef) (pool : Image) (entry layer : Nat) :
    ∀ e ∈ d.allocPage r pool entry layer, Keeps dev₀ e := by
  unfold Device.allocPage
  split
  · rintro e ⟨⟩
  · rintro e ⟨⟩
    exact seqState_keeps (writeLines_keeps kept ..) _

theorem Device.ensurePages_keeps {dev₀ d : Device} (kept : Keeps dev₀ d) (r : JobRef) (pool : Image) (x : KvStream)
    (tokens : Nat) : ∀ e ∈ d.ensurePages r pool x tokens, Keeps dev₀ e := by
  unfold Device.ensurePages
  extract_lets n
  split
  · rintro e ⟨⟩
  · refine Keeps.foldl_option _ (fun o l ho => Keeps.foldl_option _ (fun q p hq => ?_) ho) ?_
    · split
      · exact hq
      · have k := hq _ rfl
        dsimp only
        split
        · rintro e ⟨⟩
          exact k
        · exact allocPage_keeps k _ _ _ _
    · rintro e ⟨⟩
      exact kept

theorem Device.dropPages_keeps {dev₀ d : Device} (kept : Keeps dev₀ d) (x : KvStream) :
    Keeps dev₀ (Device.dropPages d x) :=
  kept.put rfl rfl rfl rfl rfl rfl rfl rfl rfl rfl

theorem Device.closeStream_keeps {dev₀ d : Device} (kept : Keeps dev₀ d) (k : Nat) :
    Keeps dev₀ (Device.closeStream d k) := by
  unfold Device.closeStream
  repeat' first
    | assumption | split
    | with_reducible (
        first | apply Device.seqState_keeps | apply Device.dropPages_keeps)

theorem Device.closePartStreams_keeps {dev₀ d : Device} (kept : Keeps dev₀ d) (p : Nat) :
    Keeps dev₀ (Device.closePartStreams d p) := by
  unfold Device.closePartStreams
  iterate 30 try any_goals first
    | with_reducible first | assumption | rfl
    | (extract_lets +onlyGivenNames e
       first | refine Keeps.cut (e := e) ?_ (fun _ => ?_) <;> [subst e; clear_value e]
             | (have : Option _ := e; clear this; clear_value e) | skip)
    | with_reducible (
        first | apply Device.closeStream_keeps | apply Keeps.ite)
    | split
    | with_reducible (
        first | apply Keeps.foldl | apply Keeps.foldl_fst | apply Keeps.of_fst ‹_› | apply Keeps.put | apply Keeps.putLect)
    | intro _ _ _ | intro _ _
    | simp +zetaDelta only [setAt, List.length_set, List.length_map, List.length_zipIdx, Window.setIbi_events]; done

theorem Device.kvOpen_keeps {dev₀ d : Device} (kept : Keeps dev₀ d) (n : Fin 64) :
    Keeps dev₀ (Device.kvOpen d n) := by
  unfold Device.kvOpen
  repeat' first
    | with_reducible assumption
    | (extract_lets +onlyGivenNames e
       first | refine Keeps.cut (e := e) ?_ (fun _ => ?_) <;> [subst e; clear_value e] | skip)
    | with_reducible (
        first | apply Device.reply_keeps | apply Device.fail_keeps | apply Device.seqState_keeps | apply Keeps.ite)
    | split

theorem Device.kvClose_keeps {dev₀ d : Device} (kept : Keeps dev₀ d) (n : Fin 64) :
    Keeps dev₀ (Device.kvClose d n) := by
  unfold Device.kvClose
  repeat' first
    | with_reducible assumption
    | (extract_lets +onlyGivenNames e
       first | refine Keeps.cut (e := e) ?_ (fun _ => ?_) <;> [subst e; clear_value e] | skip)
    | with_reducible (
        first | apply Device.reply_keeps | apply Device.fail_keeps | apply Device.goOn_keeps
              | apply Device.closeStream_keeps | apply Keeps.ite)
    | split

theorem Device.settleCloses_keeps {dev₀ d : Device} (kept : Keeps dev₀ d) : Keeps dev₀ (Device.settleCloses d) := by
  unfold Device.settleCloses
  iterate 30 try any_goals first
    | with_reducible first | assumption | rfl
    | (extract_lets +onlyGivenNames e
       first | refine Keeps.cut (e := e) ?_ (fun _ => ?_) <;> [subst e; clear_value e]
             | (have : Option _ := e; clear this; clear_value e) | skip)
    | with_reducible (
        first | apply Device.reply_keeps | apply Device.closeStream_keeps | apply Keeps.ite)
    | split
    | with_reducible (
        first | apply Keeps.foldl | apply Keeps.foldl_fst | apply Keeps.of_fst ‹_› | apply Keeps.put | apply Keeps.putLect)
    | intro _ _ _ | intro _ _
    | simp +zetaDelta only [setAt, List.length_set, List.length_map, List.length_zipIdx, Window.setIbi_events]; done

theorem Device.kvRead_keeps {dev₀ d : Device} (kept : Keeps dev₀ d) (n : Fin 64) :
    Keeps dev₀ (Device.kvRead d n) := by
  unfold Device.kvRead
  repeat' first
    | assumption | split
    | with_reducible (
        first | apply Device.reply_keeps | apply Device.fail_keeps)

theorem Device.kvPageRead_keeps {dev₀ d : Device} (kept : Keeps dev₀ d) (n : Fin 64) :
    Keeps dev₀ (Device.kvPageRead d n) := by
  unfold Device.kvPageRead
  repeat' first
    | with_reducible assumption
    | (extract_lets +onlyGivenNames e
       first | refine Keeps.cut (e := e) ?_ (fun _ => ?_) <;> [subst e; clear_value e] | skip)
    | with_reducible (
        first | apply Device.reply_keeps | apply Device.fail_keeps | apply Device.count_keeps | apply Keeps.ite)
    | split

theorem StepBuild.take_keeps {dev₀ : Device} (b : StepBuild) (kept : Keeps dev₀ b.dev) (r : JobRef) (pool e : Image) :
    Keeps dev₀ (b.take r pool e).dev := by
  unfold StepBuild.take
  extract_lets new
  split
  · exact kept
  · split
    · exact kept
    · extract_lets len
      split
      · exact kept
      · split
        · exact kept
        · split
          · exact kept
          · rename_i h
            exact Device.ensurePages_keeps kept _ _ _ _ _ h

theorem StepBuild.foldl_keeps {dev₀ : Device} {α : Type} {f : StepBuild → α → StepBuild}
    (h : ∀ c x, Keeps dev₀ c.dev → Keeps dev₀ (f c x).dev) (l : List α) :
    ∀ {c}, Keeps dev₀ c.dev → Keeps dev₀ (l.foldl f c).dev := by
  induction l with
  | nil => exact id
  | cons x l ih => exact fun k => ih (h _ x k)

theorem Device.buildStep_keeps {dev₀ d : Device} (kept : Keeps dev₀ d) (r : JobRef) (pool : Image) (seq : BitVec 32) :
    Keeps dev₀ (d.buildStep r pool seq) := by
  unfold Device.buildStep
  extract_lets a
  split
  rename_i e bad h
  have ke : Keeps dev₀ e := Keeps.of_fst h (hubRead_keeps kept ..)
  extract_lets bs hd whole b step
  refine seqState_keeps ?_ _
  clear_value whole
  refine StepBuild.foldl_keeps (fun c x k => ?_) _ ke
  split
  · exact k
  · exact StepBuild.take_keeps _ k ..

theorem Device.endStep_keeps {dev₀ d : Device} (kept : Keeps dev₀ d) (j : BitVec 16) (completed : Bool) :
    Keeps dev₀ (Device.endStep d j completed) := by
  unfold Device.endStep
  iterate 30 try any_goals first
    | with_reducible first | assumption | rfl
    | (extract_lets +onlyGivenNames e
       first | refine Keeps.cut (e := e) ?_ (fun _ => ?_) <;> [subst e; clear_value e]
             | (have : Option _ := e; clear this; clear_value e) | skip)
    | with_reducible (
        first | apply Device.seqState_keeps | apply Device.settleCloses_keeps | apply Keeps.ite)
    | split
    | with_reducible (
        first | apply Keeps.foldl | apply Keeps.foldl_fst | apply Keeps.of_fst ‹_› | apply Keeps.put | apply Keeps.putLect)
    | intro _ _ _ | intro _ _
    | simp +zetaDelta only [setAt, List.length_set, List.length_map, List.length_zipIdx, Window.setIbi_events]; done

theorem Device.setStSlot_keeps {dev₀ d : Device} (kept : Keeps dev₀ d) (k : Nat) (x : StateSlot) :
    Keeps dev₀ (Device.setStSlot d k x) :=
  kept.put rfl rfl rfl rfl rfl rfl rfl rfl rfl rfl

theorem Device.pumpSlot_keeps {dev₀ d : Device} (kept : Keeps dev₀ d) (k fuel : Nat) :
    Keeps dev₀ (d.pumpSlot k fuel) := by
  induction fuel generalizing d with
  | zero => exact kept
  | succ fuel ih =>
    unfold Device.pumpSlot
    extract_lets x
    repeat' split
    all_goals first | exact kept | exact setStSlot_keeps kept .. | exact ih (reply_keeps (setStSlot_keeps kept ..) ..)

theorem Device.runSlot_keeps {dev₀ d : Device} (kept : Keeps dev₀ d) (k : Nat) : Keeps dev₀ (Device.runSlot d k) := by
  unfold Device.runSlot
  repeat' first
    | assumption | split
    | with_reducible (
        first | apply Device.pumpSlot_keeps)

theorem Device.queueChunk_keeps {dev₀ d : Device} (kept : Keeps dev₀ d) (r : JobRef) (k : Nat) (seq : BitVec 32) :
    Keeps dev₀ (Device.queueChunk d r k seq) := by
  unfold Device.queueChunk
  repeat' first
    | assumption | split
    | with_reducible (
        first | apply Device.setStSlot_keeps | apply Device.runSlot_keeps)

theorem Device.queueChunks_keeps {dev₀ d : Device} (kept : Keeps dev₀ d) (r : JobRef) (seq : BitVec 32) :
    Keeps dev₀ (Device.queueChunks d r seq) := by
  unfold Device.queueChunks
  iterate 30 try any_goals first
    | with_reducible first | assumption | rfl
    | (extract_lets +onlyGivenNames e
       first | refine Keeps.cut (e := e) ?_ (fun _ => ?_) <;> [subst e; clear_value e]
             | (have : Option _ := e; clear this; clear_value e) | skip)
    | with_reducible (
        first | apply Device.setStSlot_keeps | apply Device.runSlot_keeps | apply Device.queueChunk_keeps
              | apply Keeps.ite)
    | split
    | with_reducible (
        first | apply Keeps.foldl | apply Keeps.foldl_fst | apply Keeps.of_fst ‹_› | apply Keeps.put | apply Keeps.putLect)
    | intro _ _ _ | intro _ _
    | simp +zetaDelta only [setAt, List.length_set, List.length_map, List.length_zipIdx, Window.setIbi_events]; done

theorem Device.syncChunks_keeps {dev₀ d : Device} (kept : Keeps dev₀ d) (r : JobRef) :
    Keeps dev₀ (Device.syncChunks d r) := by
  unfold Device.syncChunks
  iterate 30 try any_goals first
    | with_reducible first | assumption | rfl
    | (extract_lets +onlyGivenNames e
       first | refine Keeps.cut (e := e) ?_ (fun _ => ?_) <;> [subst e; clear_value e]
             | (have : Option _ := e; clear this; clear_value e) | skip)
    | with_reducible (
        first | apply Device.count_keeps | apply Device.setStSlot_keeps | apply Device.runSlot_keeps
              | apply Device.queueChunk_keeps | apply Keeps.ite)
    | split
    | with_reducible (
        first | apply Keeps.foldl | apply Keeps.foldl_fst | apply Keeps.of_fst ‹_› | apply Keeps.put | apply Keeps.putLect)
    | intro _ _ _ | intro _ _
    | simp +zetaDelta only [setAt, List.length_set, List.length_map, List.length_zipIdx, Window.setIbi_events]; done

theorem Device.endChunks_keeps {dev₀ d : Device} (kept : Keeps dev₀ d) (r : JobRef) (seq : BitVec 32) :
    Keeps dev₀ (Device.endChunks d r seq) := by
  unfold Device.endChunks
  iterate 30 try any_goals first
    | with_reducible first | assumption | rfl
    | (extract_lets +onlyGivenNames e
       first | refine Keeps.cut (e := e) ?_ (fun _ => ?_) <;> [subst e; clear_value e]
             | (have : Option _ := e; clear this; clear_value e) | skip)
    | with_reducible (
        first | apply Device.setStSlot_keeps | apply Device.runSlot_keeps | apply Keeps.ite)
    | split
    | with_reducible (
        first | apply Keeps.foldl | apply Keeps.foldl_fst | apply Keeps.of_fst ‹_› | apply Keeps.put | apply Keeps.putLect)
    | intro _ _ _ | intro _ _
    | simp +zetaDelta only [setAt, List.length_set, List.length_map, List.length_zipIdx, Window.setIbi_events]; done

theorem Device.slotSwapOut_keeps {dev₀ d : Device} (kept : Keeps dev₀ d) (n : Fin 64) :
    Keeps dev₀ (Device.slotSwapOut d n) := by
  unfold Device.slotSwapOut
  repeat' first
    | with_reducible assumption
    | (extract_lets +onlyGivenNames e
       first | refine Keeps.cut (e := e) ?_ (fun _ => ?_) <;> [subst e; clear_value e] | skip)
    | with_reducible (
        first | apply Device.reply_keeps | apply Device.fail_keeps | apply Device.goOn_keeps
              | apply Device.setStSlot_keeps | apply Device.runSlot_keeps | apply Device.syncChunks_keeps
              | apply Keeps.ite)
    | split

theorem Device.slotSwapIn_keeps {dev₀ d : Device} (kept : Keeps dev₀ d) (n : Fin 64) :
    Keeps dev₀ (Device.slotSwapIn d n) := by
  unfold Device.slotSwapIn
  repeat' first
    | with_reducible assumption
    | (extract_lets +onlyGivenNames e
       first | refine Keeps.cut (e := e) ?_ (fun _ => ?_) <;> [subst e; clear_value e] | skip)
    | with_reducible (
        first | apply Device.reply_keeps | apply Device.fail_keeps | apply Device.goOn_keeps
              | apply Device.setStSlot_keeps | apply Device.runSlot_keeps | apply Device.syncChunks_keeps
              | apply Keeps.ite)
    | split

theorem Device.dropUnits_keeps {dev₀ d : Device} (kept : Keeps dev₀ d) (r : JobRef) :
    Keeps dev₀ (Device.dropUnits d r) := by
  unfold Device.dropUnits
  iterate 30 try any_goals first
    | with_reducible first | assumption | rfl
    | (extract_lets +onlyGivenNames e
       first | refine Keeps.cut (e := e) ?_ (fun _ => ?_) <;> [subst e; clear_value e]
             | (have : Option _ := e; clear this; clear_value e) | skip)
    | with_reducible (
        first | apply Device.setHook_keeps | apply Device.count_keeps | apply Device.setStSlot_keeps
              | apply Keeps.ite)
    | split
    | with_reducible (
        first | apply Keeps.foldl | apply Keeps.foldl_fst | apply Keeps.of_fst ‹_› | apply Keeps.put | apply Keeps.putLect)
    | intro _ _ _ | intro _ _
    | simp +zetaDelta only [setAt, List.length_set, List.length_map, List.length_zipIdx, Window.setIbi_events]; done

theorem Device.slotWithdraw_keeps {dev₀ d : Device} (kept : Keeps dev₀ d) (n : Fin 64) :
    Keeps dev₀ (Device.slotWithdraw d n) := by
  unfold Device.slotWithdraw
  repeat' first
    | with_reducible assumption
    | (extract_lets +onlyGivenNames e
       first | refine Keeps.cut (e := e) ?_ (fun _ => ?_) <;> [subst e; clear_value e] | skip)
    | with_reducible (
        first | apply Device.reply_keeps | apply Device.fail_keeps | apply Device.setStSlot_keeps
              | apply Device.runSlot_keeps | apply Device.syncChunks_keeps | apply Device.dropUnits_keeps
              | apply Keeps.ite)
    | split

theorem Device.storeRead_keeps {dev₀ d : Device} (kept : Keeps dev₀ d) (t : Fin 4160) (se : StoreErrors) (spans : List (Nat × Nat)) :
    Keeps dev₀ (Device.storeRead d t se spans).1 :=
  kept.put rfl rfl rfl rfl rfl rfl rfl rfl rfl rfl

theorem Device.readSlices_keeps {dev₀ d : Device} (kept : Keeps dev₀ d) (errs : List TileRead)
    (z : List (Nat × Nat × Nat)) : Keeps dev₀ (d.readSlices errs z).1 := by
  induction z generalizing d with
  | nil => exact kept
  | cons s rest ih =>
    unfold Device.readSlices
    split
    · exact ih kept
    · rename_i t _
      have ks := storeRead_keeps kept t (((errs.find? fun e => e.tile == t).map (·.errors)).getD { corrected := 0, bad := [] })
        [(s.2.1, s.2.2)]
      exact ih ks

theorem Device.swapOutDone_keeps {dev₀ d : Device} (kept : Keeps dev₀ d) (k : Nat) (errs : List TileRead) :
    Keeps dev₀ (Device.swapOutDone d k errs) := by
  unfold Device.swapOutDone
  repeat' first
    | with_reducible assumption
    | (extract_lets +onlyGivenNames e
       first | refine Keeps.cut (e := e) ?_ (fun _ => ?_) <;> [subst e; clear_value e] | skip)
    | with_reducible (
        first | apply Device.writeLines_keeps | apply Device.reply_keeps | apply Device.setStSlot_keeps
              | apply Device.runSlot_keeps | apply Device.readSlices_keeps | apply Keeps.ite)
    | split

theorem Device.restoreSlices_keeps {dev₀ d : Device} (kept : Keeps dev₀ d) (bs : Bytes) (l : List (Nat × Nat × Nat)) :
    Keeps dev₀ (d.restoreSlices bs l) := by
  induction l generalizing d bs with
  | nil => exact kept
  | cons s l ih =>
    unfold Device.restoreSlices
    refine ih ?_ _
    split
    · exact setTile_keeps kept ..
    · exact kept

theorem Device.swapInDone_keeps {dev₀ d : Device} (kept : Keeps dev₀ d) (k : Nat) (ue : Bool) :
    Keeps dev₀ (Device.swapInDone d k ue) := by
  unfold Device.swapInDone
  iterate 30 try any_goals first
    | with_reducible first | assumption | rfl
    | (extract_lets +onlyGivenNames e
       first | refine Keeps.cut (e := e) ?_ (fun _ => ?_) <;> [subst e; clear_value e]
             | (have : Option _ := e; clear this; clear_value e) | skip)
    | with_reducible (
        first | apply Device.reply_keeps | apply Device.modPeriod_keeps | apply Device.hubRead_keeps
              | apply Device.setStSlot_keeps | apply Device.runSlot_keeps | apply Device.dropUnits_keeps
              | apply Device.restoreSlices_keeps | apply Keeps.ite)
    | split
    | with_reducible (
        first | apply Keeps.foldl | apply Keeps.foldl_fst | apply Keeps.of_fst ‹_› | apply Keeps.put | apply Keeps.putLect)
    | intro _ _ _ | intro _ _
    | simp +zetaDelta only [setAt, List.length_set, List.length_map, List.length_zipIdx, Window.setIbi_events]; done

theorem Device.publishAdapter_keeps {dev₀ d : Device} (kept : Keeps dev₀ d) (r : JobRef) :
    Keeps dev₀ (Device.publishAdapter d r) := by
  unfold Device.publishAdapter
  iterate 30 try any_goals first
    | with_reducible first | assumption | rfl
    | (extract_lets +onlyGivenNames e
       first | refine Keeps.cut (e := e) ?_ (fun _ => ?_) <;> [subst e; clear_value e]
             | (have : Option _ := e; clear this; clear_value e) | skip)
    | with_reducible (
        first | apply Device.seqState_keeps | apply Keeps.ite)
    | split
    | with_reducible (
        first | apply Keeps.foldl | apply Keeps.foldl_fst | apply Keeps.of_fst ‹_› | apply Keeps.put | apply Keeps.putLect)
    | intro _ _ _ | intro _ _
    | simp +zetaDelta only [setAt, List.length_set, List.length_map, List.length_zipIdx, Window.setIbi_events]; done

theorem execKvOpen_keeps (now : Time) (drawer : Fin 64) (s : State) : StepKeeps s (execKvOpen now drawer s) := by
  refine State.drawerCommand_keeps fun e kept => ?_
  repeat' first
    | assumption | split
    | with_reducible (
        first | apply Device.kvOpen_keeps)

theorem execKvClose_keeps (now : Time) (drawer : Fin 64) (s : State) : StepKeeps s (execKvClose now drawer s) := by
  refine State.drawerCommand_keeps fun e kept => ?_
  repeat' first
    | assumption | split
    | with_reducible (
        first | apply Device.kvClose_keeps)

theorem execKvRead_keeps (now : Time) (drawer : Fin 64) (s : State) : StepKeeps s (execKvRead now drawer s) := by
  refine State.drawerCommand_keeps fun e kept => ?_
  repeat' first
    | assumption | split
    | with_reducible (
        first | apply Device.kvRead_keeps)

theorem execKvPageRead_keeps (now : Time) (drawer : Fin 64) (s : State) :
    StepKeeps s (execKvPageRead now drawer s) := by
  refine State.drawerCommand_keeps fun e kept => ?_
  repeat' first
    | assumption | split
    | with_reducible (
        first | apply Device.kvPageRead_keeps)

end Sys2Proof.Machine
end

