-- ==== Sys2Proof/Laws/KeepsCleanup.lean ====
section
/-!
SUPPORT. What the operations of `Machine/Cleanup` keep: the invariants of `Safety`, a held safe state and the fuses.
-/

set_option linter.all false

namespace Sys2Proof.Machine

theorem Device.ackStream_keeps {dev₀ d : Device} (kept : Keeps dev₀ d) (tag : BitVec 12) :
    Keeps dev₀ (Device.ackStream d tag) := by
  unfold Device.ackStream
  iterate 30 try any_goals first
    | with_reducible first | assumption | rfl
    | (extract_lets +onlyGivenNames e
       first | refine Keeps.cut (e := e) ?_ (fun _ => ?_) <;> [subst e; clear_value e]
             | (have : Option _ := e; clear this; clear_value e) | skip)
    | with_reducible (
        first | apply Keeps.ite)
    | split
    | with_reducible (
        first | apply Keeps.foldl | apply Keeps.foldl_fst | apply Keeps.of_fst ‹_› | apply Keeps.put | apply Keeps.putLect)
    | intro _ _ _ | intro _ _
    | simp +zetaDelta only [setAt, List.length_set, List.length_map, List.length_zipIdx, Window.setIbi_events]; done

theorem Device.failMember_keeps {dev₀ d : Device} (kept : Keeps dev₀ d) (tag : BitVec 12) (seq : BitVec 32) :
    Keeps dev₀ (Device.failMember d tag seq) :=
  kept.put rfl rfl rfl rfl rfl rfl rfl rfl rfl rfl

theorem Device.restartStream_keeps {dev₀ d : Device} (kept : Keeps dev₀ d) (tag : Nat) (x : Stream) (dest : Image) :
    Keeps dev₀ (Device.restartStream d tag x dest) := by
  unfold Device.restartStream
  iterate 30 try any_goals first
    | with_reducible first | assumption | rfl
    | (extract_lets +onlyGivenNames e
       first | refine Keeps.cut (e := e) ?_ (fun _ => ?_) <;> [subst e; clear_value e]
             | (have : Option _ := e; clear this; clear_value e) | skip)
    | with_reducible (
        first | apply Device.initHook_keeps | apply Device.ackStream_keeps | apply Device.failMember_keeps
              | apply Keeps.ite)
    | split
    | with_reducible (
        first | apply Keeps.foldl | apply Keeps.foldl_fst | apply Keeps.of_fst ‹_› | apply Keeps.put | apply Keeps.putLect)
    | intro _ _ _ | intro _ _
    | simp +zetaDelta only [setAt, List.length_set, List.length_map, List.length_zipIdx, Window.setIbi_events]; done

theorem Device.restartStreams_keeps {dev₀ d : Device} (kept : Keeps dev₀ d) (r : JobRef) :
    Keeps dev₀ (Device.restartStreams d r) := by
  unfold Device.restartStreams
  iterate 30 try any_goals first
    | with_reducible first | assumption | rfl
    | (extract_lets +onlyGivenNames e
       first | refine Keeps.cut (e := e) ?_ (fun _ => ?_) <;> [subst e; clear_value e]
             | (have : Option _ := e; clear this; clear_value e) | skip)
    | with_reducible (
        first | apply Device.restartStream_keeps | apply Keeps.ite)
    | split
    | with_reducible (
        first | apply Keeps.foldl | apply Keeps.foldl_fst | apply Keeps.of_fst ‹_› | apply Keeps.put | apply Keeps.putLect)
    | intro _ _ _ | intro _ _
    | simp +zetaDelta only [setAt, List.length_set, List.length_map, List.length_zipIdx, Window.setIbi_events]; done

theorem Device.resetJobHooks_keeps {dev₀ d : Device} (kept : Keeps dev₀ d) (j : BitVec 16) :
    Keeps dev₀ (Device.resetJobHooks d j) := by
  unfold Device.resetJobHooks
  iterate 30 try any_goals first
    | with_reducible first | assumption | rfl
    | (extract_lets +onlyGivenNames e
       first | refine Keeps.cut (e := e) ?_ (fun _ => ?_) <;> [subst e; clear_value e]
             | (have : Option _ := e; clear this; clear_value e) | skip)
    | with_reducible (
        first | apply Device.initHook_keeps | apply Keeps.ite)
    | split
    | with_reducible (
        first | apply Keeps.foldl | apply Keeps.foldl_fst | apply Keeps.of_fst ‹_› | apply Keeps.put | apply Keeps.putLect)
    | intro _ _ _ | intro _ _
    | simp +zetaDelta only [setAt, List.length_set, List.length_map, List.length_zipIdx, Window.setIbi_events]; done

theorem Device.dropEngineWork_keeps {dev₀ d : Device} (kept : Keeps dev₀ d) (r : JobRef) :
    Keeps dev₀ (Device.dropEngineWork d r) := by
  unfold Device.dropEngineWork
  iterate 30 try any_goals first
    | with_reducible first | assumption | rfl
    | (extract_lets +onlyGivenNames e
       first | refine Keeps.cut (e := e) ?_ (fun _ => ?_) <;> [subst e; clear_value e]
             | (have : Option _ := e; clear this; clear_value e) | skip)
    | with_reducible (
        first | apply Device.unpin_keeps | apply Keeps.ite)
    | split
    | with_reducible (
        first | apply Keeps.foldl | apply Keeps.foldl_fst | apply Keeps.of_fst ‹_› | apply Keeps.put | apply Keeps.putLect)
    | intro _ _ _ | intro _ _
    | simp +zetaDelta only [setAt, List.length_set, List.length_map, List.length_zipIdx, Window.setIbi_events]; done

theorem Device.ackJob_keeps {dev₀ d : Device} (kept : Keeps dev₀ d) (j : BitVec 16) :
    Keeps dev₀ (Device.ackJob d j) := by
  unfold Device.ackJob
  iterate 30 try any_goals first
    | with_reducible first | assumption | rfl
    | (extract_lets +onlyGivenNames e
       first | refine Keeps.cut (e := e) ?_ (fun _ => ?_) <;> [subst e; clear_value e]
             | (have : Option _ := e; clear this; clear_value e) | skip)
    | with_reducible (
        first | apply Keeps.ite)
    | split
    | with_reducible (
        first | apply Keeps.foldl | apply Keeps.foldl_fst | apply Keeps.of_fst ‹_› | apply Keeps.put | apply Keeps.putLect)
    | intro _ _ _ | intro _ _
    | simp +zetaDelta only [setAt, List.length_set, List.length_map, List.length_zipIdx, Window.setIbi_events]; done

theorem Device.freeTiles_keeps {dev₀ d : Device} (kept : Keeps dev₀ d) (j : BitVec 16) :
    Keeps dev₀ (Device.freeTiles d j) :=
  kept.put rfl rfl rfl rfl rfl rfl rfl rfl rfl rfl

theorem Device.jobStopped_keeps {dev₀ d : Device} (kept : Keeps dev₀ d) (j : BitVec 16) :
    Keeps dev₀ (Device.jobStopped d j) := by
  unfold Device.jobStopped
  iterate 30 try any_goals first
    | with_reducible first | assumption | rfl
    | (extract_lets +onlyGivenNames e
       first | refine Keeps.cut (e := e) ?_ (fun _ => ?_) <;> [subst e; clear_value e]
             | (have : Option _ := e; clear this; clear_value e) | skip)
    | with_reducible (
        first | apply Device.monitorStopped_keeps | apply Device.setRun_keeps | apply Device.forgetWaits_keeps
              | apply Device.reply_keeps | apply Device.finishModes_keeps | apply Device.settleStandby_keeps
              | apply Device.settleDomains_keeps | apply Device.resetJobHooks_keeps
              | apply Device.dropEngineWork_keeps | apply Device.ackJob_keeps | apply Keeps.ite)
    | split
    | with_reducible (
        first | apply Keeps.foldl | apply Keeps.foldl_fst | apply Keeps.of_fst ‹_› | apply Keeps.put | apply Keeps.putLect)
    | intro _ _ _ | intro _ _
    | simp +zetaDelta only [setAt, List.length_set, List.length_map, List.length_zipIdx, Window.setIbi_events]; done

theorem Device.settleStop_keeps {dev₀ d : Device} (kept : Keeps dev₀ d) (j : BitVec 16) :
    Keeps dev₀ (Device.settleStop d j) := by
  unfold Device.settleStop
  split
  · exact Keeps.ite (jobStopped_keeps kept _) kept
  · exact kept

theorem Device.cleanUp_keeps {dev₀ d : Device} (kept : Keeps dev₀ d) (j : BitVec 16) :
    Keeps dev₀ (Device.cleanUp d j) := by
  unfold Device.cleanUp
  repeat' first
    | with_reducible assumption
    | (extract_lets +onlyGivenNames e
       first | refine Keeps.cut (e := e) ?_ (fun _ => ?_) <;> [subst e; clear_value e] | skip)
    | with_reducible (
        first | apply Device.setRun_keeps | apply Device.count_keeps | apply Device.finishModes_keeps
              | apply Device.writeCompletion_keeps | apply Device.endStep_keeps | apply Device.endChunks_keeps
              | apply Device.restartStreams_keeps | apply Device.resetJobHooks_keeps
              | apply Device.dropEngineWork_keeps | apply Device.ackJob_keeps | apply Device.freeTiles_keeps
              | apply Device.settleStop_keeps | apply Keeps.ite)
    | split

theorem Device.endWith_keeps {dev₀ d : Device} (kept : Keeps dev₀ d) (j : BitVec 16) (st : Status) :
    Keeps dev₀ (Device.endWith d j st) := by
  unfold Device.endWith
  repeat' first
    | with_reducible assumption
    | (extract_lets +onlyGivenNames e
       first | refine Keeps.cut (e := e) ?_ (fun _ => ?_) <;> [subst e; clear_value e] | skip)
    | with_reducible (
        first | apply Device.cancelPeriod_keeps | apply Device.cleanUp_keeps | apply Keeps.ite)
    | split

end Sys2Proof.Machine
end

