-- ==== Sys2Proof/Laws/KeepsCal.lean ====
section
/-!
SUPPORT. What the operations of `Machine/Cal` keep: the invariants of `Safety`, a held safe state and the fuses.
-/

set_option linter.all false

namespace Sys2Proof.Machine

theorem NonVolatile.writeCal_kept (v : NonVolatile) (sec first : Nat) (recs : List Bytes) :
    v.Kept (v.writeCal sec first recs) := by
  unfold NonVolatile.writeCal
  dsimp only
  split <;> exact .of_eq rfl rfl rfl

theorem Device.putCal_keeps {dev₀ d : Device} (kept : Keeps dev₀ d) (n : Fin 64) (bs : Bytes) :
    Keeps dev₀ (d.putCal n bs) :=
  Keeps.ite (fail_keeps kept ..) (Keeps.ite (fail_keeps kept ..)
    (reply_keeps (kept.putNv (NonVolatile.writeCal_kept ..)) ..))

theorem Device.calWrite_keeps {dev₀ d : Device} (kept : Keeps dev₀ d) (n : Fin 64) :
    Keeps dev₀ (Device.calWrite d n) := by
  unfold Device.calWrite
  repeat' first
    | with_reducible assumption
    | (extract_lets +onlyGivenNames e
       first | refine Keeps.cut (e := e) ?_ (fun _ => ?_) <;> [subst e; clear_value e] | skip)
    | with_reducible (
        first | apply Device.fail_keeps | apply Device.count_keeps | apply Device.armBulk_keeps
              | apply Device.putCal_keeps | apply Keeps.ite)
    | split

theorem Device.calRead_keeps {dev₀ d : Device} (kept : Keeps dev₀ d) (n : Fin 64) :
    Keeps dev₀ (Device.calRead d n) := by
  unfold Device.calRead
  repeat' first
    | with_reducible assumption
    | (extract_lets +onlyGivenNames e
       first | refine Keeps.cut (e := e) ?_ (fun _ => ?_) <;> [subst e; clear_value e] | skip)
    | with_reducible (
        first | apply Device.reply_keeps | apply Device.fail_keeps | apply Device.count_keeps | apply Keeps.ite)
    | split

theorem execCalRead_keeps (now : Time) (drawer : Fin 64) (s : State) : StepKeeps s (execCalRead now drawer s) := by
  refine State.drawerCommand_keeps fun e kept => ?_
  repeat' first
    | assumption | split
    | with_reducible (
        first | apply Device.calRead_keeps)

theorem execCalWrite_keeps (now : Time) (drawer : Fin 64) (s : State) : StepKeeps s (execCalWrite now drawer s) := by
  refine State.drawerCommand_keeps fun e kept => ?_
  repeat' first
    | assumption | split
    | with_reducible (
        first | apply Device.calWrite_keeps)

end Sys2Proof.Machine
end

