-- ==== Sys2Proof/Laws/KeepsPlanner.lean ====
section
/-!
SUPPORT. What the operations of `Machine/Planner` keep: the invariants of `Safety`, a held safe state and the fuses.
-/

set_option linter.all false

namespace Sys2Proof.Machine

theorem Device.setPlanJob_keeps {dev₀ d : Device} (kept : Keeps dev₀ d) (j : BitVec 16) (x : PlannerJob) :
    Keeps dev₀ (Device.setPlanJob d j x) :=
  kept.put rfl rfl rfl rfl rfl rfl rfl rfl rfl rfl

theorem Device.takeQueries_keeps {dev₀ d : Device} (kept : Keeps dev₀ d) (r : JobRef) (desc : Image) :
    Keeps dev₀ (Device.takeQueries d r desc).1 := by
  unfold Device.takeQueries
  iterate 30 try any_goals first
    | with_reducible first | assumption | rfl
    | (extract_lets +onlyGivenNames e
       first | refine Keeps.cut (e := e) ?_ (fun _ => ?_) <;> [subst e; clear_value e]
             | (have : Option _ := e; clear this; clear_value e) | skip)
    | with_reducible (
        first | apply Device.setHook_keeps | apply Device.count_keeps | apply Device.hubRead_keeps
              | apply Device.setPlanJob_keeps | apply Keeps.ite)
    | split
    | with_reducible (
        first | apply Keeps.foldl | apply Keeps.foldl_fst | apply Keeps.of_fst ‹_› | apply Keeps.put | apply Keeps.putLect)
    | intro _ _ _ | intro _ _
    | simp +zetaDelta only [setAt, List.length_set, List.length_map, List.length_zipIdx, Window.setIbi_events]; done

theorem Device.writeTraj_keeps {dev₀ d : Device} (kept : Keeps dev₀ d) (r : JobRef) (desc : Image) (p : Period) (u : PlanRun) (o : TrajOutcome) :
    Keeps dev₀ (Device.writeTraj d r desc p u o) := by
  unfold Device.writeTraj
  repeat' first
    | with_reducible assumption
    | (extract_lets +onlyGivenNames e
       first | refine Keeps.cut (e := e) ?_ (fun _ => ?_) <;> [subst e; clear_value e] | skip)
    | with_reducible (
        first | apply Device.writeLines_keeps | apply Device.withholdStop_keeps | apply Device.sendRecord_keeps
              | apply Device.markDone_keeps | apply Device.engineSignal_keeps | apply Device.shelf_keeps
              | apply Device.unpin_keeps | apply Device.setPlanJob_keeps | apply Keeps.ite)
    | split

theorem Device.failSearch_keeps {dev₀ d : Device} (kept : Keeps dev₀ d) (r : JobRef) (desc : Image) (p : Period) (u : PlanRun) :
    Keeps dev₀ (Device.failSearch d r desc p u) := by
  unfold Device.failSearch
  repeat' first
    | assumption | split
    | with_reducible (
        first | apply Device.bump_keeps | apply Device.writeTraj_keeps)

theorem Device.readGuess_keeps {dev₀ d : Device} (kept : Keeps dev₀ d) (r : JobRef) (dof : Nat) (q : Image) :
    Keeps dev₀ (Device.readGuess d r dof q).1 := by
  unfold Device.readGuess
  iterate 30 try any_goals first
    | with_reducible first | assumption | rfl
    | (extract_lets +onlyGivenNames e
       first | refine Keeps.cut (e := e) ?_ (fun _ => ?_) <;> [subst e; clear_value e]
             | (have : Option _ := e; clear this; clear_value e) | skip)
    | with_reducible (
        first | apply Device.hubRead_keeps | apply Keeps.ite)
    | split
    | with_reducible (
        first | apply Keeps.foldl | apply Keeps.foldl_fst | apply Keeps.of_fst ‹_› | apply Keeps.put | apply Keeps.putLect)
    | intro _ _ _ | intro _ _
    | simp +zetaDelta only [setAt, List.length_set, List.length_map, List.length_zipIdx, Window.setIbi_events]; done

theorem Device.firstGuess_keeps {dev₀ d : Device} (kept : Keeps dev₀ d) (r : JobRef) (desc q : Image) (start goal : List F32) (rest : Option (List Waypoint)) :
    Keeps dev₀ (Device.firstGuess d r desc q start goal rest).1 := by
  unfold Device.firstGuess
  iterate 30 try any_goals first
    | with_reducible first | assumption | rfl
    | (extract_lets +onlyGivenNames e
       first | refine Keeps.cut (e := e) ?_ (fun _ => ?_) <;> [subst e; clear_value e]
             | (have : Option _ := e; clear this; clear_value e) | skip)
    | with_reducible (
        first | apply Device.readGuess_keeps | apply Keeps.ite)
    | split
    | with_reducible (
        first | apply Keeps.foldl | apply Keeps.foldl_fst | apply Keeps.of_fst ‹_› | apply Keeps.put | apply Keeps.putLect)
    | intro _ _ _ | intro _ _
    | simp +zetaDelta only [setAt, List.length_set, List.length_map, List.length_zipIdx, Window.setIbi_events]; done

theorem Device.startPlanner_keeps {dev₀ d : Device} (kept : Keeps dev₀ d) (r : JobRef) (desc : Image) (p : Period) (i : Fin 2) :
    Keeps dev₀ (Device.startPlanner d r desc p i) := by
  unfold Device.startPlanner
  iterate 30 try any_goals first
    | with_reducible first | assumption | rfl
    | (extract_lets +onlyGivenNames e
       first | refine Keeps.cut (e := e) ?_ (fun _ => ?_) <;> [subst e; clear_value e]
             | (have : Option _ := e; clear this; clear_value e) | skip)
    | with_reducible (
        first | apply Device.withholdStop_keeps | apply Device.markDone_keeps | apply Device.shelf_keeps
              | apply Device.pin_keeps | apply Device.unpin_keeps | apply Device.setPlanJob_keeps
              | apply Device.takeQueries_keeps | apply Device.failSearch_keeps | apply Device.firstGuess_keeps
              | apply Keeps.ite)
    | split
    | with_reducible (
        first | apply Keeps.foldl | apply Keeps.foldl_fst | apply Keeps.of_fst ‹_› | apply Keeps.put | apply Keeps.putLect)
    | intro _ _ _ | intro _ _
    | simp +zetaDelta only [setAt, List.length_set, List.length_map, List.length_zipIdx, Window.setIbi_events]; done

theorem Device.startPlanners_keeps {dev₀ d : Device} (kept : Keeps dev₀ d) : Keeps dev₀ (Device.startPlanners d) := by
  unfold Device.startPlanners
  iterate 30 try any_goals first
    | with_reducible first | assumption | rfl
    | (extract_lets +onlyGivenNames e
       first | refine Keeps.cut (e := e) ?_ (fun _ => ?_) <;> [subst e; clear_value e]
             | (have : Option _ := e; clear this; clear_value e) | skip)
    | with_reducible (
        first | apply Device.needDom_keeps | apply Device.endWith_keeps | apply Device.startPlanner_keeps
              | apply Keeps.ite)
    | split
    | with_reducible (
        first | apply Keeps.foldl | apply Keeps.foldl_fst | apply Keeps.of_fst ‹_› | apply Keeps.put | apply Keeps.putLect)
    | intro _ _ _ | intro _ _
    | simp +zetaDelta only [setAt, List.length_set, List.length_map, List.length_zipIdx, Window.setIbi_events]; done

theorem Device.spoilShelf_keeps {dev₀ d : Device} (kept : Keeps dev₀ d) (job : BitVec 16) (v : ShelfVersion) (c : Candidate) :
    Keeps dev₀ (Device.spoilShelf d job v c) := by
  unfold Device.spoilShelf
  iterate 30 try any_goals first
    | with_reducible first | assumption | rfl
    | (extract_lets +onlyGivenNames e
       first | refine Keeps.cut (e := e) ?_ (fun _ => ?_) <;> [subst e; clear_value e]
             | (have : Option _ := e; clear this; clear_value e) | skip)
    | with_reducible (
        first | apply Device.chipCount_keeps | apply Device.event_keeps | apply Device.shelf_keeps
              | apply Keeps.ite)
    | split
    | with_reducible (
        first | apply Keeps.foldl | apply Keeps.foldl_fst | apply Keeps.of_fst ‹_› | apply Keeps.put | apply Keeps.putLect)
    | intro _ _ _ | intro _ _
    | simp +zetaDelta only [setAt, List.length_set, List.length_map, List.length_zipIdx, Window.setIbi_events]; done

theorem Device.candidate_keeps {dev₀ d : Device} (kept : Keeps dev₀ d) (r : JobRef) (desc : Image) (p : Period) (u : PlanRun) (ws : List (List F32)) (checks : Nat) :
    Keeps dev₀ (Device.candidate d r desc p u ws checks) := by
  unfold Device.candidate
  repeat' first
    | with_reducible assumption
    | (extract_lets +onlyGivenNames e
       first | refine Keeps.cut (e := e) ?_ (fun _ => ?_) <;> [subst e; clear_value e] | skip)
    | with_reducible (
        first | apply Device.shelf_keeps | apply Device.pin_keeps | apply Device.setPlanJob_keeps
              | apply Device.writeTraj_keeps | apply Device.failSearch_keeps | apply Keeps.ite)
    | split

theorem execCandidateComplete_keeps (now : Time) (job : BitVec 16) (cand : Candidate) (s : State) :
    StepKeeps s (execCandidateComplete now job cand s) := by
  refine State.onUp_keeps fun e kept => ?_
  repeat' first
    | with_reducible assumption
    | (extract_lets +onlyGivenNames e
       first | refine Keeps.cut (e := e) ?_ (fun _ => ?_) <;> [subst e; clear_value e] | skip)
    | with_reducible (
        first | apply Device.shelf_keeps | apply Device.setPlanJob_keeps | apply Device.startPlanners_keeps
              | apply Device.spoilShelf_keeps | apply Device.candidate_keeps | apply Keeps.ite)
    | split

theorem execPlannerBudgetEnd_keeps (now : Time) (job : BitVec 16) (s : State) :
    StepKeeps s (execPlannerBudgetEnd now job s) := by
  refine State.onUp_keeps fun e kept => ?_
  repeat' first
    | assumption | split
    | with_reducible (
        first | apply Device.failSearch_keeps | apply Device.startPlanners_keeps)

theorem execSearchFails_keeps (now : Time) (job : BitVec 16) (s : State) :
    StepKeeps s (execSearchFails now job s) := by
  refine State.onUp_keeps fun e kept => ?_
  repeat' first
    | assumption | split
    | with_reducible (
        first | apply Device.failSearch_keeps | apply Device.startPlanners_keeps)

end Sys2Proof.Machine
end

