-- ==== Sys2Proof/Laws/KeepsSolver.lean ====
section
/-!
SUPPORT. What the operations of `Machine/Solver` keep: the invariants of `Safety`, a held safe state and the fuses.
-/

set_option linter.all false

namespace Sys2Proof.Machine

theorem Device.setSolv_keeps {dev₀ d : Device} (kept : Keeps dev₀ d) (j : BitVec 16) (x : SolverJob) :
    Keeps dev₀ (Device.setSolv d j x) :=
  kept.put rfl rfl rfl rfl rfl rfl rfl rfl rfl rfl

theorem Device.answerDelta_keeps {dev₀ d : Device} (kept : Keeps dev₀ d) (r : JobRef) (desc : Image) (b : Batch32) (st : Status) (seq : BitVec 32) :
    Keeps dev₀ (Device.answerDelta d r desc b st seq) := by
  unfold Device.answerDelta
  repeat' first
    | assumption | split
    | with_reducible (
        first | apply Device.writeViewBytes_keeps | apply Device.reply_keeps | apply Device.engineSignal_keeps)

theorem Device.admitDelta_keeps {dev₀ d : Device} (kept : Keeps dev₀ d) (j : BitVec 16) :
    Keeps dev₀ (Device.admitDelta d j) := by
  unfold Device.admitDelta
  iterate 30 try any_goals first
    | with_reducible first | assumption | rfl
    | (extract_lets +onlyGivenNames e
       first | refine Keeps.cut (e := e) ?_ (fun _ => ?_) <;> [subst e; clear_value e]
             | (have : Option _ := e; clear this; clear_value e) | skip)
    | with_reducible (
        first | apply Device.takeHook_keeps | apply Device.setSolv_keeps | apply Keeps.ite)
    | split
    | with_reducible (
        first | apply Keeps.foldl | apply Keeps.foldl_fst | apply Keeps.of_fst ‹_› | apply Keeps.put | apply Keeps.putLect)
    | intro _ _ _ | intro _ _
    | simp +zetaDelta only [setAt, List.length_set, List.length_map, List.length_zipIdx, Window.setIbi_events]; done

theorem Device.admitDeltas_keeps {dev₀ d : Device} (kept : Keeps dev₀ d) (j : BitVec 16) :
    Keeps dev₀ (Device.admitDeltas d j) := by
  unfold Device.admitDeltas
  iterate 30 try any_goals first
    | with_reducible first | assumption | rfl
    | (extract_lets +onlyGivenNames e
       first | refine Keeps.cut (e := e) ?_ (fun _ => ?_) <;> [subst e; clear_value e]
             | (have : Option _ := e; clear this; clear_value e) | skip)
    | with_reducible (
        first | apply Device.admitDelta_keeps | apply Keeps.ite)
    | split
    | with_reducible (
        first | apply Keeps.foldl | apply Keeps.foldl_fst | apply Keeps.of_fst ‹_› | apply Keeps.put | apply Keeps.putLect)
    | intro _ _ _ | intro _ _
    | simp +zetaDelta only [setAt, List.length_set, List.length_map, List.length_zipIdx, Window.setIbi_events]; done

theorem Device.applyHead_keeps {dev₀ d : Device} (kept : Keeps dev₀ d) (j : BitVec 16) (seq : BitVec 32) :
    Keeps dev₀ (Device.applyHead d j seq) := by
  unfold Device.applyHead
  repeat' first
    | with_reducible assumption
    | (extract_lets +onlyGivenNames e
       first | refine Keeps.cut (e := e) ?_ (fun _ => ?_) <;> [subst e; clear_value e] | skip)
    | with_reducible (
        first | apply Device.hubRead_keeps | apply Device.setSolv_keeps | apply Device.answerDelta_keeps
              | apply Device.admitDeltas_keeps | apply Keeps.ite)
    | split

theorem Device.queueDelta_keeps {dev₀ d : Device} (kept : Keeps dev₀ d) (n : Fin 64) (bs : Bytes) :
    Keeps dev₀ (Device.queueDelta d n bs) := by
  unfold Device.queueDelta
  repeat' first
    | with_reducible assumption
    | (extract_lets +onlyGivenNames e
       first | refine Keeps.cut (e := e) ?_ (fun _ => ?_) <;> [subst e; clear_value e] | skip)
    | with_reducible (
        first | apply Device.fail_keeps | apply Device.setSolv_keeps | apply Device.admitDeltas_keeps
              | apply Keeps.ite)
    | split

theorem Device.solverInfo_keeps {dev₀ d : Device} (kept : Keeps dev₀ d) (n : Fin 64) :
    Keeps dev₀ (Device.solverInfo d n) := by
  unfold Device.solverInfo
  repeat' first
    | assumption | split
    | with_reducible (
        first | apply Device.reply_keeps | apply Device.fail_keeps)

theorem Device.startSolve_keeps {dev₀ d : Device} (kept : Keeps dev₀ d) (j : BitVec 16) :
    Keeps dev₀ (Device.startSolve d j) := by
  unfold Device.startSolve
  repeat' first
    | assumption | split
    | with_reducible (
        first | apply Device.setSolv_keeps)

theorem Device.endSolve_keeps {dev₀ d : Device} (kept : Keeps dev₀ d) (j : BitVec 16) (status : Status) (it : Option (Nat × Iterate)) :
    Keeps dev₀ (Device.endSolve d j status it) := by
  unfold Device.endSolve
  iterate 30 try any_goals first
    | with_reducible first | assumption | rfl
    | (extract_lets +onlyGivenNames e
       first | refine Keeps.cut (e := e) ?_ (fun _ => ?_) <;> [subst e; clear_value e]
             | (have : Option _ := e; clear this; clear_value e) | skip)
    | with_reducible (
        first | apply Device.writeLines_keeps | apply Device.withholdStop_keeps | apply Device.sendRecord_keeps
              | apply Device.markDone_keeps | apply Device.engineSignal_keeps | apply Device.setSolv_keeps
              | apply Keeps.ite)
    | split
    | with_reducible (
        first | apply Keeps.foldl | apply Keeps.foldl_fst | apply Keeps.of_fst ‹_› | apply Keeps.put | apply Keeps.putLect)
    | intro _ _ _ | intro _ _
    | simp +zetaDelta only [setAt, List.length_set, List.length_map, List.length_zipIdx, Window.setIbi_events]; done

theorem Device.serve_keeps {dev₀ d : Device} (kept : Keeps dev₀ d) (inst : Nat) (j : Option (BitVec 16)) :
    Keeps dev₀ (Device.serve d inst j) :=
  kept.put rfl rfl rfl rfl rfl rfl rfl rfl rfl rfl

theorem Device.warmSource_keeps {dev₀ d : Device} (kept : Keeps dev₀ d) (r : JobRef) (desc st : Image) (x : SolverJob) :
    Keeps dev₀ (Device.warmSource d r desc st x).1 := by
  unfold Device.warmSource
  iterate 30 try any_goals first
    | with_reducible first | assumption | rfl
    | (extract_lets +onlyGivenNames e
       first | refine Keeps.cut (e := e) ?_ (fun _ => ?_) <;> [subst e; clear_value e]
             | (have : Option _ := e; clear this; clear_value e) | skip)
    | with_reducible (
        first | apply Device.hubRead_keeps | apply Keeps.ite)
    | split
    | with_reducible (
        first | apply Keeps.foldl | apply Keeps.foldl_fst | apply Keeps.of_fst ‹_› | apply Keeps.put | apply Keeps.putLect)
    | intro _ _ _ | intro _ _
    | simp +zetaDelta only [setAt, List.length_set, List.length_map, List.length_zipIdx, Window.setIbi_events]; done

theorem Device.formZero_keeps {dev₀ d : Device} (kept : Keeps dev₀ d) (j : BitVec 16) :
    Keeps dev₀ (Device.formZero d j) := by
  unfold Device.formZero
  iterate 30 try any_goals first
    | with_reducible first | assumption | rfl
    | (extract_lets +onlyGivenNames e
       first | refine Keeps.cut (e := e) ?_ (fun _ => ?_) <;> [subst e; clear_value e]
             | (have : Option _ := e; clear this; clear_value e) | skip)
    | with_reducible (
        first | apply Device.withholdStop_keeps | apply Device.setSolv_keeps | apply Device.warmSource_keeps
              | apply Keeps.ite)
    | split
    | with_reducible (
        first | apply Keeps.foldl | apply Keeps.foldl_fst | apply Keeps.of_fst ‹_› | apply Keeps.put | apply Keeps.putLect)
    | intro _ _ _ | intro _ _
    | simp +zetaDelta only [setAt, List.length_set, List.length_map, List.length_zipIdx, Window.setIbi_events]; done

theorem Device.applyQueued_keeps {dev₀ d : Device} (kept : Keeps dev₀ d) (j : BitVec 16) (seq : BitVec 32) (n : Nat) :
    Keeps dev₀ (d.applyQueued j seq n) := by
  induction n generalizing d with
  | zero => exact kept
  | succ n ih => exact ih (applyHead_keeps kept ..)

theorem Device.iterate_keeps {dev₀ d : Device} (kept : Keeps dev₀ d) (j : BitVec 16) :
    Keeps dev₀ (Device.iterate d j) := by
  unfold Device.iterate
  repeat' first
    | with_reducible assumption
    | (extract_lets +onlyGivenNames e
       first | refine Keeps.cut (e := e) ?_ (fun _ => ?_) <;> [subst e; clear_value e] | skip)
    | with_reducible (
        first | apply Device.setSolv_keeps | apply Device.endSolve_keeps | apply Keeps.ite)
    | split

theorem Device.solverStoreError_keeps {dev₀ d : Device} (kept : Keeps dev₀ d) (j : BitVec 16) (inst : Nat) (x : SolverJob) :
    Keeps dev₀ (Device.solverStoreError d j inst x) := by
  unfold Device.solverStoreError
  repeat' first
    | assumption | split
    | with_reducible (
        first | apply Device.chipCount_keeps | apply Device.endWith_keeps | apply Device.setSolv_keeps)

theorem execSolverUpdate_keeps (now : Time) (drawer : Fin 64) (s : State) :
    StepKeeps s (execSolverUpdate now drawer s) := by
  refine State.drawerCommand_keeps fun e kept => ?_
  repeat' first
    | assumption | split
    | with_reducible (
        first | apply Device.fail_keeps | apply Device.armBulk_keeps)

theorem execSolverUpdateSignal_keeps (now : Time) (job : BitVec 16) (s : State) :
    StepKeeps s (execSolverUpdateSignal now job s) := by
  refine State.onUp_keeps fun e kept => ?_
  repeat' first
    | with_reducible assumption
    | (extract_lets +onlyGivenNames e
       first | refine Keeps.cut (e := e) ?_ (fun _ => ?_) <;> [subst e; clear_value e] | skip)
    | with_reducible (
        first | apply Device.admitDeltas_keeps | apply Keeps.ite)
    | split

theorem execSolverBatchApply_keeps (now : Time) (job : BitVec 16) (s : State) :
    StepKeeps s (execSolverBatchApply now job s) := by
  refine State.onUp_keeps fun e kept => ?_
  repeat' first
    | assumption | split
    | with_reducible (
        first | apply Device.applyHead_keeps)

theorem execSolverInfo_keeps (now : Time) (drawer : Fin 64) (s : State) :
    StepKeeps s (execSolverInfo now drawer s) := by
  refine State.drawerCommand_keeps fun e kept => ?_
  repeat' first
    | assumption | split
    | with_reducible (
        first | apply Device.solverInfo_keeps)

theorem execApplicationPoint_keeps (now : Time) (job : BitVec 16) (s : State) :
    StepKeeps s (execApplicationPoint now job s) := by
  refine State.onUp_keeps fun e kept => ?_
  iterate 30 try any_goals first
    | with_reducible first | assumption | rfl
    | (extract_lets +onlyGivenNames e
       first | refine Keeps.cut (e := e) ?_ (fun _ => ?_) <;> [subst e; clear_value e]
             | (have : Option _ := e; clear this; clear_value e) | skip)
    | with_reducible (
        first | apply Device.takeHook_keeps | apply Device.serve_keeps | apply Device.formZero_keeps
              | apply Device.applyQueued_keeps | apply Keeps.ite)
    | split
    | with_reducible (
        first | apply Keeps.foldl | apply Keeps.foldl_fst | apply Keeps.of_fst ‹_› | apply Keeps.put | apply Keeps.putLect)
    | intro _ _ _ | intro _ _
    | simp +zetaDelta only [setAt, List.length_set, List.length_map, List.length_zipIdx, Window.setIbi_events]; done

theorem execIterationComplete_keeps (now : Time) (job : BitVec 16) (finding : ScrubFinding) (s : State) :
    StepKeeps s (execIterationComplete now job finding s) := by
  refine State.onUp_keeps fun e kept => ?_
  repeat' first
    | with_reducible assumption
    | (extract_lets +onlyGivenNames e
       first | refine Keeps.cut (e := e) ?_ (fun _ => ?_) <;> [subst e; clear_value e] | skip)
    | with_reducible (
        first | apply Device.chipCount_keeps | apply Device.serve_keeps | apply Device.iterate_keeps
              | apply Device.solverStoreError_keeps | apply Keeps.ite)
    | split

theorem execSolveBudgetExpiry_keeps (now : Time) (job : BitVec 16) (s : State) :
    StepKeeps s (execSolveBudgetExpiry now job s) := by
  refine State.onUp_keeps fun e kept => ?_
  repeat' first
    | with_reducible assumption
    | (extract_lets +onlyGivenNames e
       first | refine Keeps.cut (e := e) ?_ (fun _ => ?_) <;> [subst e; clear_value e] | skip)
    | with_reducible (
        first | apply Device.endSolve_keeps | apply Keeps.ite)
    | split

end Sys2Proof.Machine
end

