-- ==== Sys2Proof/Laws/KeepsFusion.lean ====
section
/-!
SUPPORT. What the operations of `Machine/Fusion` keep: the invariants of `Safety`, a held safe state and the fuses.
-/

set_option linter.all false

namespace Sys2Proof.Machine

theorem Device.fus_keeps {dev₀ d : Device} (kept : Keeps dev₀ d) (f : FusionState → FusionState) :
    Keeps dev₀ (Device.fus d f) :=
  kept.put rfl rfl rfl rfl rfl rfl rfl rfl rfl rfl

theorem Device.receive_keeps {dev₀ d : Device} (kept : Keeps dev₀ d) (m : RawMeas) :
    Keeps dev₀ (Device.receive d m) :=
  kept.put rfl rfl rfl rfl rfl rfl rfl rfl rfl rfl

theorem Device.inertial_keeps {dev₀ d : Device} (kept : Keeps dev₀ d) (p : Pkt) (tag kind : Nat) (r : Image) :
    Keeps dev₀ (Device.inertial d p tag kind r) := by
  unfold Device.inertial
  repeat' first
    | with_reducible assumption
    | (extract_lets +onlyGivenNames e
       first | refine Keeps.cut (e := e) ?_ (fun _ => ?_) <;> [subst e; clear_value e] | skip)
    | with_reducible (
        first | apply Device.receive_keeps | apply Keeps.ite)
    | split

theorem Device.takeMeasurement_keeps {dev₀ d : Device} (kept : Keeps dev₀ d) :
    Keeps dev₀ (Device.takeMeasurement d) := by
  unfold Device.takeMeasurement
  iterate 30 try any_goals first
    | with_reducible first | assumption | rfl
    | (extract_lets +onlyGivenNames e
       first | refine Keeps.cut (e := e) ?_ (fun _ => ?_) <;> [subst e; clear_value e]
             | (have : Option _ := e; clear this; clear_value e) | skip)
    | with_reducible (
        first | apply Device.takeHook_keeps | apply Device.hubRead_keeps | apply Device.fus_keeps
              | apply Device.receive_keeps | apply Keeps.ite)
    | split
    | with_reducible (
        first | apply Keeps.foldl | apply Keeps.foldl_fst | apply Keeps.of_fst ‹_› | apply Keeps.put | apply Keeps.putLect)
    | intro _ _ _ | intro _ _
    | simp +zetaDelta only [setAt, List.length_set, List.length_map, List.length_zipIdx, Window.setIbi_events]; done

theorem Device.openCycle_keeps {dev₀ d : Device} (kept : Keeps dev₀ d) (desc : Image) (t : Time) :
    Keeps dev₀ (Device.openCycle d desc t) := by
  unfold Device.openCycle
  repeat' first
    | with_reducible assumption
    | (extract_lets +onlyGivenNames e
       first | refine Keeps.cut (e := e) ?_ (fun _ => ?_) <;> [subst e; clear_value e] | skip)
    | with_reducible (
        first | apply Device.token_keeps | apply Device.count_keeps | apply Device.hold_keeps
              | apply Device.fus_keeps | apply Keeps.ite)
    | split

theorem Device.conflicts_keeps {dev₀ d : Device} (kept : Keeps dev₀ d) (desc : Image) (inputs : List Meas) :
    Keeps dev₀ (Device.conflicts d desc inputs).1 := by
  unfold Device.conflicts
  iterate 30 try any_goals first
    | with_reducible first | assumption | rfl
    | (extract_lets +onlyGivenNames e
       first | refine Keeps.cut (e := e) ?_ (fun _ => ?_) <;> [subst e; clear_value e]
             | (have : Option _ := e; clear this; clear_value e) | skip)
    | with_reducible (
        first | apply Device.win_keeps | apply Device.notify_keeps | apply Device.notifyAgain_keeps
              | apply Device.count_keeps | apply Device.fus_keeps | apply Keeps.ite)
    | split
    | with_reducible (
        first | apply Keeps.foldl | apply Keeps.foldl_fst | apply Keeps.of_fst ‹_› | apply Keeps.put | apply Keeps.putLect)
    | intro _ _ _ | intro _ _
    | simp +zetaDelta only [setAt, List.length_set, List.length_map, List.length_zipIdx, Window.setIbi_events]; done

theorem Device.renewSensors_keeps {dev₀ d : Device} (kept : Keeps dev₀ d) : Keeps dev₀ (Device.renewSensors d) :=
  kept.put rfl rfl rfl rfl rfl rfl rfl rfl rfl rfl

theorem Device.collect_keeps {dev₀ d : Device} (kept : Keeps dev₀ d) (c : FusionCycle) :
    Keeps dev₀ (Device.collect d c).1 :=
  kept.put rfl rfl rfl rfl rfl rfl rfl rfl rfl rfl

theorem Device.closeCycle_keeps {dev₀ d : Device} (kept : Keeps dev₀ d) (r : JobRef) (desc : Image) (c : FusionCycle) :
    Keeps dev₀ (Device.closeCycle d r desc c) := by
  unfold Device.closeCycle
  repeat' first
    | with_reducible assumption
    | (extract_lets +onlyGivenNames e
       first | refine Keeps.cut (e := e) ?_ (fun _ => ?_) <;> [subst e; clear_value e] | skip)
    | with_reducible (
        first | apply Device.finishModes_keeps | apply Device.ackJob_keeps | apply Device.fus_keeps
              | apply Device.conflicts_keeps | apply Device.renewSensors_keeps | apply Device.collect_keeps
              | apply Keeps.ite)
    | split

theorem Device.putResult_keeps {dev₀ d : Device} (kept : Keeps dev₀ d) (r : JobRef) (c : FusionCycle) (kind base n size k hook stream : Nat) (body : Bytes) :
    Keeps dev₀ (Device.putResult d r c kind base n size k hook stream body) := by
  unfold Device.putResult
  repeat' first
    | assumption | split
    | with_reducible (
        first | apply Device.writeLines_keeps | apply Device.sendRecord_keeps | apply Device.engineSignal_keeps)

theorem Device.fusionRegions_keeps {dev₀ d : Device} (kept : Keeps dev₀ d) (desc : Image) (c : FusionCycle) :
    Keeps dev₀ (Device.fusionRegions d desc c) := by
  unfold Device.fusionRegions
  iterate 30 try any_goals first
    | with_reducible first | assumption | rfl
    | (extract_lets +onlyGivenNames e
       first | refine Keeps.cut (e := e) ?_ (fun _ => ?_) <;> [subst e; clear_value e]
             | (have : Option _ := e; clear this; clear_value e) | skip)
    | with_reducible (
        first | apply Device.commitRegions_keeps | apply Device.fus_keeps | apply Keeps.ite)
    | split
    | with_reducible (
        first | apply Keeps.foldl | apply Keeps.foldl_fst | apply Keeps.of_fst ‹_› | apply Keeps.put | apply Keeps.putLect)
    | intro _ _ _ | intro _ _
    | simp +zetaDelta only [setAt, List.length_set, List.length_map, List.length_zipIdx, Window.setIbi_events]; done

theorem Device.recordCycle_keeps {dev₀ d : Device} (kept : Keeps dev₀ d) (r : JobRef) (c : FusionCycle) (st : Status) :
    Keeps dev₀ (Device.recordCycle d r c st) := by
  unfold Device.recordCycle
  repeat' first
    | with_reducible assumption
    | (extract_lets +onlyGivenNames e
       first | refine Keeps.cut (e := e) ?_ (fun _ => ?_) <;> [subst e; clear_value e] | skip)
    | with_reducible (
        first | apply Device.token_keeps | apply Device.count_keeps | apply Device.writeCompletion_keeps
              | apply Keeps.ite)
    | split

theorem Device.emitCycle_keeps {dev₀ d : Device} (kept : Keeps dev₀ d) (r : JobRef) (desc : Image) (c : FusionCycle) :
    Keeps dev₀ (Device.emitCycle d r desc c) := by
  unfold Device.emitCycle
  repeat' first
    | assumption | split
    | with_reducible (
        first | apply Device.fus_keeps | apply Device.putResult_keeps | apply Device.fusionRegions_keeps
              | apply Device.recordCycle_keeps)

theorem Device.cleanFusion_keeps {dev₀ d : Device} (kept : Keeps dev₀ d) (r : JobRef) (desc : Image) :
    Keeps dev₀ (Device.cleanFusion d r desc) := by
  unfold Device.cleanFusion
  repeat' first
    | assumption | split
    | with_reducible (
        first | apply Device.count_keeps | apply Device.restartStreams_keeps | apply Device.resetJobHooks_keeps
              | apply Device.fus_keeps)

theorem Device.startFusion_keeps {dev₀ d : Device} (kept : Keeps dev₀ d) : Keeps dev₀ (Device.startFusion d) :=
  kept.put rfl rfl rfl rfl rfl rfl rfl rfl rfl rfl

theorem Device.stopFusion_keeps {dev₀ d : Device} (kept : Keeps dev₀ d) : Keeps dev₀ (Device.stopFusion d) := by
  unfold Device.stopFusion
  iterate 30 try any_goals first
    | with_reducible first | assumption | rfl
    | (extract_lets +onlyGivenNames e
       first | refine Keeps.cut (e := e) ?_ (fun _ => ?_) <;> [subst e; clear_value e]
             | (have : Option _ := e; clear this; clear_value e) | skip)
    | with_reducible (
        first | apply Device.fus_keeps | apply Device.recordCycle_keeps | apply Keeps.ite)
    | split
    | with_reducible (
        first | apply Keeps.foldl | apply Keeps.foldl_fst | apply Keeps.of_fst ‹_› | apply Keeps.put | apply Keeps.putLect)
    | intro _ _ _ | intro _ _
    | simp +zetaDelta only [setAt, List.length_set, List.length_map, List.length_zipIdx, Window.setIbi_events]; done

theorem Device.installFusion_keeps {dev₀ d : Device} (kept : Keeps dev₀ d) (job : Option (BitVec 16)) (desc : Option Image) :
    Keeps dev₀ (Device.installFusion d job desc) := by
  unfold Device.installFusion
  repeat' first
    | assumption | split
    | with_reducible (
        first | apply Device.setHook_keeps | apply Device.count_keeps | apply Device.fus_keeps
              | apply Device.stopFusion_keeps)

theorem execInertialPacket_keeps (now : Time) (p : Pkt) (s : State) : StepKeeps s (execInertialPacket now p s) := by
  refine State.onUp_keeps fun e kept => ?_
  iterate 30 try any_goals first
    | with_reducible first | assumption | rfl
    | (extract_lets +onlyGivenNames e
       first | refine Keeps.cut (e := e) ?_ (fun _ => ?_) <;> [subst e; clear_value e]
             | (have : Option _ := e; clear this; clear_value e) | skip)
    | with_reducible (
        first | apply Device.countUnbound_keeps | apply Device.arrive_keeps | apply Device.fus_keeps
              | apply Device.inertial_keeps | apply Keeps.ite)
    | split
    | with_reducible (
        first | apply Keeps.foldl | apply Keeps.foldl_fst | apply Keeps.of_fst ‹_› | apply Keeps.put | apply Keeps.putLect)
    | intro _ _ _ | intro _ _
    | simp +zetaDelta only [setAt, List.length_set, List.length_map, List.length_zipIdx, Window.setIbi_events]; done

theorem execMeasurementTake_keeps (now : Time) (s : State) : StepKeeps s (execMeasurementTake now s) := by
  refine State.onUp_keeps fun e kept => ?_
  repeat' first
    | assumption | split
    | with_reducible (
        first | apply Device.takeMeasurement_keeps)

theorem execFusionTick_keeps (now : Time) (s : State) : StepKeeps s (execFusionTick now s) := by
  refine State.onUp_keeps fun e kept => ?_
  iterate 30 try any_goals first
    | with_reducible first | assumption | rfl
    | (extract_lets +onlyGivenNames e
       first | refine Keeps.cut (e := e) ?_ (fun _ => ?_) <;> [subst e; clear_value e]
             | (have : Option _ := e; clear this; clear_value e) | skip)
    | with_reducible (
        first | apply Device.count_keeps | apply Device.fus_keeps | apply Device.openCycle_keeps | apply Keeps.ite)
    | split
    | with_reducible (
        first | apply Keeps.foldl | apply Keeps.foldl_fst | apply Keeps.of_fst ‹_› | apply Keeps.put | apply Keeps.putLect)
    | intro _ _ _ | intro _ _
    | simp +zetaDelta only [setAt, List.length_set, List.length_map, List.length_zipIdx, Window.setIbi_events]; done

theorem execFusionClose_keeps (now : Time) (s : State) : StepKeeps s (execFusionClose now s) := by
  refine State.onUp_keeps fun e kept => ?_
  repeat' first
    | with_reducible assumption
    | (extract_lets +onlyGivenNames e
       first | refine Keeps.cut (e := e) ?_ (fun _ => ?_) <;> [subst e; clear_value e] | skip)
    | with_reducible (
        first | apply Device.fus_keeps | apply Device.closeCycle_keeps | apply Keeps.ite)
    | split

theorem execFusionEmission_keeps (now : Time) (finished : Bool) (s : State) :
    StepKeeps s (execFusionEmission now finished s) := by
  refine State.onUp_keeps fun e kept => ?_
  repeat' first
    | assumption | split
    | with_reducible (
        first | apply Device.fus_keeps | apply Device.recordCycle_keeps | apply Device.emitCycle_keeps
              | apply Device.cleanFusion_keeps)

end Sys2Proof.Machine
end

