-- ==== Sys2Proof/Laws/KeepsDispatcher.lean ====
section
/-!
SUPPORT. What the operations of `Machine/Dispatcher` keep: the invariants of `Safety`, a held safe state and the fuses.
-/

set_option linter.all false

namespace Sys2Proof.Machine

theorem Device.fillBuffer_keeps {dev₀ d : Device} (kept : Keeps dev₀ d) (s : Nat) (c : Option CodeImage) :
    Keeps dev₀ (Device.fillBuffer d s c) :=
  kept.put rfl rfl rfl rfl rfl rfl rfl rfl rfl rfl

theorem Device.setHalos_keeps {dev₀ d : Device} (kept : Keeps dev₀ d) (r : JobRef) :
    Keeps dev₀ (Device.setHalos d r) := by
  unfold Device.setHalos
  iterate 30 try any_goals first
    | with_reducible first | assumption | rfl
    | (extract_lets +onlyGivenNames e
       first | refine Keeps.cut (e := e) ?_ (fun _ => ?_) <;> [subst e; clear_value e]
             | (have : Option _ := e; clear this; clear_value e) | skip)
    | with_reducible (
        first | apply Device.initHook_keeps | apply Keeps.ite)
    | split
    | with_reducible (
        first | apply Keeps.foldl | apply Keeps.foldl_fst | apply Keeps.of_fst ‹_› | apply Keeps.put | apply Keeps.putLect)
    | intro _ _ _ | intro _ _
    | simp +zetaDelta only [setAt, List.length_set, List.length_map, List.length_zipIdx, Window.setIbi_events]; done

theorem Device.needJob_keeps {dev₀ d : Device} (kept : Keeps dev₀ d) (r : JobRef) :
    Keeps dev₀ (Device.needJob d r) := by
  unfold Device.needJob
  iterate 30 try any_goals first
    | with_reducible first | assumption | rfl
    | (extract_lets +onlyGivenNames e
       first | refine Keeps.cut (e := e) ?_ (fun _ => ?_) <;> [subst e; clear_value e]
             | (have : Option _ := e; clear this; clear_value e) | skip)
    | with_reducible (
        first | apply Device.needDom_keeps | apply Keeps.ite)
    | split
    | with_reducible (
        first | apply Keeps.foldl | apply Keeps.foldl_fst | apply Keeps.of_fst ‹_› | apply Keeps.put | apply Keeps.putLect)
    | intro _ _ _ | intro _ _
    | simp +zetaDelta only [setAt, List.length_set, List.length_map, List.length_zipIdx, Window.setIbi_events]; done

theorem Device.sendStarts_keeps {dev₀ d : Device} (kept : Keeps dev₀ d) (r : JobRef) (x : JobRun) (p : Period) :
    Keeps dev₀ (Device.sendStarts d r x p) := by
  unfold Device.sendStarts
  iterate 30 try any_goals first
    | with_reducible first | assumption | rfl
    | (extract_lets +onlyGivenNames e
       first | refine Keeps.cut (e := e) ?_ (fun _ => ?_) <;> [subst e; clear_value e]
             | (have : Option _ := e; clear this; clear_value e) | skip)
    | with_reducible (
        first | apply Device.setTile_keeps | apply Device.setRun_keeps | apply Device.setHalos_keeps
              | apply Device.needJob_keeps | apply Keeps.ite)
    | split
    | with_reducible (
        first | apply Keeps.foldl | apply Keeps.foldl_fst | apply Keeps.of_fst ‹_› | apply Keeps.put | apply Keeps.putLect)
    | intro _ _ _ | intro _ _
    | simp +zetaDelta only [setAt, List.length_set, List.length_map, List.length_zipIdx, Window.setIbi_events]; done

theorem Device.beginSave_keeps {dev₀ d : Device} (kept : Keeps dev₀ d) (j : BitVec 16) :
    Keeps dev₀ (Device.beginSave d j) := by
  unfold Device.beginSave
  iterate 30 try any_goals first
    | with_reducible first | assumption | rfl
    | (extract_lets +onlyGivenNames e
       first | refine Keeps.cut (e := e) ?_ (fun _ => ?_) <;> [subst e; clear_value e]
             | (have : Option _ := e; clear this; clear_value e) | skip)
    | with_reducible (
        first | apply Device.setTile_keeps | apply Device.setRun_keeps | apply Device.forgetWaits_keeps
              | apply Keeps.ite)
    | split
    | with_reducible (
        first | apply Keeps.foldl | apply Keeps.foldl_fst | apply Keeps.of_fst ‹_› | apply Keeps.put | apply Keeps.putLect)
    | intro _ _ _ | intro _ _
    | simp +zetaDelta only [setAt, List.length_set, List.length_map, List.length_zipIdx, Window.setIbi_events]; done

theorem Device.dropSaved_keeps {dev₀ d : Device} (kept : Keeps dev₀ d) (j : BitVec 16) :
    Keeps dev₀ (Device.dropSaved d j) :=
  kept.put rfl rfl rfl rfl rfl rfl rfl rfl rfl rfl

theorem Device.preemptFor_keeps {dev₀ d : Device} (kept : Keeps dev₀ d) (ts : List (Fin 4160)) :
    Keeps dev₀ (Device.preemptFor d ts) := by
  unfold Device.preemptFor
  iterate 30 try any_goals first
    | with_reducible first | assumption | rfl
    | (extract_lets +onlyGivenNames e
       first | refine Keeps.cut (e := e) ?_ (fun _ => ?_) <;> [subst e; clear_value e]
             | (have : Option _ := e; clear this; clear_value e) | skip)
    | with_reducible (
        first | apply Device.beginSave_keeps | apply Keeps.ite)
    | split
    | with_reducible (
        first | apply Keeps.foldl | apply Keeps.foldl_fst | apply Keeps.of_fst ‹_› | apply Keeps.put | apply Keeps.putLect)
    | intro _ _ _ | intro _ _
    | simp +zetaDelta only [setAt, List.length_set, List.length_map, List.length_zipIdx, Window.setIbi_events]; done

theorem Device.takeStep_keeps {dev₀ d : Device} (kept : Keeps dev₀ d) (r : JobRef) (p : Period) :
    Keeps dev₀ (Device.takeStep d r p) := by
  unfold Device.takeStep
  repeat' first
    | with_reducible assumption
    | (extract_lets +onlyGivenNames e
       first | refine Keeps.cut (e := e) ?_ (fun _ => ?_) <;> [subst e; clear_value e] | skip)
    | with_reducible (
        first | apply Device.setRun_keeps | apply Device.modPeriod_keeps | apply Device.markDone_keeps
              | apply Device.buildStep_keeps | apply Keeps.ite)
    | split

theorem Device.settleStart_keeps {dev₀ d : Device} (kept : Keeps dev₀ d) (r : JobRef) :
    Keeps dev₀ (Device.settleStart d r) := by
  unfold Device.settleStart
  repeat' first
    | with_reducible assumption
    | (extract_lets +onlyGivenNames e
       first | refine Keeps.cut (e := e) ?_ (fun _ => ?_) <;> [subst e; clear_value e] | skip)
    | with_reducible (
        first | apply Device.endWith_keeps | apply Device.sendStarts_keeps | apply Device.preemptFor_keeps
              | apply Device.takeStep_keeps | apply Keeps.ite)
    | split

theorem Device.settleStarts_keeps {dev₀ d : Device} (kept : Keeps dev₀ d) : Keeps dev₀ (Device.settleStarts d) := by
  unfold Device.settleStarts
  iterate 30 try any_goals first
    | with_reducible first | assumption | rfl
    | (extract_lets +onlyGivenNames e
       first | refine Keeps.cut (e := e) ?_ (fun _ => ?_) <;> [subst e; clear_value e]
             | (have : Option _ := e; clear this; clear_value e) | skip)
    | with_reducible (
        first | apply Device.settleStart_keeps | apply Keeps.ite)
    | split
    | with_reducible (
        first | apply Keeps.foldl | apply Keeps.foldl_fst | apply Keeps.of_fst ‹_› | apply Keeps.put | apply Keeps.putLect)
    | intro _ _ _ | intro _ _
    | simp +zetaDelta only [setAt, List.length_set, List.length_map, List.length_zipIdx, Window.setIbi_events]; done

theorem Device.launchTiles_keeps {dev₀ d : Device} (kept : Keeps dev₀ d) (r : JobRef) (p : Period) :
    Keeps dev₀ (Device.launchTiles d r p) := by
  unfold Device.launchTiles
  repeat' first
    | assumption | split
    | with_reducible (
        first | apply Device.queueChunks_keeps | apply Device.syncChunks_keeps | apply Device.settleStarts_keeps)

theorem Device.launch_keeps {dev₀ d : Device} (kept : Keeps dev₀ d) (r : JobRef) (p : Period) :
    Keeps dev₀ (Device.launch d r p) := by
  unfold Device.launch
  repeat' first
    | assumption | split
    | with_reducible (
        first | apply Device.needDom_keeps | apply Device.startPlanners_keeps | apply Device.startSolve_keeps
              | apply Device.needJob_keeps | apply Device.launchTiles_keeps)

theorem Device.startPeriod_keeps {dev₀ d : Device} (kept : Keeps dev₀ d) (r : JobRef) (x : JobRun) (s : Time) :
    Keeps dev₀ (Device.startPeriod d r x s) := by
  unfold Device.startPeriod
  repeat' first
    | with_reducible assumption
    | (extract_lets +onlyGivenNames e
       first | refine Keeps.cut (e := e) ?_ (fun _ => ?_) <;> [subst e; clear_value e] | skip)
    | with_reducible (
        first | apply Device.token_keeps | apply Device.setRun_keeps | apply Device.count_keeps
              | apply Device.finishModes_keeps | apply Device.ackJob_keeps | apply Device.launch_keeps
              | apply Keeps.ite)
    | split

theorem Device.lateEnd_keeps {dev₀ d : Device} (kept : Keeps dev₀ d) (j : BitVec 16) :
    Keeps dev₀ (Device.lateEnd d j) := by
  unfold Device.lateEnd
  repeat' first
    | with_reducible assumption
    | (extract_lets +onlyGivenNames e
       first | refine Keeps.cut (e := e) ?_ (fun _ => ?_) <;> [subst e; clear_value e] | skip)
    | with_reducible (
        first | apply Device.cancelPeriod_keeps | apply Device.modPeriod_keeps | apply Device.cleanUp_keeps
              | apply Device.startPlanners_keeps | apply Device.dropSaved_keeps | apply Device.settleStarts_keeps
              | apply Keeps.ite)
    | split

theorem Device.dropDue_keeps {dev₀ d : Device} (kept : Keeps dev₀ d) (r : JobRef) (x : JobRun) (s : Time) :
    Keeps dev₀ (Device.dropDue d r x s) := by
  unfold Device.dropDue
  repeat' first
    | assumption | split
    | with_reducible (
        first | apply Device.setRun_keeps | apply Device.count_keeps)

theorem Device.periodicDue_keeps {dev₀ d : Device} (kept : Keeps dev₀ d) (r : JobRef) (s : Time) :
    Keeps dev₀ (Device.periodicDue d r s) := by
  unfold Device.periodicDue
  repeat' first
    | with_reducible assumption
    | (extract_lets +onlyGivenNames e
       first | refine Keeps.cut (e := e) ?_ (fun _ => ?_) <;> [subst e; clear_value e] | skip)
    | with_reducible (
        first | apply Device.setRun_keeps | apply Device.startPeriod_keeps | apply Device.lateEnd_keeps
              | apply Device.dropDue_keeps | apply Device.gov_keeps | apply Keeps.ite)
    | split

theorem Device.hookStart_keeps {dev₀ d : Device} (kept : Keeps dev₀ d) (r : JobRef) :
    Keeps dev₀ (Device.hookStart d r) := by
  unfold Device.hookStart
  repeat' first
    | with_reducible assumption
    | (extract_lets +onlyGivenNames e
       first | refine Keeps.cut (e := e) ?_ (fun _ => ?_) <;> [subst e; clear_value e] | skip)
    | with_reducible (
        first | apply Device.setHook_keeps | apply Device.setRun_keeps | apply Device.count_keeps
              | apply Device.startPeriod_keeps | apply Keeps.ite)
    | split

theorem Device.startGranted_keeps {dev₀ d : Device} (kept : Keeps dev₀ d) (r : JobRef) (x : JobRun) :
    Keeps dev₀ (Device.startGranted d r x) := by
  unfold Device.startGranted
  repeat' first
    | with_reducible assumption
    | (extract_lets +onlyGivenNames e
       first | refine Keeps.cut (e := e) ?_ (fun _ => ?_) <;> [subst e; clear_value e] | skip)
    | with_reducible (
        first | apply Device.setHook_keeps | apply Device.count_keeps | apply Device.startPeriod_keeps
              | apply Keeps.ite)
    | split

theorem Device.considerGrant_keeps {dev₀ d : Device} (kept : Keeps dev₀ d) (r : JobRef) :
    Keeps dev₀ (Device.considerGrant d r) := by
  unfold Device.considerGrant
  repeat' first
    | with_reducible assumption
    | (extract_lets +onlyGivenNames e
       first | refine Keeps.cut (e := e) ?_ (fun _ => ?_) <;> [subst e; clear_value e] | skip)
    | with_reducible (
        first | apply Device.startGranted_keeps | apply Keeps.ite)
    | split

theorem Device.tileDone_keeps {dev₀ d : Device} (kept : Keeps dev₀ d) (j : BitVec 16) (t : Fin 4160) (nonfinite : Bool) :
    Keeps dev₀ (Device.tileDone d j t nonfinite) := by
  unfold Device.tileDone
  repeat' first
    | with_reducible assumption
    | (extract_lets +onlyGivenNames e
       first | refine Keeps.cut (e := e) ?_ (fun _ => ?_) <;> [subst e; clear_value e] | skip)
    | with_reducible (
        first | apply Device.setRun_keeps | apply Device.markDone_keeps | apply Device.seqState_keeps
              | apply Device.freeTiles_keeps | apply Device.settleStarts_keeps | apply Keeps.ite)
    | split

theorem Device.closePeriod_keeps {dev₀ d : Device} (kept : Keeps dev₀ d) (j : BitVec 16) (p : Period) (st : Status) (t : Time) :
    Keeps dev₀ (Device.closePeriod d j p st t) := by
  unfold Device.closePeriod
  repeat' first
    | assumption | split
    | with_reducible (
        first | apply Device.setRun_keeps)

theorem Device.publish_keeps {dev₀ d : Device} (kept : Keeps dev₀ d) (r : JobRef) (p : Period) (st : Status) (t : Time) :
    Keeps dev₀ (Device.publish d r p st t) := by
  unfold Device.publish
  repeat' first
    | with_reducible assumption
    | (extract_lets +onlyGivenNames e
       first | refine Keeps.cut (e := e) ?_ (fun _ => ?_) <;> [subst e; clear_value e] | skip)
    | with_reducible (
        first | apply Device.token_keeps | apply Device.signalHook_keeps | apply Device.count_keeps
              | apply Device.finishModes_keeps | apply Device.writeCompletion_keeps | apply Device.endStep_keeps
              | apply Device.endChunks_keeps | apply Device.publishAdapter_keeps | apply Device.ackJob_keeps
              | apply Device.freeTiles_keeps | apply Device.settleStop_keeps | apply Device.startPlanners_keeps
              | apply Device.settleStarts_keeps | apply Device.closePeriod_keeps | apply Keeps.ite)
    | split

theorem Device.periodComplete_keeps {dev₀ d : Device} (kept : Keeps dev₀ d) (j : BitVec 16) :
    Keeps dev₀ (Device.periodComplete d j) := by
  unfold Device.periodComplete
  repeat' first
    | with_reducible assumption
    | (extract_lets +onlyGivenNames e
       first | refine Keeps.cut (e := e) ?_ (fun _ => ?_) <;> [subst e; clear_value e] | skip)
    | with_reducible (
        first | apply Device.cleanUp_keeps | apply Device.startPlanners_keeps | apply Device.settleStarts_keeps
              | apply Device.lateEnd_keeps | apply Device.publish_keeps | apply Keeps.ite)
    | split

theorem Device.seedTiles_keeps {dev₀ d : Device} (kept : Keeps dev₀ d) (r : JobRef) :
    Keeps dev₀ (Device.seedTiles d r) := by
  unfold Device.seedTiles
  iterate 30 try any_goals first
    | with_reducible first | assumption | rfl
    | (extract_lets +onlyGivenNames e
       first | refine Keeps.cut (e := e) ?_ (fun _ => ?_) <;> [subst e; clear_value e]
             | (have : Option _ := e; clear this; clear_value e) | skip)
    | with_reducible (
        first | apply Device.bump_keeps | apply Device.setTile_keeps | apply Keeps.ite)
    | split
    | with_reducible (
        first | apply Keeps.foldl | apply Keeps.foldl_fst | apply Keeps.of_fst ‹_› | apply Keeps.put | apply Keeps.putLect)
    | intro _ _ _ | intro _ _
    | simp +zetaDelta only [setAt, List.length_set, List.length_map, List.length_zipIdx, Window.setIbi_events]; done

theorem Device.startJob_keeps {dev₀ d : Device} (kept : Keeps dev₀ d) (r : JobRef) :
    Keeps dev₀ (Device.startJob d r) := by
  unfold Device.startJob
  iterate 30 try any_goals first
    | with_reducible first | assumption | rfl
    | (extract_lets +onlyGivenNames e
       first | refine Keeps.cut (e := e) ?_ (fun _ => ?_) <;> [subst e; clear_value e]
             | (have : Option _ := e; clear this; clear_value e) | skip)
    | with_reducible (
        first | apply Device.setRun_keeps | apply Device.startSlot_keeps | apply Device.settleDomains_keeps
              | apply Device.startFusion_keeps | apply Device.needJob_keeps | apply Device.seedTiles_keeps
              | apply Keeps.ite)
    | split
    | with_reducible (
        first | apply Keeps.foldl | apply Keeps.foldl_fst | apply Keeps.of_fst ‹_› | apply Keeps.put | apply Keeps.putLect)
    | intro _ _ _ | intro _ _
    | simp +zetaDelta only [setAt, List.length_set, List.length_map, List.length_zipIdx, Window.setIbi_events]; done

theorem Device.stopJob_keeps {dev₀ d : Device} (kept : Keeps dev₀ d) (r : JobRef) :
    Keeps dev₀ (Device.stopJob d r) := by
  unfold Device.stopJob
  iterate 30 try any_goals first
    | with_reducible first | assumption | rfl
    | (extract_lets +onlyGivenNames e
       first | refine Keeps.cut (e := e) ?_ (fun _ => ?_) <;> [subst e; clear_value e]
             | (have : Option _ := e; clear this; clear_value e) | skip)
    | with_reducible (
        first | apply Device.setRun_keeps | apply Device.stopSlot_keeps | apply Device.settleStop_keeps
              | apply Device.endWith_keeps | apply Device.startPlanners_keeps | apply Device.stopFusion_keeps
              | apply Device.dropSaved_keeps | apply Device.settleStarts_keeps | apply Keeps.ite)
    | split
    | with_reducible (
        first | apply Keeps.foldl | apply Keeps.foldl_fst | apply Keeps.of_fst ‹_› | apply Keeps.put | apply Keeps.putLect)
    | intro _ _ _ | intro _ _
    | simp +zetaDelta only [setAt, List.length_set, List.length_map, List.length_zipIdx, Window.setIbi_events]; done

theorem Device.jobStart_keeps {dev₀ d : Device} (kept : Keeps dev₀ d) (n : Fin 64) :
    Keeps dev₀ (Device.jobStart d n) := by
  unfold Device.jobStart
  repeat' first
    | assumption | split
    | with_reducible (
        first | apply Device.win_keeps | apply Device.reply_keeps | apply Device.fail_keeps
              | apply Device.hold_keeps | apply Device.startJob_keeps)

theorem Device.jobStop_keeps {dev₀ d : Device} (kept : Keeps dev₀ d) (n : Fin 64) :
    Keeps dev₀ (Device.jobStop d n) := by
  unfold Device.jobStop
  repeat' first
    | assumption | split
    | with_reducible (
        first | apply Device.reply_keeps | apply Device.fail_keeps | apply Device.goOn_keeps
              | apply Device.stopJob_keeps)

theorem Device.modeChange_keeps {dev₀ d : Device} (kept : Keeps dev₀ d) (n : Fin 64) :
    Keeps dev₀ (Device.modeChange d n) := by
  unfold Device.modeChange
  iterate 30 try any_goals first
    | with_reducible first | assumption | rfl
    | (extract_lets +onlyGivenNames e
       first | refine Keeps.cut (e := e) ?_ (fun _ => ?_) <;> [subst e; clear_value e]
             | (have : Option _ := e; clear this; clear_value e) | skip)
    | with_reducible (
        first | apply Device.fail_keeps | apply Device.goOn_keeps | apply Device.finishModes_keeps
              | apply Keeps.ite)
    | split
    | with_reducible (
        first | apply Keeps.foldl | apply Keeps.foldl_fst | apply Keeps.of_fst ‹_› | apply Keeps.put | apply Keeps.putLect)
    | intro _ _ _ | intro _ _
    | simp +zetaDelta only [setAt, List.length_set, List.length_map, List.length_zipIdx, Window.setIbi_events]; done

theorem Device.overrunPreempt_keeps {dev₀ d : Device} (kept : Keeps dev₀ d) :
    Keeps dev₀ (Device.overrunPreempt d) := by
  unfold Device.overrunPreempt
  iterate 30 try any_goals first
    | with_reducible first | assumption | rfl
    | (extract_lets +onlyGivenNames e
       first | refine Keeps.cut (e := e) ?_ (fun _ => ?_) <;> [subst e; clear_value e]
             | (have : Option _ := e; clear this; clear_value e) | skip)
    | with_reducible (
        first | apply Device.beginSave_keeps | apply Device.gov_keeps | apply Keeps.ite)
    | split
    | with_reducible (
        first | apply Keeps.foldl | apply Keeps.foldl_fst | apply Keeps.of_fst ‹_› | apply Keeps.put | apply Keeps.putLect)
    | intro _ _ _ | intro _ _
    | simp +zetaDelta only [setAt, List.length_set, List.length_map, List.length_zipIdx, Window.setIbi_events]; done

theorem execDeadlineExpiry_keeps (now : Time) (job : BitVec 16) (s : State) :
    StepKeeps s (execDeadlineExpiry now job s) := by
  refine State.onUp_keeps fun e kept => ?_
  repeat' first
    | with_reducible assumption
    | (extract_lets +onlyGivenNames e
       first | refine Keeps.cut (e := e) ?_ (fun _ => ?_) <;> [subst e; clear_value e] | skip)
    | with_reducible (
        first | apply Device.lateEnd_keeps | apply Keeps.ite)
    | split

theorem execPeriodicPeriodStart_keeps (now : Time) (job : BitVec 16) (s : State) :
    StepKeeps s (execPeriodicPeriodStart now job s) := by
  refine State.onUp_keeps fun e kept => ?_
  repeat' first
    | assumption | split
    | with_reducible (
        first | apply Device.periodicDue_keeps)

theorem execHookTriggeredStart_keeps (now : Time) (job : BitVec 16) (s : State) :
    StepKeeps s (execHookTriggeredStart now job s) := by
  refine State.onUp_keeps fun e kept => ?_
  repeat' first
    | assumption | split
    | with_reducible (
        first | apply Device.syncChunks_keeps | apply Device.hookStart_keeps)

theorem execBackgroundGrant_keeps (now : Time) (s : State) : StepKeeps s (execBackgroundGrant now s) := by
  refine State.onUp_keeps fun e kept => ?_
  iterate 30 try any_goals first
    | with_reducible first | assumption | rfl
    | (extract_lets +onlyGivenNames e
       first | refine Keeps.cut (e := e) ?_ (fun _ => ?_) <;> [subst e; clear_value e]
             | (have : Option _ := e; clear this; clear_value e) | skip)
    | with_reducible (
        first | apply Device.considerGrant_keeps | apply Keeps.ite)
    | split
    | with_reducible (
        first | apply Keeps.foldl | apply Keeps.foldl_fst | apply Keeps.of_fst ‹_› | apply Keeps.put | apply Keeps.putLect)
    | intro _ _ _ | intro _ _
    | simp +zetaDelta only [setAt, List.length_set, List.length_map, List.length_zipIdx, Window.setIbi_events]; done

theorem execSaveBegin_keeps (now : Time) (job : BitVec 16) (s : State) : StepKeeps s (execSaveBegin now job s) := by
  refine State.onUp_keeps fun e kept => ?_
  repeat' first
    | with_reducible assumption
    | (extract_lets +onlyGivenNames e
       first | refine Keeps.cut (e := e) ?_ (fun _ => ?_) <;> [subst e; clear_value e] | skip)
    | with_reducible (
        first | apply Device.beginSave_keeps | apply Device.gov_keeps | apply Keeps.ite)
    | split

theorem execPeriodComplete_keeps (now : Time) (job : BitVec 16) (s : State) :
    StepKeeps s (execPeriodComplete now job s) := by
  refine State.onUp_keeps fun e kept => ?_
  repeat' first
    | assumption | split
    | with_reducible (
        first | apply Device.periodComplete_keeps)

theorem execSlotSwapOut_keeps (now : Time) (drawer : Fin 64) (s : State) :
    StepKeeps s (execSlotSwapOut now drawer s) := by
  refine State.drawerCommand_keeps fun e kept => ?_
  repeat' first
    | assumption | split
    | with_reducible (
        first | apply Device.slotSwapOut_keeps)

theorem execSlotSwapIn_keeps (now : Time) (drawer : Fin 64) (s : State) :
    StepKeeps s (execSlotSwapIn now drawer s) := by
  refine State.drawerCommand_keeps fun e kept => ?_
  repeat' first
    | assumption | split
    | with_reducible (
        first | apply Device.slotSwapIn_keeps)

theorem execSlotWithdraw_keeps (now : Time) (drawer : Fin 64) (s : State) :
    StepKeeps s (execSlotWithdraw now drawer s) := by
  refine State.drawerCommand_keeps fun e kept => ?_
  repeat' first
    | assumption | split
    | with_reducible (
        first | apply Device.slotWithdraw_keeps | apply Device.settleStarts_keeps)

theorem execSwapOutDone_keeps (now : Time) (found : SlotRead) (s : State) :
    StepKeeps s (execSwapOutDone now found s) := by
  refine State.onUp_keeps fun e kept => ?_
  repeat' first
    | assumption | split
    | with_reducible (
        first | apply Device.swapOutDone_keeps | apply Device.settleStarts_keeps)

theorem execSwapInDone_keeps (now : Time) (slot : Fin 4096) (uncorrectable : Bool) (s : State) :
    StepKeeps s (execSwapInDone now slot uncorrectable s) := by
  refine State.onUp_keeps fun e kept => ?_
  repeat' first
    | assumption | split
    | with_reducible (
        first | apply Device.swapInDone_keeps | apply Device.settleStarts_keeps)

theorem execOutputWrite_keeps (now : Time) (slot : Fin 256) (finding : ScrubFinding) (s : State) :
    StepKeeps s (execOutputWrite now slot finding s) := by
  refine State.onUp_keeps fun e kept => ?_
  repeat' first
    | with_reducible assumption
    | (extract_lets +onlyGivenNames e
       first | refine Keeps.cut (e := e) ?_ (fun _ => ?_) <;> [subst e; clear_value e] | skip)
    | with_reducible (
        first | apply Device.writeSlot_keeps | apply Device.settleStop_keeps | apply Device.settleStarts_keeps
              | apply Device.stopJob_keeps | apply Keeps.ite)
    | split

theorem execJobStart_keeps (now : Time) (drawer : Fin 64) (s : State) : StepKeeps s (execJobStart now drawer s) := by
  refine State.drawerCommand_keeps fun e kept => ?_
  repeat' first
    | assumption | split
    | with_reducible (
        first | apply Device.jobStart_keeps)

theorem execJobStop_keeps (now : Time) (drawer : Fin 64) (s : State) : StepKeeps s (execJobStop now drawer s) := by
  refine State.drawerCommand_keeps fun e kept => ?_
  repeat' first
    | assumption | split
    | with_reducible (
        first | apply Device.jobStop_keeps)

theorem execModeChange_keeps (now : Time) (drawer : Fin 64) (s : State) :
    StepKeeps s (execModeChange now drawer s) := by
  refine State.drawerCommand_keeps fun e kept => ?_
  repeat' first
    | assumption | split
    | with_reducible (
        first | apply Device.modeChange_keeps)

theorem execPowerOverrunPreempt_keeps (now : Time) (s : State) : StepKeeps s (execPowerOverrunPreempt now s) := by
  refine State.onUp_keeps fun e kept => ?_
  repeat' first
    | assumption | split
    | with_reducible (
        first | apply Device.overrunPreempt_keeps | apply Device.gov_keeps)

end Sys2Proof.Machine
end

