-- ==== Sys2Proof/Laws/KeepsFence.lean ====
section
/-!
SUPPORT. What the operations of `Machine/Fence` keep: the invariants of `Safety`, a held safe state and the fuses.
-/

set_option linter.all false

namespace Sys2Proof.Machine

theorem Device.setPart_keeps {dev₀ d : Device} (kept : Keeps dev₀ d) (p : Nat) (x : Partition) :
    Keeps dev₀ (Device.setPart d p x) := by
  unfold Device.setPart
  iterate 30 try any_goals first
    | with_reducible first | assumption | rfl
    | (extract_lets +onlyGivenNames e
       first | refine Keeps.cut (e := e) ?_ (fun _ => ?_) <;> [subst e; clear_value e]
             | (have : Option _ := e; clear this; clear_value e) | skip)
    | with_reducible (
        first | apply Keeps.ite)
    | split
    | with_reducible (
        first | apply Keeps.foldl | apply Keeps.foldl_fst | apply Keeps.of_fst ‹_› | apply Keeps.put | apply Keeps.putLect)
    | intro _ _ _ | intro _ _
    | simp +zetaDelta only [setAt, List.length_set, List.length_map, List.length_zipIdx, Window.setIbi_events]; done

theorem Device.beginBoundary_keeps {dev₀ d : Device} (kept : Keeps dev₀ d) (p : Nat) (k : BoundaryKind) :
    Keeps dev₀ (Device.beginBoundary d p k) := by
  unfold Device.beginBoundary
  iterate 30 try any_goals first
    | with_reducible first | assumption | rfl
    | (extract_lets +onlyGivenNames e
       first | refine Keeps.cut (e := e) ?_ (fun _ => ?_) <;> [subst e; clear_value e]
             | (have : Option _ := e; clear this; clear_value e) | skip)
    | with_reducible (
        first | apply Device.endWith_keeps | apply Device.dropSaved_keeps | apply Device.setPart_keeps
              | apply Keeps.ite)
    | split
    | with_reducible (
        first | apply Keeps.foldl | apply Keeps.foldl_fst | apply Keeps.of_fst ‹_› | apply Keeps.put | apply Keeps.putLect)
    | intro _ _ _ | intro _ _
    | simp +zetaDelta only [setAt, List.length_set, List.length_map, List.length_zipIdx, Window.setIbi_events]; done

theorem Device.initTile_keeps {dev₀ d : Device} (kept : Keeps dev₀ d) (s id : Nat) :
    Keeps dev₀ (Device.initTile d s id) :=
  kept.put rfl rfl rfl rfl rfl rfl rfl rfl rfl rfl

theorem Device.loadTile_keeps {dev₀ d : Device} (kept : Keeps dev₀ d) (s id : Nat) :
    Keeps dev₀ (Device.loadTile d s id) :=
  kept.put rfl rfl rfl rfl rfl rfl rfl rfl rfl rfl

theorem Device.mapSpare_keeps {dev₀ d : Device} (kept : Keeps dev₀ d) (id : Nat) :
    Keeps dev₀ (Device.mapSpare d id) := by
  unfold Device.mapSpare
  repeat' first
    | assumption | split
    | with_reducible (
        first | apply Device.setTile_keeps | apply Device.loadTile_keeps)

theorem Device.applySpares_keeps {dev₀ d : Device} (kept : Keeps dev₀ d) (p : Nat) :
    Keeps dev₀ (Device.applySpares d p) := by
  unfold Device.applySpares
  iterate 30 try any_goals first
    | with_reducible first | assumption | rfl
    | (extract_lets +onlyGivenNames e
       first | refine Keeps.cut (e := e) ?_ (fun _ => ?_) <;> [subst e; clear_value e]
             | (have : Option _ := e; clear this; clear_value e) | skip)
    | with_reducible (
        first | apply Device.mapSpare_keeps | apply Keeps.ite)
    | split
    | with_reducible (
        first | apply Keeps.foldl | apply Keeps.foldl_fst | apply Keeps.of_fst ‹_› | apply Keeps.put | apply Keeps.putLect)
    | intro _ _ _ | intro _ _
    | simp +zetaDelta only [setAt, List.length_set, List.length_map, List.length_zipIdx, Window.setIbi_events]; done

theorem Device.stopFenced_keeps {dev₀ d : Device} (kept : Keeps dev₀ d) (p : Nat) :
    Keeps dev₀ (Device.stopFenced d p) := by
  unfold Device.stopFenced
  iterate 30 try any_goals first
    | with_reducible first | assumption | rfl
    | (extract_lets +onlyGivenNames e
       first | refine Keeps.cut (e := e) ?_ (fun _ => ?_) <;> [subst e; clear_value e]
             | (have : Option _ := e; clear this; clear_value e) | skip)
    | with_reducible (
        first | apply Device.setRun_keeps | apply Keeps.ite)
    | split
    | with_reducible (
        first | apply Keeps.foldl | apply Keeps.foldl_fst | apply Keeps.of_fst ‹_› | apply Keeps.put | apply Keeps.putLect)
    | intro _ _ _ | intro _ _
    | simp +zetaDelta only [setAt, List.length_set, List.length_map, List.length_zipIdx, Window.setIbi_events]; done

theorem Device.boundaryStep4_keeps {dev₀ d : Device} (kept : Keeps dev₀ d) (p : Nat) :
    Keeps dev₀ (Device.boundaryStep4 d p) := by
  unfold Device.boundaryStep4
  iterate 30 try any_goals first
    | with_reducible first | assumption | rfl
    | (extract_lets +onlyGivenNames e
       first | refine Keeps.cut (e := e) ?_ (fun _ => ?_) <;> [subst e; clear_value e]
             | (have : Option _ := e; clear this; clear_value e) | skip)
    | with_reducible (
        first | apply Device.restartStreams_keeps | apply Device.resetJobHooks_keeps
              | apply Device.applySpares_keeps | apply Device.stopFenced_keeps | apply Keeps.ite)
    | split
    | with_reducible (
        first | apply Keeps.foldl | apply Keeps.foldl_fst | apply Keeps.of_fst ‹_› | apply Keeps.put | apply Keeps.putLect)
    | intro _ _ _ | intro _ _
    | simp +zetaDelta only [setAt, List.length_set, List.length_map, List.length_zipIdx, Window.setIbi_events]; done

theorem Device.fenceTile_keeps {dev₀ d : Device} (kept : Keeps dev₀ d) (t : Fin 4160) :
    Keeps dev₀ (Device.fenceTile d t) := by
  unfold Device.fenceTile
  iterate 30 try any_goals first
    | with_reducible first | assumption | rfl
    | (extract_lets +onlyGivenNames e
       first | refine Keeps.cut (e := e) ?_ (fun _ => ?_) <;> [subst e; clear_value e]
             | (have : Option _ := e; clear this; clear_value e) | skip)
    | with_reducible (
        first | apply Device.notify_keeps | apply Device.setTile_keeps | apply Device.persist_keeps
              | apply Device.endWith_keeps | apply Device.beginBoundary_keeps | apply Device.mapSpare_keeps
              | apply Keeps.ite)
    | split
    | with_reducible (
        first | apply Keeps.foldl | apply Keeps.foldl_fst | apply Keeps.of_fst ‹_› | apply Keeps.put | apply Keeps.putLect)
    | intro _ _ _ | intro _ _
    | simp +zetaDelta only [setAt, List.length_set, List.length_map, List.length_zipIdx, Window.setIbi_events]; done

theorem Device.addBucket_keeps {dev₀ d : Device} (kept : Keeps dev₀ d) (t : Fin 4160) :
    Keeps dev₀ (Device.addBucket d t) := by
  unfold Device.addBucket
  repeat' first
    | with_reducible assumption
    | (extract_lets +onlyGivenNames e
       first | refine Keeps.cut (e := e) ?_ (fun _ => ?_) <;> [subst e; clear_value e] | skip)
    | with_reducible (
        first | apply Device.setTile_keeps | apply Device.fenceTile_keeps | apply Keeps.ite)
    | split

theorem execBucketLeak_keeps (now : Time) (s : State) : StepKeeps s (execBucketLeak now s) := by
  refine State.onUp_keeps fun e kept => ?_
  iterate 30 try any_goals first
    | with_reducible first | assumption | rfl
    | (extract_lets +onlyGivenNames e
       first | refine Keeps.cut (e := e) ?_ (fun _ => ?_) <;> [subst e; clear_value e]
             | (have : Option _ := e; clear this; clear_value e) | skip)
    | with_reducible (
        first | apply Keeps.ite)
    | split
    | with_reducible (
        first | apply Keeps.foldl | apply Keeps.foldl_fst | apply Keeps.of_fst ‹_› | apply Keeps.put | apply Keeps.putLect)
    | intro _ _ _ | intro _ _
    | simp +zetaDelta only [setAt, List.length_set, List.length_map, List.length_zipIdx, Window.setIbi_events]; done

end Sys2Proof.Machine
end

