-- ==== Sys2Proof/Laws/KeepsTile.lean ====
section
/-!
SUPPORT. What the operations of `Machine/Tile` keep: the invariants of `Safety`, a held safe state and the fuses.
-/

set_option linter.all false

namespace Sys2Proof.Machine

theorem Device.tileSignal_keeps {dev₀ d : Device} (kept : Keeps dev₀ d) (t : Fin 4160) (hook n : Nat) :
    Keeps dev₀ (Device.tileSignal d t hook n) := by
  unfold Device.tileSignal
  iterate 30 try any_goals first
    | with_reducible first | assumption | rfl
    | (extract_lets +onlyGivenNames e
       first | refine Keeps.cut (e := e) ?_ (fun _ => ?_) <;> [subst e; clear_value e]
             | (have : Option _ := e; clear this; clear_value e) | skip)
    | with_reducible (
        first | apply Keeps.ite)
    | split
    | with_reducible (
        first | apply Keeps.foldl | apply Keeps.foldl_fst | apply Keeps.of_fst ‹_› | apply Keeps.put | apply Keeps.putLect)
    | intro _ _ _ | intro _ _
    | simp +zetaDelta only [setAt, List.length_set, List.length_map, List.length_zipIdx, Window.setIbi_events]; done

theorem Device.tileWithhold_keeps {dev₀ d : Device} (kept : Keeps dev₀ d) (t : Fin 4160) (st : Status) :
    Keeps dev₀ (Device.tileWithhold d t st) := by
  unfold Device.tileWithhold
  repeat' first
    | assumption | split
    | with_reducible (
        first | apply Device.endWith_keeps)

theorem Device.tileAccess_keeps {dev₀ d : Device} (kept : Keeps dev₀ d) (t : Fin 4160) :
    Keeps dev₀ (Device.tileAccess d t) := by
  unfold Device.tileAccess
  repeat' first
    | assumption | split
    | with_reducible (
        first | apply Device.withholdStop_keeps | apply Device.cleanUp_keeps)

theorem Device.consumePoison_keeps {dev₀ d : Device} (kept : Keeps dev₀ d) (t : Fin 4160) :
    Keeps dev₀ (Device.consumePoison d t) := by
  unfold Device.consumePoison
  repeat' first
    | with_reducible assumption
    | (extract_lets +onlyGivenNames e
       first | refine Keeps.cut (e := e) ?_ (fun _ => ?_) <;> [subst e; clear_value e] | skip)
    | with_reducible (
        first | apply Device.addBucket_keeps | apply Device.tileWithhold_keeps | apply Keeps.ite)
    | split

theorem Device.settleTile_keeps {dev₀ d : Device} (kept : Keeps dev₀ d) (t : Fin 4160) :
    Keeps dev₀ (Device.settleTile d t) := by
  unfold Device.settleTile
  iterate 30 try any_goals first
    | with_reducible first | assumption | rfl
    | (extract_lets +onlyGivenNames e
       first | refine Keeps.cut (e := e) ?_ (fun _ => ?_) <;> [subst e; clear_value e]
             | (have : Option _ := e; clear this; clear_value e) | skip)
    | with_reducible (
        first | apply Device.setTile_keeps | apply Device.consumePoison_keeps | apply Keeps.ite)
    | split
    | with_reducible (
        first | apply Keeps.foldl | apply Keeps.foldl_fst | apply Keeps.of_fst ‹_› | apply Keeps.put | apply Keeps.putLect)
    | intro _ _ _ | intro _ _
    | simp +zetaDelta only [setAt, List.length_set, List.length_map, List.length_zipIdx, Window.setIbi_events]; done

theorem Device.dmaRead_keeps {dev₀ d : Device} (kept : Keeps dev₀ d) (p a n : Nat) (me : List LineError) :
    Keeps dev₀ (Device.dmaRead d p a n me).1 := by
  unfold Device.dmaRead
  iterate 30 try any_goals first
    | with_reducible first | assumption | rfl
    | (extract_lets +onlyGivenNames e
       first | refine Keeps.cut (e := e) ?_ (fun _ => ?_) <;> [subst e; clear_value e]
             | (have : Option _ := e; clear this; clear_value e) | skip)
    | with_reducible (
        first | apply Device.demandRead_keeps | apply Keeps.ite)
    | split
    | with_reducible (
        first | apply Keeps.foldl | apply Keeps.foldl_fst | apply Keeps.of_fst ‹_› | apply Keeps.put | apply Keeps.putLect)
    | intro _ _ _ | intro _ _
    | simp +zetaDelta only [setAt, List.length_set, List.length_map, List.length_zipIdx, Window.setIbi_events]; done

theorem Device.cacheErrors_keeps {dev₀ d : Device} (kept : Keeps dev₀ d) (ce : ChipErrors) :
    Keeps dev₀ (d.cacheErrors ce) := by
  unfold Device.cacheErrors
  refine Keeps.foldl _ (fun e b ke => ?_) (chipCount_keeps kept ..)
  dsimp only
  split
  · exact ke
  · exact Keeps.ite (ke.putMain fun w => Memory.spoil_wf _ w) (ke.put rfl rfl rfl rfl rfl rfl rfl rfl rfl rfl)

theorem Device.acceptStart_keeps {dev₀ d : Device} (kept : Keeps dev₀ d) (t : Fin 4160) :
    Keeps dev₀ (Device.acceptStart d t) := by
  unfold Device.acceptStart
  repeat' first
    | with_reducible assumption
    | (extract_lets +onlyGivenNames e
       first | refine Keeps.cut (e := e) ?_ (fun _ => ?_) <;> [subst e; clear_value e] | skip)
    | with_reducible (
        first | apply Device.bump_keeps | apply Device.setTile_keeps | apply Device.settleTile_keeps
              | apply Keeps.ite)
    | split

theorem Device.atCommand_keeps {dev₀ d : Device} (kept : Keeps dev₀ d) (t : Fin 4160) (op : Nat) (f : TileState → BitVec 128 → Option TileState) :
    Keeps dev₀ (Device.atCommand d t op f) := by
  unfold Device.atCommand
  repeat' first
    | with_reducible assumption
    | (extract_lets +onlyGivenNames e
       first | refine Keeps.cut (e := e) ?_ (fun _ => ?_) <;> [subst e; clear_value e] | skip)
    | with_reducible (
        first | apply Device.setTile_keeps | apply Keeps.ite)
    | split

theorem Device.tileEnd_keeps {dev₀ d : Device} (kept : Keeps dev₀ d) (t : Fin 4160) :
    Keeps dev₀ (Device.tileEnd d t) := by
  unfold Device.tileEnd
  repeat' first
    | with_reducible assumption
    | (extract_lets +onlyGivenNames e
       first | refine Keeps.cut (e := e) ?_ (fun _ => ?_) <;> [subst e; clear_value e] | skip)
    | with_reducible (
        first | apply Device.setTile_keeps | apply Device.count_keeps | apply Device.tileDone_keeps
              | apply Device.tileSignal_keeps | apply Keeps.ite)
    | split

theorem Device.refill_keeps {dev₀ d : Device} (kept : Keeps dev₀ d) (t : Fin 4160) (me : List LineError) :
    Keeps dev₀ (Device.refill d t me) := by
  unfold Device.refill
  iterate 30 try any_goals first
    | with_reducible first | assumption | rfl
    | (extract_lets +onlyGivenNames e
       first | refine Keeps.cut (e := e) ?_ (fun _ => ?_) <;> [subst e; clear_value e]
             | (have : Option _ := e; clear this; clear_value e) | skip)
    | with_reducible (
        first | apply Device.cacheTouch_keeps | apply Device.setTile_keeps | apply Device.settleTile_keeps
              | apply Device.dmaRead_keeps | apply Keeps.ite)
    | split
    | with_reducible (
        first | apply Keeps.foldl | apply Keeps.foldl_fst | apply Keeps.of_fst ‹_› | apply Keeps.put | apply Keeps.putLect)
    | intro _ _ _ | intro _ _
    | simp +zetaDelta only [setAt, List.length_set, List.length_map, List.length_zipIdx, Window.setIbi_events]; done

theorem Device.tileTry_keeps {dev₀ d : Device} (kept : Keeps dev₀ d) (t : Fin 4160) :
    Keeps dev₀ (Device.tileTry d t) := by
  unfold Device.tileTry
  iterate 30 try any_goals first
    | with_reducible first | assumption | rfl
    | (extract_lets +onlyGivenNames e
       first | refine Keeps.cut (e := e) ?_ (fun _ => ?_) <;> [subst e; clear_value e]
             | (have : Option _ := e; clear this; clear_value e) | skip)
    | with_reducible (
        first | apply Device.count_keeps | apply Device.atCommand_keeps | apply Keeps.ite)
    | split
    | with_reducible (
        first | apply Keeps.foldl | apply Keeps.foldl_fst | apply Keeps.of_fst ‹_› | apply Keeps.put | apply Keeps.putLect)
    | intro _ _ _ | intro _ _
    | simp +zetaDelta only [setAt, List.length_set, List.length_map, List.length_zipIdx, Window.setIbi_events]; done

theorem Device.popUnit_keeps {dev₀ d : Device} (kept : Keeps dev₀ d) (t : Fin 4160) (k : Nat) :
    Keeps dev₀ (Device.popUnit d t k) :=
  kept.put rfl rfl rfl rfl rfl rfl rfl rfl rfl rfl

theorem Device.runGate_keeps {dev₀ d : Device} (kept : Keeps dev₀ d) (t : Fin 4160) (se : StoreErrors) (e : QEntry) :
    Keeps dev₀ (Device.runGate d t se e) := by
  unfold Device.runGate
  repeat' first
    | with_reducible assumption
    | (extract_lets +onlyGivenNames e
       first | refine Keeps.cut (e := e) ?_ (fun _ => ?_) <;> [subst e; clear_value e] | skip)
    | with_reducible (
        first | apply Device.setTile_keeps | apply Device.storeRead_keeps | apply Device.consumePoison_keeps
              | apply Keeps.ite)
    | split

theorem Device.sendAck_keeps {dev₀ d : Device} (kept : Keeps dev₀ d) (t : Fin 4160) (i : Nat) :
    Keeps dev₀ (Device.sendAck d t i) := by
  unfold Device.sendAck
  repeat' first
    | with_reducible assumption
    | (extract_lets +onlyGivenNames e
       first | refine Keeps.cut (e := e) ?_ (fun _ => ?_) <;> [subst e; clear_value e] | skip)
    | with_reducible (
        first | apply Device.setTile_keeps | apply Device.count_keeps | apply Device.tileSignal_keeps
              | apply Device.tileWithhold_keeps | apply Device.settleTile_keeps | apply Keeps.ite)
    | split

theorem Device.startDma_keeps {dev₀ d : Device} (kept : Keeps dev₀ d) (t : Fin 4160) (r : JobRef) (e : QEntry) (out : Bool) (me : List LineError) :
    Keeps dev₀ (Device.startDma d t r e out me) := by
  unfold Device.startDma
  iterate 30 try any_goals first
    | with_reducible first | assumption | rfl
    | (extract_lets +onlyGivenNames e
       first | refine Keeps.cut (e := e) ?_ (fun _ => ?_) <;> [subst e; clear_value e]
             | (have : Option _ := e; clear this; clear_value e) | skip)
    | with_reducible (
        first | apply Device.cacheTouch_keeps | apply Device.setTile_keeps | apply Device.count_keeps
              | apply Device.tileAccess_keeps | apply Device.dmaRead_keeps | apply Device.popUnit_keeps
              | apply Keeps.ite)
    | split
    | with_reducible (
        first | apply Keeps.foldl | apply Keeps.foldl_fst | apply Keeps.of_fst ‹_› | apply Keeps.put | apply Keeps.putLect)
    | intro _ _ _ | intro _ _
    | simp +zetaDelta only [setAt, List.length_set, List.length_map, List.length_zipIdx, Window.setIbi_events]; done

theorem Device.readDesc_keeps {dev₀ d : Device} (kept : Keeps dev₀ d) (t : Fin 4160) (e : QEntry) (se : StoreErrors) :
    Keeps dev₀ (Device.readDesc d t e se).1 :=
  kept.put rfl rfl rfl rfl rfl rfl rfl rfl rfl rfl

theorem Device.dmaVisible_keeps {dev₀ d : Device} (kept : Keeps dev₀ d) (t : Fin 4160) :
    Keeps dev₀ (Device.dmaVisible d t) := by
  unfold Device.dmaVisible
  iterate 30 try any_goals first
    | with_reducible first | assumption | rfl
    | (extract_lets +onlyGivenNames e
       first | refine Keeps.cut (e := e) ?_ (fun _ => ?_) <;> [subst e; clear_value e]
             | (have : Option _ := e; clear this; clear_value e) | skip)
    | with_reducible (
        first | apply Device.writeViewBytes_keeps | apply Device.cacheTouch_keeps | apply Device.wroteLine_keeps
              | apply Device.setTile_keeps | apply Device.count_keeps | apply Device.tileSignal_keeps
              | apply Device.settleTile_keeps | apply Keeps.ite)
    | split
    | with_reducible (
        first | apply Keeps.foldl | apply Keeps.foldl_fst | apply Keeps.of_fst ‹_› | apply Keeps.put | apply Keeps.putLect)
    | intro _ _ _ | intro _ _
    | simp +zetaDelta only [setAt, List.length_set, List.length_map, List.length_zipIdx, Window.setIbi_events]; done

theorem Device.tileStopped_keeps {dev₀ d : Device} (kept : Keeps dev₀ d) (t : Fin 4160) :
    Keeps dev₀ (Device.tileStopped d t) := by
  unfold Device.tileStopped
  repeat' first
    | with_reducible assumption
    | (extract_lets +onlyGivenNames e
       first | refine Keeps.cut (e := e) ?_ (fun _ => ?_) <;> [subst e; clear_value e] | skip)
    | with_reducible (
        first | apply Device.setTile_keeps | apply Device.setRun_keeps | apply Device.cleanUp_keeps
              | apply Device.startPlanners_keeps | apply Device.settleStarts_keeps | apply Keeps.ite)
    | split

theorem State.onTile_keeps {now : Time} {s : State} {t : Fin 4160} {f : Device → TileState → Device}
    (h : ∀ d y, Keeps s.dev d → Keeps s.dev (f d y)) : StepKeeps s (s.onTile now t f) :=
  onUp_keeps fun d k => Keeps.ite (Device.settleTile_keeps (h d _ k) t) k

theorem execTileStart_keeps (now : Time) (tile : Fin 4160) (s : State) : StepKeeps s (execTileStart now tile s) := by
  refine State.onUp_keeps fun e kept => ?_
  repeat' first
    | assumption | split
    | with_reducible (
        first | apply Device.acceptStart_keeps)

theorem execLoopBody_keeps (now : Time) (tile : Fin 4160) (s : State) : StepKeeps s (execLoopBody now tile s) := by
  refine State.onTile_keeps fun e y kept => ?_
  repeat' first
    | assumption | split
    | with_reducible (
        first | apply Device.count_keeps | apply Device.atCommand_keeps)

theorem execBranchEpoch_keeps (now : Time) (tile : Fin 4160) (s : State) :
    StepKeeps s (execBranchEpoch now tile s) := by
  refine State.onTile_keeps fun e y kept => ?_
  repeat' first
    | assumption | split
    | with_reducible (
        first | apply Device.atCommand_keeps)

theorem execEndProgram_keeps (now : Time) (tile : Fin 4160) (s : State) :
    StepKeeps s (execEndProgram now tile s) := by
  refine State.onTile_keeps fun e y kept => ?_
  repeat' first
    | assumption | split
    | with_reducible (
        first | apply Device.tileEnd_keeps)

theorem execRefillDone_keeps (now : Time) (found : RefillRead) (s : State) :
    StepKeeps s (execRefillDone now found s) := by
  refine State.onUp_keeps fun e kept => ?_
  repeat' first
    | assumption | split
    | with_reducible (
        first | apply Device.cacheErrors_keeps | apply Device.refill_keeps)

theorem execHookWait_keeps (now : Time) (tile : Fin 4160) (s : State) : StepKeeps s (execHookWait now tile s) := by
  refine State.onTile_keeps fun e y kept => ?_
  repeat' first
    | assumption | split
    | with_reducible (
        first | apply Device.count_keeps | apply Device.atCommand_keeps)

theorem execHookWaitTry_keeps (now : Time) (tile : Fin 4160) (s : State) :
    StepKeeps s (execHookWaitTry now tile s) := by
  refine State.onTile_keeps fun e y kept => ?_
  repeat' first
    | assumption | split
    | with_reducible (
        first | apply Device.tileTry_keeps)

theorem execHookSignal_keeps (now : Time) (tile : Fin 4160) (s : State) :
    StepKeeps s (execHookSignal now tile s) := by
  refine State.onTile_keeps fun e y kept => ?_
  repeat' first
    | assumption | split
    | with_reducible (
        first | apply Device.count_keeps | apply Device.atCommand_keeps)

theorem execHookWaitDone_keeps (now : Time) (tile : Fin 4160) (s : State) :
    StepKeeps s (execHookWaitDone now tile s) := by
  refine State.onTile_keeps fun e y kept => ?_
  repeat' first
    | assumption | split
    | with_reducible (
        first | apply Device.setTile_keeps)

theorem execLoadW_keeps (now : Time) (tile : Fin 4160) (se : StoreErrors) (s : State) :
    StepKeeps s (execLoadW now tile se s) := by
  refine State.onTile_keeps fun e y kept => ?_
  repeat' first
    | with_reducible assumption
    | (extract_lets +onlyGivenNames e
       first | refine Keeps.cut (e := e) ?_ (fun _ => ?_) <;> [subst e; clear_value e] | skip)
    | with_reducible (
        first | apply Device.setTile_keeps | apply Device.storeRead_keeps | apply Device.popUnit_keeps
              | apply Keeps.ite)
    | split

theorem execArrayPass_keeps (now : Time) (tile : Fin 4160) (se : StoreErrors) (s : State) :
    StepKeeps s (execArrayPass now tile se s) := by
  refine State.onTile_keeps fun e y kept => ?_
  repeat' first
    | with_reducible assumption
    | (extract_lets +onlyGivenNames e
       first | refine Keeps.cut (e := e) ?_ (fun _ => ?_) <;> [subst e; clear_value e] | skip)
    | with_reducible (
        first | apply Device.setTile_keeps | apply Device.storeRead_keeps | apply Device.consumePoison_keeps
              | apply Device.popUnit_keeps | apply Keeps.ite)
    | split

theorem execDrain_keeps (now : Time) (tile : Fin 4160) (s : State) : StepKeeps s (execDrain now tile s) := by
  refine State.onTile_keeps fun e y kept => ?_
  repeat' first
    | assumption | split
    | with_reducible (
        first | apply Device.setTile_keeps)

theorem execGateChain_keeps (now : Time) (tile : Fin 4160) (fromDrain : Bool) (se : StoreErrors) (s : State) :
    StepKeeps s (execGateChain now tile fromDrain se s) := by
  refine State.onTile_keeps fun e y kept => ?_
  repeat' first
    | assumption | split
    | with_reducible (
        first | apply Device.runGate_keeps)

theorem execChecksumCompare_keeps (now : Time) (tile : Fin 4160) (faults : List (Nat × SumFault)) (s : State) :
    StepKeeps s (execChecksumCompare now tile faults s) := by
  refine State.onTile_keeps fun e y kept => ?_
  repeat' first
    | assumption | split
    | with_reducible (
        first | apply Device.setTile_keeps | apply Device.addBucket_keeps | apply Device.tileWithhold_keeps)

theorem execMeshSend_keeps (now : Time) (tile : Fin 4160) (se : StoreErrors) (s : State) :
    StepKeeps s (execMeshSend now tile se s) := by
  refine State.onTile_keeps fun e y kept => ?_
  repeat' first
    | with_reducible assumption
    | (extract_lets +onlyGivenNames e
       first | refine Keeps.cut (e := e) ?_ (fun _ => ?_) <;> [subst e; clear_value e] | skip)
    | with_reducible (
        first | apply Device.setTile_keeps | apply Device.count_keeps | apply Device.storeRead_keeps
              | apply Device.tileWithhold_keeps | apply Device.consumePoison_keeps | apply Device.popUnit_keeps
              | apply Keeps.ite)
    | split

theorem execSendAcknowledged_keeps (now : Time) (send : SendRef) (s : State) :
    StepKeeps s (execSendAcknowledged now send s) := by
  refine State.onUp_keeps fun e kept => ?_
  repeat' first
    | assumption | split
    | with_reducible (
        first | apply Device.sendAck_keeps)

theorem execDmaIn_keeps (now : Time) (tile : Fin 4160) (found : DmaReads) (ce : ChipErrors) (s : State) :
    StepKeeps s (execDmaIn now tile found ce s) := by
  refine State.onTile_keeps fun e y kept => ?_
  repeat' first
    | with_reducible assumption
    | (extract_lets +onlyGivenNames e
       first | refine Keeps.cut (e := e) ?_ (fun _ => ?_) <;> [subst e; clear_value e] | skip)
    | with_reducible (
        first | apply Device.chipCount_keeps | apply Device.tileWithhold_keeps | apply Device.tileAccess_keeps
              | apply Device.consumePoison_keeps | apply Device.cacheErrors_keeps | apply Device.startDma_keeps
              | apply Device.readDesc_keeps | apply Keeps.ite)
    | split

theorem execDmaOut_keeps (now : Time) (tile : Fin 4160) (se : StoreErrors) (s : State) :
    StepKeeps s (execDmaOut now tile se s) := by
  refine State.onTile_keeps fun e y kept => ?_
  repeat' first
    | with_reducible assumption
    | (extract_lets +onlyGivenNames e
       first | refine Keeps.cut (e := e) ?_ (fun _ => ?_) <;> [subst e; clear_value e] | skip)
    | with_reducible (
        first | apply Device.storeRead_keeps | apply Device.tileAccess_keeps | apply Device.consumePoison_keeps
              | apply Device.startDma_keeps | apply Device.readDesc_keeps | apply Keeps.ite)
    | split

theorem execDmaInLanded_keeps (now : Time) (tile : Fin 4160) (s : State) :
    StepKeeps s (execDmaInLanded now tile s) := by
  refine State.onTile_keeps fun e y kept => ?_
  repeat' first
    | assumption | split
    | with_reducible (
        first | apply Device.setTile_keeps | apply Device.count_keeps | apply Device.tileSignal_keeps)

theorem execDmaOutVisible_keeps (now : Time) (tile : Fin 4160) (s : State) :
    StepKeeps s (execDmaOutVisible now tile s) := by
  refine State.onUp_keeps fun e kept => ?_
  repeat' first
    | assumption | split
    | with_reducible (
        first | apply Device.dmaVisible_keeps)

theorem execTileStopped_keeps (now : Time) (tile : Fin 4160) (s : State) :
    StepKeeps s (execTileStopped now tile s) := by
  refine State.onUp_keeps fun e kept => ?_
  repeat' first
    | assumption | split
    | with_reducible (
        first | apply Device.tileStopped_keeps)

theorem execTileScrub_keeps (now : Time) (tile : Fin 4160) (word : Fin 4096) (finding : ScrubFinding) (s : State) :
    StepKeeps s (execTileScrub now tile word finding s) := by
  refine State.onUp_keeps fun e kept => ?_
  repeat' first
    | assumption | split
    | with_reducible (
        first | apply Device.setTile_keeps | apply Device.addBucket_keeps)

end Sys2Proof.Machine
end

