-- ==== Sys2Proof/Laws/KeepsHookRows.lean ====
section
/-!
SUPPORT. What the operations of `Machine/HookRows` keep: the invariants of `Safety`, a held safe state and the fuses.
-/

set_option linter.all false

namespace Sys2Proof.Machine

theorem Device.landed_keeps {dev₀ d : Device} (kept : Keeps dev₀ d) (i : Nat) : Keeps dev₀ (Device.landed d i) :=
  kept.put rfl rfl rfl rfl rfl rfl rfl rfl rfl rfl

theorem Device.applySignal_keeps {dev₀ d : Device} (kept : Keeps dev₀ d) (i : Nat) :
    Keeps dev₀ (Device.applySignal d i) := by
  unfold Device.applySignal
  repeat' first
    | with_reducible assumption
    | (extract_lets +onlyGivenNames e
       first | refine Keeps.cut (e := e) ?_ (fun _ => ?_) <;> [subst e; clear_value e] | skip)
    | with_reducible (
        first | apply Device.withholdStop_keeps | apply Device.signalHook_keeps | apply Device.cleanUp_keeps
              | apply Device.landed_keeps | apply Keeps.ite)
    | split

theorem Device.hookBad_keeps {dev₀ d : Device} (kept : Keeps dev₀ d) (h : Nat) : Keeps dev₀ (Device.hookBad d h) := by
  unfold Device.hookBad
  iterate 30 try any_goals first
    | with_reducible first | assumption | rfl
    | (extract_lets +onlyGivenNames e
       first | refine Keeps.cut (e := e) ?_ (fun _ => ?_) <;> [subst e; clear_value e]
             | (have : Option _ := e; clear this; clear_value e) | skip)
    | with_reducible (
        first | apply Device.chipCount_keeps | apply Device.notify_keeps | apply Device.withholdStop_keeps
              | apply Device.cleanUp_keeps | apply Keeps.ite)
    | split
    | with_reducible (
        first | apply Keeps.foldl | apply Keeps.foldl_fst | apply Keeps.of_fst ‹_› | apply Keeps.put | apply Keeps.putLect)
    | intro _ _ _ | intro _ _
    | simp +zetaDelta only [setAt, List.length_set, List.length_map, List.length_zipIdx, Window.setIbi_events]; done

theorem Device.afterHook_keeps {dev₀ d : Device} (kept : Keeps dev₀ d) (who : Requester) :
    Keeps dev₀ (Device.afterHook d who) := by
  unfold Device.afterHook
  repeat' first
    | assumption | split
    | with_reducible (
        first | apply Device.cleanUp_keeps)

theorem Device.answerTry_keeps {dev₀ d : Device} (kept : Keeps dev₀ d) (t : Fin 4160) (got : Bool) :
    Keeps dev₀ (Device.answerTry d t got) := by
  unfold Device.answerTry
  repeat' first
    | assumption | split
    | with_reducible (
        first | apply Device.setTile_keeps | apply Device.settleTile_keeps)

theorem Device.applyTry_keeps {dev₀ d : Device} (kept : Keeps dev₀ d) (i : Nat) :
    Keeps dev₀ (Device.applyTry d i) := by
  unfold Device.applyTry
  repeat' first
    | with_reducible assumption
    | (extract_lets +onlyGivenNames e
       first | refine Keeps.cut (e := e) ?_ (fun _ => ?_) <;> [subst e; clear_value e] | skip)
    | with_reducible (
        first | apply Device.setHook_keeps | apply Device.withholdStop_keeps | apply Device.cleanUp_keeps
              | apply Device.landed_keeps | apply Device.answerTry_keeps | apply Keeps.ite)
    | split

theorem Device.cancelWait_keeps {dev₀ d : Device} (kept : Keeps dev₀ d) (h : Nat) (w : Waiter) :
    Keeps dev₀ (Device.cancelWait d h w) := by
  unfold Device.cancelWait
  repeat' first
    | with_reducible assumption
    | (extract_lets +onlyGivenNames e
       first | refine Keeps.cut (e := e) ?_ (fun _ => ?_) <;> [subst e; clear_value e] | skip)
    | with_reducible (
        first | apply Device.setTile_keeps | apply Device.count_keeps | apply Device.settleTile_keeps
              | apply Keeps.ite)
    | split

theorem execHookArraySignal_keeps (now : Time) (index : Nat) (err : ScrubFinding) (s : State) :
    StepKeeps s (execHookArraySignal now index err s) := by
  refine State.onUp_keeps fun e kept => ?_
  repeat' first
    | assumption | split
    | with_reducible (
        first | apply Device.chipCount_keeps | apply Device.landed_keeps | apply Device.applySignal_keeps
              | apply Device.hookBad_keeps)

theorem execHookArrayWait_keeps (now : Time) (index : Nat) (s : State) :
    StepKeeps s (execHookArrayWait now index s) := by
  refine State.onUp_keeps fun e kept => ?_
  repeat' first
    | assumption | split
    | with_reducible (
        first | apply Device.waitHook_keeps | apply Device.landed_keeps | apply Device.afterHook_keeps)

theorem execHookTry_keeps (now : Time) (index : Nat) (s : State) : StepKeeps s (execHookTry now index s) := by
  refine State.onUp_keeps fun e kept => ?_
  repeat' first
    | assumption | split
    | with_reducible (
        first | apply Device.applyTry_keeps)

theorem execHookArrayReset_keeps (now : Time) (hook : Fin 16384) (s : State) :
    StepKeeps s (execHookArrayReset now hook s) := by
  refine State.onUp_keeps fun e kept => ?_
  iterate 30 try any_goals first
    | with_reducible first | assumption | rfl
    | (extract_lets +onlyGivenNames e
       first | refine Keeps.cut (e := e) ?_ (fun _ => ?_) <;> [subst e; clear_value e]
             | (have : Option _ := e; clear this; clear_value e) | skip)
    | with_reducible (
        first | apply Device.resetHook_keeps | apply Device.cancelWait_keeps | apply Keeps.ite)
    | split
    | with_reducible (
        first | apply Keeps.foldl | apply Keeps.foldl_fst | apply Keeps.of_fst ‹_› | apply Keeps.put | apply Keeps.putLect)
    | intro _ _ _ | intro _ _
    | simp +zetaDelta only [setAt, List.length_set, List.length_map, List.length_zipIdx, Window.setIbi_events]; done

theorem execWaitRetry_keeps (now : Time) (hook : Fin 16384) (index : Nat) (s : State) :
    StepKeeps s (execWaitRetry now hook index s) := by
  refine State.onUp_keeps fun e kept => ?_
  repeat' first
    | with_reducible assumption
    | (extract_lets +onlyGivenNames e
       first | refine Keeps.cut (e := e) ?_ (fun _ => ?_) <;> [subst e; clear_value e] | skip)
    | with_reducible (
        first | apply Device.setHook_keeps | apply Device.waitHook_keeps | apply Keeps.ite)
    | split

end Sys2Proof.Machine
end

