-- ==== Sys2Proof/Laws/KeepsSaves.lean ====
section
/-!
SUPPORT. What the operations of `Machine/Saves` keep: the invariants of `Safety`, a held safe state and the fuses.
-/

set_option linter.all false

namespace Sys2Proof.Machine

theorem Device.writeSave_keeps {dev₀ d : Device} (kept : Keeps dev₀ d) (r : JobRef) (a : Nat) (y : TileState) :
    Keeps dev₀ (d.writeSave r a y) := by
  unfold Device.writeSave
  refine Keeps.foldl _ (fun e i ke => ?_) (bump_keeps (writeLines_keeps kept ..))
  split
  · exact ke.putMain fun w => Memory.forget_wf _ _ w
  · exact ke

theorem Device.saveDone_keeps {dev₀ d : Device} (kept : Keeps dev₀ d) (t : Fin 4160) (se : StoreErrors) :
    Keeps dev₀ (Device.saveDone d t se) := by
  unfold Device.saveDone
  iterate 30 try any_goals first
    | with_reducible first | assumption | rfl
    | (extract_lets +onlyGivenNames e
       first | refine Keeps.cut (e := e) ?_ (fun _ => ?_) <;> [subst e; clear_value e]
             | (have : Option _ := e; clear this; clear_value e) | skip)
    | with_reducible (
        first | apply Device.setTile_keeps | apply Device.setRun_keeps | apply Device.storeRead_keeps
              | apply Device.dropSaved_keeps | apply Device.settleStarts_keeps | apply Device.consumePoison_keeps
              | apply Device.writeSave_keeps | apply Keeps.ite)
    | split
    | with_reducible (
        first | apply Keeps.foldl | apply Keeps.foldl_fst | apply Keeps.of_fst ‹_› | apply Keeps.put | apply Keeps.putLect)
    | intro _ _ _ | intro _ _
    | simp +zetaDelta only [setAt, List.length_set, List.length_map, List.length_zipIdx, Window.setIbi_events]; done

theorem Device.reloadTile_keeps {dev₀ d : Device} (kept : Keeps dev₀ d) (r : JobRef) (p : Period) (t : Fin 4160) :
    Keeps dev₀ (Device.reloadTile d r p t).1 := by
  unfold Device.reloadTile
  repeat' first
    | assumption | split
    | with_reducible (
        first | apply Device.setTile_keeps | apply Device.hubRead_keeps | apply Device.dmaRead_keeps)

theorem Device.resumeJob_keeps {dev₀ d : Device} (kept : Keeps dev₀ d) (j : BitVec 16) :
    Keeps dev₀ (Device.resumeJob d j) := by
  unfold Device.resumeJob
  iterate 30 try any_goals first
    | with_reducible first | assumption | rfl
    | (extract_lets +onlyGivenNames e
       first | refine Keeps.cut (e := e) ?_ (fun _ => ?_) <;> [subst e; clear_value e]
             | (have : Option _ := e; clear this; clear_value e) | skip)
    | with_reducible (
        first | apply Device.setRun_keeps | apply Device.dropSaved_keeps | apply Device.consumePoison_keeps
              | apply Device.reloadTile_keeps | apply Keeps.ite)
    | split
    | with_reducible (
        first | apply Keeps.foldl | apply Keeps.foldl_fst | apply Keeps.of_fst ‹_› | apply Keeps.put | apply Keeps.putLect)
    | intro _ _ _ | intro _ _
    | simp +zetaDelta only [setAt, List.length_set, List.length_map, List.length_zipIdx, Window.setIbi_events]; done

theorem execPreemptSaveDone_keeps (now : Time) (found : TileRead) (s : State) :
    StepKeeps s (execPreemptSaveDone now found s) := by
  refine State.onUp_keeps fun e kept => ?_
  repeat' first
    | assumption | split
    | with_reducible (
        first | apply Device.saveDone_keeps)

theorem execResume_keeps (now : Time) (job : BitVec 16) (s : State) : StepKeeps s (execResume now job s) := by
  refine State.onUp_keeps fun e kept => ?_
  repeat' first
    | assumption | split
    | with_reducible (
        first | apply Device.resumeJob_keeps)

end Sys2Proof.Machine
end

