-- ==== Sys2Proof/Laws/KeepsSecurity.lean ====
section
/-!
SUPPORT. What the operations of `Machine/Security` keep: the invariants of `Safety`, a held safe state and the fuses.
-/

set_option linter.all false

namespace Sys2Proof.Machine

/-- Burning both bits of one slot leaves every revocation in place (R765). -/
theorem NonVolatile.burn_kept (v : NonVolatile) (k : Nat) : v.Kept { v with revoked := setAt v.revoked k 3 } := by
  refine ⟨rfl, fun i h => ?_, fun _ h => h⟩
  simp only [nth, setAt, List.getElem?_set] at h ⊢
  split
  · split
    · decide
    · rename_i e l
      subst e
      simp [List.getElem?_eq_none (Nat.le_of_not_lt l)] at h
  · exact h

theorem Device.keyRevoke_keeps {dev₀ d : Device} (kept : Keeps dev₀ d) (n : Fin 64) : Keeps dev₀ (d.keyRevoke n) :=
  Keeps.ite (reply_keeps kept ..) (Keeps.ite (fail_keeps kept ..) (Keeps.ite (fail_keeps kept ..)
    (reply_keeps (kept.putNv (NonVolatile.burn_kept ..)) ..)))

theorem execIdentityRead_keeps (now : Time) (drawer : Fin 64) (s : State) :
    StepKeeps s (execIdentityRead now drawer s) := by
  refine State.drawerCommand_keeps fun e kept => ?_
  repeat' first
    | assumption | split
    | with_reducible (
        first | apply Device.reply_keeps)

theorem execKeyRevoke_keeps (now : Time) (drawer : Fin 64) (s : State) :
    StepKeeps s (execKeyRevoke now drawer s) := by
  refine State.drawerCommand_keeps fun e kept => ?_
  repeat' first
    | assumption | split
    | with_reducible (
        first | apply Device.keyRevoke_keeps)

end Sys2Proof.Machine
end

