-- ==== Sys2Proof/Laws/KeepsPlans.lean ====
section
/-!
SUPPORT. What the operations of `Machine/Plans` keep: the invariants of `Safety`, a held safe state and the fuses.
-/

set_option linter.all false

namespace Sys2Proof.Machine

theorem Device.installTable_keeps {dev₀ d : Device} (kept : Keeps dev₀ d) : Keeps dev₀ (Device.installTable d) := by
  unfold Device.installTable
  iterate 30 try any_goals first
    | with_reducible first | assumption | rfl
    | (extract_lets +onlyGivenNames e
       first | refine Keeps.cut (e := e) ?_ (fun _ => ?_) <;> [subst e; clear_value e]
             | (have : Option _ := e; clear this; clear_value e) | skip)
    | with_reducible (
        first | apply Keeps.ite)
    | split
    | with_reducible (
        first | apply Keeps.foldl | apply Keeps.foldl_fst | apply Keeps.of_fst ‹_› | apply Keeps.put | apply Keeps.putLect)
    | intro _ _ _ | intro _ _
    | simp +zetaDelta only [setAt, List.length_set, List.length_map, List.length_zipIdx, Window.setIbi_events]; done

theorem Device.withPlan_keeps {dev₀ d : Device} (kept : Keeps dev₀ d) (ps : List Nat) (h : BitVec 16) :
    Keeps dev₀ (Device.withPlan d ps h) := by
  unfold Device.withPlan
  iterate 30 try any_goals first
    | with_reducible first | assumption | rfl
    | (extract_lets +onlyGivenNames e
       first | refine Keeps.cut (e := e) ?_ (fun _ => ?_) <;> [subst e; clear_value e]
             | (have : Option _ := e; clear this; clear_value e) | skip)
    | with_reducible (
        first | apply Keeps.ite)
    | split
    | with_reducible (
        first | apply Keeps.foldl | apply Keeps.foldl_fst | apply Keeps.of_fst ‹_› | apply Keeps.put | apply Keeps.putLect)
    | intro _ _ _ | intro _ _
    | simp +zetaDelta only [setAt, List.length_set, List.length_map, List.length_zipIdx, Window.setIbi_events]; done

theorem Device.planFail_keeps {dev₀ d : Device} (kept : Keeps dev₀ d) (n : Fin 64) (st : Status) :
    Keeps dev₀ (Device.planFail d n st) := by
  unfold Device.planFail
  iterate 30 try any_goals first
    | with_reducible first | assumption | rfl
    | (extract_lets +onlyGivenNames e
       first | refine Keeps.cut (e := e) ?_ (fun _ => ?_) <;> [subst e; clear_value e]
             | (have : Option _ := e; clear this; clear_value e) | skip)
    | with_reducible (
        first | apply Device.win_keeps | apply Device.watchStatus_keeps | apply Device.fail_keeps | apply Keeps.ite)
    | split
    | with_reducible (
        first | apply Keeps.foldl | apply Keeps.foldl_fst | apply Keeps.of_fst ‹_› | apply Keeps.put | apply Keeps.putLect)
    | intro _ _ _ | intro _ _
    | simp +zetaDelta only [setAt, List.length_set, List.length_map, List.length_zipIdx, Window.setIbi_events]; done

theorem Device.clearPlanFaults_keeps {dev₀ d : Device} (kept : Keeps dev₀ d) :
    Keeps dev₀ (Device.clearPlanFaults d) := by
  unfold Device.clearPlanFaults
  iterate 30 try any_goals first
    | with_reducible first | assumption | rfl
    | (extract_lets +onlyGivenNames e
       first | refine Keeps.cut (e := e) ?_ (fun _ => ?_) <;> [subst e; clear_value e]
             | (have : Option _ := e; clear this; clear_value e) | skip)
    | with_reducible (
        first | apply Device.win_keeps | apply Device.watchStatus_keeps | apply Keeps.ite)
    | split
    | with_reducible (
        first | apply Keeps.foldl | apply Keeps.foldl_fst | apply Keeps.of_fst ‹_› | apply Keeps.put | apply Keeps.putLect)
    | intro _ _ _ | intro _ _
    | simp +zetaDelta only [setAt, List.length_set, List.length_map, List.length_zipIdx, Window.setIbi_events]; done

theorem Device.addPlan_keeps {dev₀ d : Device} (kept : Keeps dev₀ d) (b : Bytes) (id : Option (BitVec 32)) :
    Keeps dev₀ (Device.addPlan d b id).1 :=
  kept.put rfl rfl rfl rfl rfl rfl rfl rfl rfl rfl

theorem Device.loadPlan_keeps {dev₀ d : Device} (kept : Keeps dev₀ d) (n : Fin 64) (b : Bytes) :
    Keeps dev₀ (d.loadPlan n b) := by
  unfold Device.loadPlan
  refine Keeps.ite (planFail_keeps kept ..) ?_
  split
  · exact planFail_keeps kept ..
  · refine Keeps.ite (planFail_keeps kept ..) (reply_keeps (addPlan_keeps (kept.putNv ?_) ..) ..)
    split
    · exact .of_eq rfl rfl rfl
    · exact .refl _

theorem Device.retireJobs_keeps {dev₀ d : Device} (kept : Keeps dev₀ d) (e : Device) (ps : List Nat) :
    Keeps dev₀ (Device.retireJobs d e ps) := by
  unfold Device.retireJobs
  iterate 30 try any_goals first
    | with_reducible first | assumption | rfl
    | (extract_lets +onlyGivenNames e
       first | refine Keeps.cut (e := e) ?_ (fun _ => ?_) <;> [subst e; clear_value e]
             | (have : Option _ := e; clear this; clear_value e) | skip)
    | with_reducible (
        first | apply Device.fail_keeps | apply Device.count_keeps | apply Device.jobStopped_keeps
              | apply Device.setSolv_keeps | apply Device.dropSaved_keeps | apply Keeps.ite)
    | split
    | with_reducible (
        first | apply Keeps.foldl | apply Keeps.foldl_fst | apply Keeps.of_fst ‹_› | apply Keeps.put | apply Keeps.putLect)
    | intro _ _ _ | intro _ _
    | simp +zetaDelta only [setAt, List.length_set, List.length_map, List.length_zipIdx, Window.setIbi_events]; done

theorem Device.installViews_keeps {dev₀ d : Device} (kept : Keeps dev₀ d) (e : Device) (ps : List Nat) :
    Keeps dev₀ (d.installViews e ps) := by
  unfold Device.installViews
  extract_lets ch regions gone left cache f main
  have kf : Keeps dev₀ f := bump_keeps (Keeps.foldl _ (fun _ p h => closePartStreams_keeps h p) kept)
  refine (kf.putMain (m := main) fun w => ?_).put rfl rfl rfl rfl rfl rfl rfl rfl rfl rfl
  subst main
  generalize List.filter _ regions = rs
  revert w
  generalize f.mem.main = m
  induction rs generalizing m with
  | nil => exact id
  | cons r rs ih => exact fun w => ih _ (Memory.forget_wf _ _ w)

theorem Device.installHooks_keeps {dev₀ d : Device} (kept : Keeps dev₀ d) (ps : List Nat) :
    Keeps dev₀ (Device.installHooks d ps) := by
  unfold Device.installHooks
  iterate 30 try any_goals first
    | with_reducible first | assumption | rfl
    | (extract_lets +onlyGivenNames e
       first | refine Keeps.cut (e := e) ?_ (fun _ => ?_) <;> [subst e; clear_value e]
             | (have : Option _ := e; clear this; clear_value e) | skip)
    | with_reducible (
        first | apply Device.initHook_keeps | apply Keeps.ite)
    | split
    | with_reducible (
        first | apply Keeps.foldl | apply Keeps.foldl_fst | apply Keeps.of_fst ‹_› | apply Keeps.put | apply Keeps.putLect)
    | intro _ _ _ | intro _ _
    | simp +zetaDelta only [setAt, List.length_set, List.length_map, List.length_zipIdx, Window.setIbi_events]; done

theorem Device.installImages_keeps {dev₀ d : Device} (kept : Keeps dev₀ d) (ps : List Nat) :
    Keeps dev₀ (Device.installImages d ps) := by
  unfold Device.installImages
  iterate 30 try any_goals first
    | with_reducible first | assumption | rfl
    | (extract_lets +onlyGivenNames e
       first | refine Keeps.cut (e := e) ?_ (fun _ => ?_) <;> [subst e; clear_value e]
             | (have : Option _ := e; clear this; clear_value e) | skip)
    | with_reducible (
        first | apply Device.writeLines_keeps | apply Keeps.ite)
    | split
    | with_reducible (
        first | apply Keeps.foldl | apply Keeps.foldl_fst | apply Keeps.of_fst ‹_› | apply Keeps.put | apply Keeps.putLect)
    | intro _ _ _ | intro _ _
    | simp +zetaDelta only [setAt, List.length_set, List.length_map, List.length_zipIdx, Window.setIbi_events]; done

theorem Device.installTiles_keeps {dev₀ d : Device} (kept : Keeps dev₀ d) (ps : List Nat) :
    Keeps dev₀ (Device.installTiles d ps) := by
  unfold Device.installTiles
  iterate 30 try any_goals first
    | with_reducible first | assumption | rfl
    | (extract_lets +onlyGivenNames e
       first | refine Keeps.cut (e := e) ?_ (fun _ => ?_) <;> [subst e; clear_value e]
             | (have : Option _ := e; clear this; clear_value e) | skip)
    | with_reducible (
        first | apply Device.initTile_keeps | apply Keeps.ite)
    | split
    | with_reducible (
        first | apply Keeps.foldl | apply Keeps.foldl_fst | apply Keeps.of_fst ‹_› | apply Keeps.put | apply Keeps.putLect)
    | intro _ _ _ | intro _ _
    | simp +zetaDelta only [setAt, List.length_set, List.length_map, List.length_zipIdx, Window.setIbi_events]; done

theorem Device.installSolver_keeps {dev₀ d : Device} (kept : Keeps dev₀ d) (r : JobRef) :
    Keeps dev₀ (Device.installSolver d r) := by
  unfold Device.installSolver
  repeat' first
    | assumption | split
    | with_reducible (
        first | apply Device.setSolv_keeps)

theorem Device.placeFusion_keeps {dev₀ d : Device} (kept : Keeps dev₀ d) : Keeps dev₀ (Device.placeFusion d) := by
  unfold Device.placeFusion
  repeat' first
    | with_reducible assumption
    | (extract_lets +onlyGivenNames e
       first | refine Keeps.cut (e := e) ?_ (fun _ => ?_) <;> [subst e; clear_value e] | skip)
    | with_reducible (
        first | apply Device.fus_keeps | apply Device.startFusion_keeps | apply Device.installFusion_keeps
              | apply Keeps.ite)
    | split

theorem Device.installEngines_keeps {dev₀ d : Device} (kept : Keeps dev₀ d) (ps : List Nat) :
    Keeps dev₀ (Device.installEngines d ps) := by
  unfold Device.installEngines
  iterate 30 try any_goals first
    | with_reducible first | assumption | rfl
    | (extract_lets +onlyGivenNames e
       first | refine Keeps.cut (e := e) ?_ (fun _ => ?_) <;> [subst e; clear_value e]
             | (have : Option _ := e; clear this; clear_value e) | skip)
    | with_reducible (
        first | apply Device.setFin_keeps | apply Device.installShelf_keeps | apply Device.setPlanJob_keeps
              | apply Device.installSolver_keeps | apply Device.placeFusion_keeps | apply Keeps.ite)
    | split
    | with_reducible (
        first | apply Keeps.foldl | apply Keeps.foldl_fst | apply Keeps.of_fst ‹_› | apply Keeps.put | apply Keeps.putLect)
    | intro _ _ _ | intro _ _
    | simp +zetaDelta only [setAt, List.length_set, List.length_map, List.length_zipIdx, Window.setIbi_events]; done

theorem Device.installSlots_keeps {dev₀ d : Device} (kept : Keeps dev₀ d) : Keeps dev₀ (Device.installSlots d) := by
  unfold Device.installSlots
  iterate 30 try any_goals first
    | with_reducible first | assumption | rfl
    | (extract_lets +onlyGivenNames e
       first | refine Keeps.cut (e := e) ?_ (fun _ => ?_) <;> [subst e; clear_value e]
             | (have : Option _ := e; clear this; clear_value e) | skip)
    | with_reducible (
        first | apply Device.fail_keeps | apply Device.seqState_keeps | apply Keeps.ite)
    | split
    | with_reducible (
        first | apply Keeps.foldl | apply Keeps.foldl_fst | apply Keeps.of_fst ‹_› | apply Keeps.put | apply Keeps.putLect)
    | intro _ _ _ | intro _ _
    | simp +zetaDelta only [setAt, List.length_set, List.length_map, List.length_zipIdx, Window.setIbi_events]; done

theorem Device.installCe_keeps {dev₀ d : Device} (kept : Keeps dev₀ d) (old : List Image) :
    Keeps dev₀ (Device.installCe d old) := by
  unfold Device.installCe
  iterate 30 try any_goals first
    | with_reducible first | assumption | rfl
    | (extract_lets +onlyGivenNames e
       first | refine Keeps.cut (e := e) ?_ (fun _ => ?_) <;> [subst e; clear_value e]
             | (have : Option _ := e; clear this; clear_value e) | skip)
    | with_reducible (
        first | apply Device.setSlot_keeps | apply Device.startSlot_keeps | apply Keeps.ite)
    | split
    | with_reducible (
        first | apply Keeps.foldl | apply Keeps.foldl_fst | apply Keeps.of_fst ‹_› | apply Keeps.put | apply Keeps.putLect)
    | intro _ _ _ | intro _ _
    | simp +zetaDelta only [setAt, List.length_set, List.length_map, List.length_zipIdx, Window.setIbi_events]; done

theorem Device.installStreams_keeps {dev₀ d : Device} (kept : Keeps dev₀ d) (ps : List Nat) :
    Keeps dev₀ (Device.installStreams d ps) := by
  unfold Device.installStreams
  iterate 30 try any_goals first
    | with_reducible first | assumption | rfl
    | (extract_lets +onlyGivenNames e
       first | refine Keeps.cut (e := e) ?_ (fun _ => ?_) <;> [subst e; clear_value e]
             | (have : Option _ := e; clear this; clear_value e) | skip)
    | with_reducible (
        first | apply Device.restartStreams_keeps | apply Keeps.ite)
    | split
    | with_reducible (
        first | apply Keeps.foldl | apply Keeps.foldl_fst | apply Keeps.of_fst ‹_› | apply Keeps.put | apply Keeps.putLect)
    | intro _ _ _ | intro _ _
    | simp +zetaDelta only [setAt, List.length_set, List.length_map, List.length_zipIdx, Window.setIbi_events]; done

theorem Device.autoStart_keeps {dev₀ d : Device} (kept : Keeps dev₀ d) (ps : List Nat) :
    Keeps dev₀ (Device.autoStart d ps) := by
  unfold Device.autoStart
  iterate 30 try any_goals first
    | with_reducible first | assumption | rfl
    | (extract_lets +onlyGivenNames e
       first | refine Keeps.cut (e := e) ?_ (fun _ => ?_) <;> [subst e; clear_value e]
             | (have : Option _ := e; clear this; clear_value e) | skip)
    | with_reducible (
        first | apply Device.win_keeps | apply Device.startJob_keeps | apply Keeps.ite)
    | split
    | with_reducible (
        first | apply Keeps.foldl | apply Keeps.foldl_fst | apply Keeps.of_fst ‹_› | apply Keeps.put | apply Keeps.putLect)
    | intro _ _ _ | intro _ _
    | simp +zetaDelta only [setAt, List.length_set, List.length_map, List.length_zipIdx, Window.setIbi_events]; done

theorem Device.installPlan_keeps {dev₀ d : Device} (kept : Keeps dev₀ d) (ps : List Nat) (h : BitVec 16) :
    Keeps dev₀ (Device.installPlan d ps h) := by
  unfold Device.installPlan
  iterate 30 try any_goals first
    | with_reducible first | assumption | rfl
    | (extract_lets +onlyGivenNames e
       first | refine Keeps.cut (e := e) ?_ (fun _ => ?_) <;> [subst e; clear_value e]
             | (have : Option _ := e; clear this; clear_value e) | skip)
    | with_reducible (
        first | apply Device.settleDomains_keeps | apply Device.setPart_keeps | apply Device.installTable_keeps
              | apply Device.withPlan_keeps | apply Device.retireJobs_keeps | apply Device.installViews_keeps
              | apply Device.installHooks_keeps | apply Device.installImages_keeps
              | apply Device.installTiles_keeps | apply Device.installEngines_keeps
              | apply Device.installSlots_keeps | apply Device.installCe_keeps | apply Device.installStreams_keeps
              | apply Device.autoStart_keeps | apply Keeps.ite)
    | split
    | with_reducible (
        first | apply Keeps.foldl | apply Keeps.foldl_fst | apply Keeps.of_fst ‹_› | apply Keeps.put | apply Keeps.putLect)
    | intro _ _ _ | intro _ _
    | simp +zetaDelta only [setAt, List.length_set, List.length_map, List.length_zipIdx, Window.setIbi_events]; done

theorem Device.stopRemoved_keeps {dev₀ d : Device} (kept : Keeps dev₀ d) (e : Device) (ps : List Nat) :
    Keeps dev₀ (Device.stopRemoved d e ps) := by
  unfold Device.stopRemoved
  iterate 30 try any_goals first
    | with_reducible first | assumption | rfl
    | (extract_lets +onlyGivenNames e
       first | refine Keeps.cut (e := e) ?_ (fun _ => ?_) <;> [subst e; clear_value e]
             | (have : Option _ := e; clear this; clear_value e) | skip)
    | with_reducible (
        first | apply Device.stopSlot_keeps | apply Keeps.ite)
    | split
    | with_reducible (
        first | apply Keeps.foldl | apply Keeps.foldl_fst | apply Keeps.of_fst ‹_› | apply Keeps.put | apply Keeps.putLect)
    | intro _ _ _ | intro _ _
    | simp +zetaDelta only [setAt, List.length_set, List.length_map, List.length_zipIdx, Window.setIbi_events]; done

theorem Device.endBoundary_keeps {dev₀ d : Device} (kept : Keeps dev₀ d) (ps : List Nat) :
    Keeps dev₀ (Device.endBoundary d ps) := by
  unfold Device.endBoundary
  iterate 30 try any_goals first
    | with_reducible first | assumption | rfl
    | (extract_lets +onlyGivenNames e
       first | refine Keeps.cut (e := e) ?_ (fun _ => ?_) <;> [subst e; clear_value e]
             | (have : Option _ := e; clear this; clear_value e) | skip)
    | with_reducible (
        first | apply Device.setPart_keeps | apply Keeps.ite)
    | split
    | with_reducible (
        first | apply Keeps.foldl | apply Keeps.foldl_fst | apply Keeps.of_fst ‹_› | apply Keeps.put | apply Keeps.putLect)
    | intro _ _ _ | intro _ _
    | simp +zetaDelta only [setAt, List.length_set, List.length_map, List.length_zipIdx, Window.setIbi_events]; done

theorem Device.forgetSet_keeps {dev₀ d : Device} (kept : Keeps dev₀ d) (ps : List Nat) :
    Keeps dev₀ (Device.forgetSet d ps) := by
  unfold Device.forgetSet
  iterate 30 try any_goals first
    | with_reducible first | assumption | rfl
    | (extract_lets +onlyGivenNames e
       first | refine Keeps.cut (e := e) ?_ (fun _ => ?_) <;> [subst e; clear_value e]
             | (have : Option _ := e; clear this; clear_value e) | skip)
    | with_reducible (
        first | apply Device.setPart_keeps | apply Keeps.ite)
    | split
    | with_reducible (
        first | apply Keeps.foldl | apply Keeps.foldl_fst | apply Keeps.of_fst ‹_› | apply Keeps.put | apply Keeps.putLect)
    | intro _ _ _ | intro _ _
    | simp +zetaDelta only [setAt, List.length_set, List.length_map, List.length_zipIdx, Window.setIbi_events]; done

theorem Device.finishActivation_keeps {dev₀ d : Device} (kept : Keeps dev₀ d) (n : Fin 64) (ps : List Nat) (h : BitVec 16) (isSet : Bool) :
    Keeps dev₀ (Device.finishActivation d n ps h isSet) := by
  unfold Device.finishActivation
  iterate 30 try any_goals first
    | with_reducible first | assumption | rfl
    | (extract_lets +onlyGivenNames e
       first | refine Keeps.cut (e := e) ?_ (fun _ => ?_) <;> [subst e; clear_value e]
             | (have : Option _ := e; clear this; clear_value e) | skip)
    | with_reducible (
        first | apply Device.reply_keeps | apply Device.fail_keeps | apply Device.startPlanners_keeps
              | apply Device.settleStarts_keeps | apply Device.boundaryStep4_keeps | apply Device.planFail_keeps
              | apply Device.clearPlanFaults_keeps | apply Device.installPlan_keeps
              | apply Device.endBoundary_keeps | apply Device.forgetSet_keeps | apply Keeps.ite)
    | split
    | with_reducible (
        first | apply Keeps.foldl | apply Keeps.foldl_fst | apply Keeps.of_fst ‹_› | apply Keeps.put | apply Keeps.putLect)
    | intro _ _ _ | intro _ _
    | simp +zetaDelta only [setAt, List.length_set, List.length_map, List.length_zipIdx, Window.setIbi_events]; done

theorem Device.partitionQuiesced_keeps {dev₀ d : Device} (kept : Keeps dev₀ d) (p : Nat) :
    Keeps dev₀ (Device.partitionQuiesced d p) := by
  unfold Device.partitionQuiesced
  repeat' first
    | with_reducible assumption
    | (extract_lets +onlyGivenNames e
       first | refine Keeps.cut (e := e) ?_ (fun _ => ?_) <;> [subst e; clear_value e] | skip)
    | with_reducible (
        first | apply Device.startPlanners_keeps | apply Device.settleStarts_keeps
              | apply Device.boundaryStep4_keeps | apply Device.withPlan_keeps | apply Device.endBoundary_keeps
              | apply Device.finishActivation_keeps | apply Keeps.ite)
    | split

theorem Device.planActivate_keeps {dev₀ d : Device} (kept : Keeps dev₀ d) (n : Fin 64) :
    Keeps dev₀ (Device.planActivate d n) := by
  unfold Device.planActivate
  iterate 30 try any_goals first
    | with_reducible first | assumption | rfl
    | (extract_lets +onlyGivenNames e
       first | refine Keeps.cut (e := e) ?_ (fun _ => ?_) <;> [subst e; clear_value e]
             | (have : Option _ := e; clear this; clear_value e) | skip)
    | with_reducible (
        first | apply Device.hold_keeps | apply Device.goOn_keeps | apply Device.beginBoundary_keeps
              | apply Device.withPlan_keeps | apply Device.planFail_keeps | apply Device.stopRemoved_keeps
              | apply Keeps.ite)
    | split
    | with_reducible (
        first | apply Keeps.foldl | apply Keeps.foldl_fst | apply Keeps.of_fst ‹_› | apply Keeps.put | apply Keeps.putLect)
    | intro _ _ _ | intro _ _
    | simp +zetaDelta only [setAt, List.length_set, List.length_map, List.length_zipIdx, Window.setIbi_events]; done

theorem Device.partitionSet_keeps {dev₀ d : Device} (kept : Keeps dev₀ d) (n : Fin 64) :
    Keeps dev₀ (Device.partitionSet d n) := by
  unfold Device.partitionSet
  repeat' first
    | with_reducible assumption
    | (extract_lets +onlyGivenNames e
       first | refine Keeps.cut (e := e) ?_ (fun _ => ?_) <;> [subst e; clear_value e] | skip)
    | with_reducible (
        first | apply Device.reply_keeps | apply Device.fail_keeps | apply Device.hold_keeps
              | apply Device.goOn_keeps | apply Device.setPart_keeps | apply Device.beginBoundary_keeps
              | apply Keeps.ite)
    | split

theorem execPlanLoad_keeps (now : Time) (drawer : Fin 64) (s : State) : StepKeeps s (execPlanLoad now drawer s) := by
  refine State.drawerCommand_keeps fun e kept => ?_
  repeat' first
    | with_reducible assumption
    | (extract_lets +onlyGivenNames e
       first | refine Keeps.cut (e := e) ?_ (fun _ => ?_) <;> [subst e; clear_value e] | skip)
    | with_reducible (
        first | apply Device.armBulk_keeps | apply Device.planFail_keeps | apply Device.loadPlan_keeps
              | apply Keeps.ite)
    | split

theorem execPlanList_keeps (now : Time) (drawer : Fin 64) (s : State) : StepKeeps s (execPlanList now drawer s) := by
  refine State.drawerCommand_keeps fun e kept => ?_
  repeat' first
    | assumption | split
    | with_reducible (
        first | apply Device.reply_keeps)

theorem execPlanUnload_keeps (now : Time) (drawer : Fin 64) (s : State) :
    StepKeeps s (execPlanUnload now drawer s) := by
  refine State.drawerCommand_keeps fun e kept => ?_
  dsimp only
  split
  · exact Device.fail_keeps kept ..
  · refine Keeps.ite (Device.fail_keeps kept ..) (Device.reply_keeps ?_ ..)
    exact kept.trans ⟨⟨id, id, id, id, id, id, .of_eq rfl rfl rfl⟩, id⟩

theorem execPartitionQuiesced_keeps (now : Time) (part : Fin 8) (s : State) :
    StepKeeps s (execPartitionQuiesced now part s) := by
  refine State.onUp_keeps fun e kept => ?_
  repeat' first
    | assumption | split
    | with_reducible (
        first | apply Device.partitionQuiesced_keeps)

theorem execPlanActivate_keeps (now : Time) (drawer : Fin 64) (s : State) :
    StepKeeps s (execPlanActivate now drawer s) := by
  refine State.drawerCommand_keeps fun e kept => ?_
  repeat' first
    | assumption | split
    | with_reducible (
        first | apply Device.planActivate_keeps)

theorem execPartitionSet_keeps (now : Time) (drawer : Fin 64) (s : State) :
    StepKeeps s (execPartitionSet now drawer s) := by
  refine State.drawerCommand_keeps fun e kept => ?_
  repeat' first
    | assumption | split
    | with_reducible (
        first | apply Device.partitionSet_keeps)

end Sys2Proof.Machine
end

