-- ==== Sys2Proof/Laws/KeepsDomainRows.lean ====
section
/-!
SUPPORT. What the operations of `Machine/DomainRows` keep: the invariants of `Safety`, a held safe state and the fuses.
-/

set_option linter.all false

namespace Sys2Proof.Machine

theorem Device.startCounter_keeps {dev₀ d : Device} (kept : Keeps dev₀ d) (k : Nat) :
    Keeps dev₀ (Device.startCounter d k) := by
  unfold Device.startCounter
  iterate 30 try any_goals first
    | with_reducible first | assumption | rfl
    | (extract_lets +onlyGivenNames e
       first | refine Keeps.cut (e := e) ?_ (fun _ => ?_) <;> [subst e; clear_value e]
             | (have : Option _ := e; clear this; clear_value e) | skip)
    | with_reducible (
        first | apply Device.counters_keeps | apply Keeps.ite)
    | split
    | with_reducible (
        first | apply Keeps.foldl | apply Keeps.foldl_fst | apply Keeps.of_fst ‹_› | apply Keeps.put | apply Keeps.putLect)
    | intro _ _ _ | intro _ _
    | simp +zetaDelta only [setAt, List.length_set, List.length_map, List.length_zipIdx, Window.setIbi_events]; done

theorem Device.stopCounter_keeps {dev₀ d : Device} (kept : Keeps dev₀ d) (k : Nat) :
    Keeps dev₀ (Device.stopCounter d k) := by
  unfold Device.stopCounter
  iterate 30 try any_goals first
    | with_reducible first | assumption | rfl
    | (extract_lets +onlyGivenNames e
       first | refine Keeps.cut (e := e) ?_ (fun _ => ?_) <;> [subst e; clear_value e]
             | (have : Option _ := e; clear this; clear_value e) | skip)
    | with_reducible (
        first | apply Device.counters_keeps | apply Keeps.ite)
    | split
    | with_reducible (
        first | apply Keeps.foldl | apply Keeps.foldl_fst | apply Keeps.of_fst ‹_› | apply Keeps.put | apply Keeps.putLect)
    | intro _ _ _ | intro _ _
    | simp +zetaDelta only [setAt, List.length_set, List.length_map, List.length_zipIdx, Window.setIbi_events]; done

theorem Device.loseDomain_keeps {dev₀ d : Device} (kept : Keeps dev₀ d) (k : Nat) :
    Keeps dev₀ (Device.loseDomain d k) := by
  unfold Device.loseDomain
  iterate 60 try any_goals first
    | with_reducible first | assumption | rfl
    | (extract_lets +onlyGivenNames e
       first | refine Keeps.cut (e := e) ?_ (fun _ => ?_) <;> [subst e; clear_value e]
             | (have : Option _ := e; clear this; clear_value e) | skip)
    | with_reducible (
        first | apply Device.setOut_keeps | apply Device.setIn_keeps | apply Device.unpin_keeps
              | apply Device.fus_keeps | apply Device.stopCounter_keeps | apply Keeps.ite)
    | split
    | with_reducible (
        first | apply Keeps.foldl | apply Keeps.foldl_fst | apply Keeps.of_fst ‹_› | apply Keeps.put | apply Keeps.putLect)
    | intro _ _ _ | intro _ _
    | simp +zetaDelta only [setAt, List.length_set, List.length_map, List.length_zipIdx, Window.setIbi_events]; done

theorem Device.gainDomain_keeps {dev₀ d : Device} (kept : Keeps dev₀ d) (k : Nat) :
    Keeps dev₀ (Device.gainDomain d k) := by
  unfold Device.gainDomain
  iterate 30 try any_goals first
    | with_reducible first | assumption | rfl
    | (extract_lets +onlyGivenNames e
       first | refine Keeps.cut (e := e) ?_ (fun _ => ?_) <;> [subst e; clear_value e]
             | (have : Option _ := e; clear this; clear_value e) | skip)
    | with_reducible (
        first | apply Device.setOut_keeps | apply Device.setIn_keeps | apply Device.loadTile_keeps
              | apply Device.installSolver_keeps | apply Device.placeFusion_keeps | apply Device.startCounter_keeps
              | apply Keeps.ite)
    | split
    | with_reducible (
        first | apply Keeps.foldl | apply Keeps.foldl_fst | apply Keeps.of_fst ‹_› | apply Keeps.put | apply Keeps.putLect)
    | intro _ _ _ | intro _ _
    | simp +zetaDelta only [setAt, List.length_set, List.length_map, List.length_zipIdx, Window.setIbi_events]; done

theorem Device.shutdown_keeps {dev₀ d : Device} (kept : Keeps dev₀ d) : Keeps dev₀ (Device.shutdown d) := by
  unfold Device.shutdown
  iterate 30 try any_goals first
    | with_reducible first | assumption | rfl
    | (extract_lets +onlyGivenNames e
       first | refine Keeps.cut (e := e) ?_ (fun _ => ?_) <;> [subst e; clear_value e]
             | (have : Option _ := e; clear this; clear_value e) | skip)
    | with_reducible (
        first | apply Device.setDom_keeps | apply Device.loseDomain_keeps | apply Keeps.ite)
    | split
    | with_reducible (
        first | apply Keeps.foldl | apply Keeps.foldl_fst | apply Keeps.of_fst ‹_› | apply Keeps.put | apply Keeps.putLect)
    | intro _ _ _ | intro _ _
    | simp +zetaDelta only [setAt, List.length_set, List.length_map, List.length_zipIdx, Window.setIbi_events]; done

theorem execDomainIdleTimeout_keeps (now : Time) (dom : Fin 68) (s : State) :
    StepKeeps s (execDomainIdleTimeout now dom s) := by
  refine State.onUp_keeps fun e kept => ?_
  repeat' first
    | assumption | split
    | with_reducible (
        first | apply Device.setDom_keeps)

theorem execDomainOnDone_keeps (now : Time) (dom : Fin 68) (s : State) :
    StepKeeps s (execDomainOnDone now dom s) := by
  refine State.onUp_keeps fun e kept => ?_
  repeat' first
    | assumption | split
    | with_reducible (
        first | apply Device.setDom_keeps | apply Device.settleDomains_keeps | apply Device.startPlanners_keeps
              | apply Device.settleStarts_keeps | apply Device.gainDomain_keeps)

end Sys2Proof.Machine
end

