-- ==== Sys2Proof/Laws/KeepsSelfTest.lean ====
section
/-!
SUPPORT. What the operations of `Machine/SelfTest` keep: the invariants of `Safety`, a held safe state and the fuses.
-/

set_option linter.all false

namespace Sys2Proof.Machine

theorem Device.stopWith_keeps {dev₀ d : Device} (kept : Keeps dev₀ d) (r : JobRef) (st : Status) :
    Keeps dev₀ (Device.stopWith d r st) := by
  unfold Device.stopWith
  repeat' first
    | with_reducible assumption
    | (extract_lets +onlyGivenNames e
       first | refine Keeps.cut (e := e) ?_ (fun _ => ?_) <;> [subst e; clear_value e] | skip)
    | with_reducible (
        first | apply Device.setRun_keeps | apply Device.endWith_keeps | apply Device.dropSaved_keeps
              | apply Keeps.ite)
    | split

theorem Device.engineFailed_keeps {dev₀ d : Device} (kept : Keeps dev₀ d) (e : EngineUnit) :
    Keeps dev₀ (Device.engineFailed d e) := by
  unfold Device.engineFailed
  iterate 30 try any_goals first
    | with_reducible first | assumption | rfl
    | (extract_lets +onlyGivenNames e
       first | refine Keeps.cut (e := e) ?_ (fun _ => ?_) <;> [subst e; clear_value e]
             | (have : Option _ := e; clear this; clear_value e) | skip)
    | with_reducible (
        first | apply Device.notify_keeps | apply Device.setTest_keeps | apply Device.startPlanners_keeps
              | apply Device.stopFusion_keeps | apply Device.stopWith_keeps | apply Keeps.ite)
    | split
    | with_reducible (
        first | apply Keeps.foldl | apply Keeps.foldl_fst | apply Keeps.of_fst ‹_› | apply Keeps.put | apply Keeps.putLect)
    | intro _ _ _ | intro _ _
    | simp +zetaDelta only [setAt, List.length_set, List.length_map, List.length_zipIdx, Window.setIbi_events]; done

theorem Device.afterSlice_keeps {dev₀ d : Device} (kept : Keeps dev₀ d) (t : Fin 4160) :
    Keeps dev₀ (Device.afterSlice d t) :=
  kept.put rfl rfl rfl rfl rfl rfl rfl rfl rfl rfl

theorem Device.sliceComplete_keeps {dev₀ d : Device} (kept : Keeps dev₀ d) (u : TestUnit) (pass : Bool) :
    Keeps dev₀ (Device.sliceComplete d u pass) := by
  unfold Device.sliceComplete
  repeat' first
    | with_reducible assumption
    | (extract_lets +onlyGivenNames e
       first | refine Keeps.cut (e := e) ?_ (fun _ => ?_) <;> [subst e; clear_value e] | skip)
    | with_reducible (
        first | apply Device.notifyAgain_keeps | apply Device.setTest_keeps | apply Device.fenceTile_keeps
              | apply Device.engineFailed_keeps | apply Device.afterSlice_keeps | apply Keeps.ite)
    | split

theorem Device.halfFailed_keeps {dev₀ d : Device} (kept : Keeps dev₀ d) (h : Half) :
    Keeps dev₀ (Device.halfFailed d h) := by
  unfold Device.halfFailed
  iterate 30 try any_goals first
    | with_reducible first | assumption | rfl
    | (extract_lets +onlyGivenNames e
       first | refine Keeps.cut (e := e) ?_ (fun _ => ?_) <;> [subst e; clear_value e]
             | (have : Option _ := e; clear this; clear_value e) | skip)
    | with_reducible (
        first | apply Device.notify_keeps | apply Device.setSlot_keeps | apply Device.settleStop_keeps
              | apply Device.stopWith_keeps | apply Keeps.ite)
    | split
    | with_reducible (
        first | apply Keeps.foldl | apply Keeps.foldl_fst | apply Keeps.of_fst ‹_› | apply Keeps.put | apply Keeps.putLect)
    | intro _ _ _ | intro _ _
    | simp +zetaDelta only [setAt, List.length_set, List.length_map, List.length_zipIdx, Window.setIbi_events]; done

theorem execSelftestSchedule_keeps (now : Time) (unit : TestUnit) (s : State) :
    StepKeeps s (execSelftestSchedule now unit s) := by
  refine State.onUp_keeps fun e kept => ?_
  repeat' first
    | with_reducible assumption
    | (extract_lets +onlyGivenNames e
       first | refine Keeps.cut (e := e) ?_ (fun _ => ?_) <;> [subst e; clear_value e] | skip)
    | with_reducible (
        first | apply Device.setTest_keeps | apply Keeps.ite)
    | split

theorem execSliceComplete_keeps (now : Time) (unit : TestUnit) (pass : Bool) (s : State) :
    StepKeeps s (execSliceComplete now unit pass s) := by
  refine State.onUp_keeps fun e kept => ?_
  repeat' first
    | assumption | split
    | with_reducible (
        first | apply Device.startPlanners_keeps | apply Device.settleStarts_keeps
              | apply Device.sliceComplete_keeps)

theorem execTestOverdue_keeps (now : Time) (unit : TestUnit) (s : State) :
    StepKeeps s (execTestOverdue now unit s) := by
  refine State.onUp_keeps fun e kept => ?_
  repeat' first
    | with_reducible assumption
    | (extract_lets +onlyGivenNames e
       first | refine Keeps.cut (e := e) ?_ (fun _ => ?_) <;> [subst e; clear_value e] | skip)
    | with_reducible (
        first | apply Device.notify_keeps | apply Device.setTest_keeps | apply Keeps.ite)
    | split

theorem execTestRow_keeps (now : Time) (half : Half) (pass : Bool) (s : State) :
    StepKeeps s (execTestRow now half pass s) := by
  refine State.onUp_keeps fun e kept => ?_
  repeat' first
    | assumption | split
    | with_reducible (
        first | apply Device.halfFailed_keeps)

end Sys2Proof.Machine
end

