-- ==== Sys2Proof/Laws/KeepsBoot.lean ====
section
/-!
SUPPORT. What the operations of `Machine/Boot` keep: the invariants of `Safety`, a held safe state and the fuses.
-/

set_option linter.all false

namespace Sys2Proof.Machine

/-- A restart: everything at reset but the non-volatile store and, at will, the Lectern log (R724, R728, R801). -/
theorem Keeps.restart {dev₀ d e : Device} (kept : Keeps dev₀ d) (hs : e.lect.safe = true) (ha : e.lect.pinA = false)
    (hb : e.lect.pinB = false) (hl : e.lect.log = [] ∨ e.lect.log = d.lect.log) (hv : e.bur.win.events = [])
    (hm : e.mem.main.cells = []) (hn : e.bur.nv = d.bur.nv) (hd : e.lens = Device.reset.lens) : Keeps dev₀ e := by
  have hx : e.shaped := by
    have h : Device.reset.lens = [64, 68, 12, 4, 8, 4, 64] := by decide
    rw [h] at hd
    simpa [Device.lens, Device.shaped] using hd
  refine kept.trans ⟨⟨fun _ _ => ⟨ha, hb⟩, fun _ h => ?_, fun h => ?_, fun _ => ?_, fun _ => ?_, fun _ => hx, ?_⟩, fun _ => hs⟩
  · rw [hs] at h; cases h
  · rcases hl with hl | hl <;> simp_all [Device.logBounded]
  · simp [Device.eventsBounded, hv]
  · simp [Memory.wf, hm, Cells.ok]
  · rw [hn]; exact .refl _

theorem raiseFuse_kept (fuse : BitVec 64) (n i : Nat) (h : fuse.getLsbD i = true) :
    (raiseFuse fuse n).getLsbD i = true := by
  unfold raiseFuse
  generalize List.range 64 = l
  induction l generalizing fuse with
  | nil => exact h
  | cons k l ih =>
    refine ih _ ?_
    dsimp only
    split
    · simp [h]
    · exact h

theorem NonVolatile.raise_kept (v : NonVolatile) {x : BitVec 64}
    (h : ∀ i, v.svnFuse.getLsbD i = true → x.getLsbD i = true) : v.Kept { v with svnFuse := x } :=
  ⟨rfl, fun _ h => h, h⟩

theorem NonVolatile.putPersist_kept (v : NonVolatile) (c : PersistCopy) : v.Kept (v.putPersist c) := by
  unfold NonVolatile.putPersist
  dsimp only
  split <;> exact .of_eq rfl rfl rfl

theorem Device.settleReady_keeps {dev₀ d : Device} (kept : Keeps dev₀ d) : Keeps dev₀ (Device.settleReady d) := by
  unfold Device.settleReady
  repeat' first
    | assumption | split
    | with_reducible (
        first | apply Device.win_keeps | apply Device.clearCause_keeps)

theorem Device.disableOutputs_keeps {dev₀ d : Device} (kept : Keeps dev₀ d) :
    Keeps dev₀ (Device.disableOutputs d) := by
  unfold Device.disableOutputs
  iterate 30 try any_goals first
    | with_reducible first | assumption | rfl
    | (extract_lets +onlyGivenNames e
       first | refine Keeps.cut (e := e) ?_ (fun _ => ?_) <;> [subst e; clear_value e]
             | (have : Option _ := e; clear this; clear_value e) | skip)
    | with_reducible (
        first | apply Device.win_keeps | apply Device.watchStatus_keeps | apply Device.enterQuiet_keeps
              | apply Device.settlePorts_keeps | apply Device.stopJob_keeps | apply Keeps.ite)
    | split
    | with_reducible (
        first | apply Keeps.foldl | apply Keeps.foldl_fst | apply Keeps.of_fst ‹_› | apply Keeps.put | apply Keeps.putLect)
    | intro _ _ _ | intro _ _
    | simp +zetaDelta only [setAt, List.length_set, List.length_map, List.length_zipIdx, Window.setIbi_events]; done

theorem Device.enableOutputs_keeps {dev₀ d : Device} (kept : Keeps dev₀ d) (n : Fin 64) :
    Keeps dev₀ (Device.enableOutputs d n) := by
  unfold Device.enableOutputs
  iterate 30 try any_goals first
    | with_reducible first | assumption | rfl
    | (extract_lets +onlyGivenNames e
       first | refine Keeps.cut (e := e) ?_ (fun _ => ?_) <;> [subst e; clear_value e]
             | (have : Option _ := e; clear this; clear_value e) | skip)
    | with_reducible (
        first | apply Device.win_keeps | apply Device.watchStatus_keeps | apply Device.reply_keeps
              | apply Device.fail_keeps | apply Device.hold_keeps | apply Device.autoStart_keeps
              | apply Device.settleReady_keeps | apply Keeps.ite)
    | split
    | with_reducible (
        first | apply Keeps.foldl | apply Keeps.foldl_fst | apply Keeps.of_fst ‹_› | apply Keeps.put | apply Keeps.putLect)
    | intro _ _ _ | intro _ _
    | simp +zetaDelta only [setAt, List.length_set, List.length_map, List.length_zipIdx, Window.setIbi_events]; done

theorem Device.outputs_keeps {dev₀ d : Device} (kept : Keeps dev₀ d) (n : Fin 64) :
    Keeps dev₀ (Device.outputs d n) := by
  unfold Device.outputs
  repeat' first
    | assumption | split
    | with_reducible (
        first | apply Device.reply_keeps | apply Device.disableOutputs_keeps | apply Device.enableOutputs_keeps)

theorem Device.calibrate_keeps {dev₀ d : Device} (kept : Keeps dev₀ d) (f : BootFindings) :
    Keeps dev₀ (Device.calibrate d f) := by
  unfold Device.calibrate
  iterate 30 try any_goals first
    | with_reducible first | assumption | rfl
    | (extract_lets +onlyGivenNames e
       first | refine Keeps.cut (e := e) ?_ (fun _ => ?_) <;> [subst e; clear_value e]
             | (have : Option _ := e; clear this; clear_value e) | skip)
    | with_reducible (
        first | apply Device.bump_keeps | apply Device.win_keeps | apply Device.gov_keeps | apply Keeps.ite)
    | split
    | with_reducible (
        first | apply Keeps.foldl | apply Keeps.foldl_fst | apply Keeps.of_fst ‹_› | apply Keeps.put | apply Keeps.putLect)
    | intro _ _ _ | intro _ _
    | simp +zetaDelta only [setAt, List.length_set, List.length_map, List.length_zipIdx, Window.setIbi_events]; done

theorem Device.fenceAt_keeps {dev₀ d : Device} (kept : Keeps dev₀ d) (c : CensusState) (ts : List (Fin 4160)) :
    Keeps dev₀ (Device.fenceAt d c ts) := by
  unfold Device.fenceAt
  iterate 30 try any_goals first
    | with_reducible first | assumption | rfl
    | (extract_lets +onlyGivenNames e
       first | refine Keeps.cut (e := e) ?_ (fun _ => ?_) <;> [subst e; clear_value e]
             | (have : Option _ := e; clear this; clear_value e) | skip)
    | with_reducible (
        first | apply Device.setTile_keeps | apply Keeps.ite)
    | split
    | with_reducible (
        first | apply Keeps.foldl | apply Keeps.foldl_fst | apply Keeps.of_fst ‹_› | apply Keeps.put | apply Keeps.putLect)
    | intro _ _ _ | intro _ _
    | simp +zetaDelta only [setAt, List.length_set, List.length_map, List.length_zipIdx, Window.setIbi_events]; done

theorem Device.lbist_keeps {dev₀ d : Device} (kept : Keeps dev₀ d) (f : BootFindings) :
    Keeps dev₀ (Device.lbist d f) := by
  unfold Device.lbist
  iterate 30 try any_goals first
    | with_reducible first | assumption | rfl
    | (extract_lets +onlyGivenNames e
       first | refine Keeps.cut (e := e) ?_ (fun _ => ?_) <;> [subst e; clear_value e]
             | (have : Option _ := e; clear this; clear_value e) | skip)
    | with_reducible (
        first | apply Device.persist_keeps | apply Device.mapSpare_keeps | apply Device.engineFailed_keeps
              | apply Device.fenceAt_keeps | apply Keeps.ite)
    | split
    | with_reducible (
        first | apply Keeps.foldl | apply Keeps.foldl_fst | apply Keeps.of_fst ‹_› | apply Keeps.put | apply Keeps.putLect)
    | intro _ _ _ | intro _ _
    | simp +zetaDelta only [setAt, List.length_set, List.length_map, List.length_zipIdx, Window.setIbi_events]; done

theorem Device.commitSvn_keeps {dev₀ d : Device} (kept : Keeps dev₀ d) : Keeps dev₀ d.commitSvn :=
  Keeps.ite (kept.putNv (NonVolatile.raise_kept _ (raiseFuse_kept _ _))) kept

theorem Device.initMemory_keeps {dev₀ d : Device} (kept : Keeps dev₀ d) (f : BootFindings) :
    Keeps dev₀ (d.initMemory f) := by
  unfold Device.initMemory
  refine win_keeps ?_ rfl
  refine (bump_keeps kept).trans ⟨⟨id, id, id, id, fun _ => rfl, fun h => ?_, .refl _⟩, id⟩
  obtain ⟨h1, h2, h3, h4, h5, -, h7⟩ := h
  exact ⟨h1, h2, h3, h4, h5, by simp, h7⟩

theorem Device.startStored_keeps {dev₀ d : Device} (kept : Keeps dev₀ d) (p : StoredPlan) :
    Keeps dev₀ (Device.startStored d p) := by
  unfold Device.startStored
  iterate 30 try any_goals first
    | with_reducible first | assumption | rfl
    | (extract_lets +onlyGivenNames e
       first | refine Keeps.cut (e := e) ?_ (fun _ => ?_) <;> [subst e; clear_value e]
             | (have : Option _ := e; clear this; clear_value e) | skip)
    | with_reducible (
        first | apply Device.win_keeps | apply Device.addPlan_keeps | apply Device.installPlan_keeps
              | apply Keeps.ite)
    | split
    | with_reducible (
        first | apply Keeps.foldl | apply Keeps.foldl_fst | apply Keeps.of_fst ‹_› | apply Keeps.put | apply Keeps.putLect)
    | intro _ _ _ | intro _ _
    | simp +zetaDelta only [setAt, List.length_set, List.length_map, List.length_zipIdx, Window.setIbi_events]; done

theorem Device.startStoredPlans_keeps {dev₀ d : Device} (kept : Keeps dev₀ d) :
    Keeps dev₀ (Device.startStoredPlans d) := by
  unfold Device.startStoredPlans
  iterate 30 try any_goals first
    | with_reducible first | assumption | rfl
    | (extract_lets +onlyGivenNames e
       first | refine Keeps.cut (e := e) ?_ (fun _ => ?_) <;> [subst e; clear_value e]
             | (have : Option _ := e; clear this; clear_value e) | skip)
    | with_reducible (
        first | apply Device.startStored_keeps | apply Keeps.ite)
    | split
    | with_reducible (
        first | apply Keeps.foldl | apply Keeps.foldl_fst | apply Keeps.of_fst ‹_› | apply Keeps.put | apply Keeps.putLect)
    | intro _ _ _ | intro _ _
    | simp +zetaDelta only [setAt, List.length_set, List.length_map, List.length_zipIdx, Window.setIbi_events]; done

theorem Device.powerAll_keeps {dev₀ d : Device} (kept : Keeps dev₀ d) : Keeps dev₀ (Device.powerAll d) := by
  unfold Device.powerAll
  iterate 30 try any_goals first
    | with_reducible first | assumption | rfl
    | (extract_lets +onlyGivenNames e
       first | refine Keeps.cut (e := e) ?_ (fun _ => ?_) <;> [subst e; clear_value e]
             | (have : Option _ := e; clear this; clear_value e) | skip)
    | with_reducible (
        first | apply Device.setCounter_keeps | apply Device.setDom_keeps | apply Device.counters_keeps
              | apply Keeps.ite)
    | split
    | with_reducible (
        first | apply Keeps.foldl | apply Keeps.foldl_fst | apply Keeps.of_fst ‹_› | apply Keeps.put | apply Keeps.putLect)
    | intro _ _ _ | intro _ _
    | simp +zetaDelta only [setAt, List.length_set, List.length_map, List.length_zipIdx, Window.setIbi_events]; done

theorem Device.strapPorts_keeps {dev₀ d : Device} (kept : Keeps dev₀ d) : Keeps dev₀ (Device.strapPorts d) := by
  unfold Device.strapPorts
  iterate 30 try any_goals first
    | with_reducible first | assumption | rfl
    | (extract_lets +onlyGivenNames e
       first | refine Keeps.cut (e := e) ?_ (fun _ => ?_) <;> [subst e; clear_value e]
             | (have : Option _ := e; clear this; clear_value e) | skip)
    | with_reducible (
        first | apply Keeps.ite)
    | split
    | with_reducible (
        first | apply Keeps.foldl | apply Keeps.foldl_fst | apply Keeps.of_fst ‹_› | apply Keeps.put | apply Keeps.putLect)
    | intro _ _ _ | intro _ _
    | simp +zetaDelta only [setAt, List.length_set, List.length_map, List.length_zipIdx, Window.setIbi_events]; done

theorem Device.reachReady_keeps {dev₀ d : Device} (kept : Keeps dev₀ d) : Keeps dev₀ (Device.reachReady d) := by
  unfold Device.reachReady
  iterate 30 try any_goals first
    | with_reducible first | assumption | rfl
    | (extract_lets +onlyGivenNames e
       first | refine Keeps.cut (e := e) ?_ (fun _ => ?_) <;> [subst e; clear_value e]
             | (have : Option _ := e; clear this; clear_value e) | skip)
    | with_reducible (
        first | apply Device.win_keeps | apply Device.watchStatus_keeps | apply Device.settleDomains_keeps
              | apply Device.startPlanners_keeps | apply Device.settleStarts_keeps | apply Device.settleReady_keeps
              | apply Keeps.ite)
    | split
    | with_reducible (
        first | apply Keeps.foldl | apply Keeps.foldl_fst | apply Keeps.of_fst ‹_› | apply Keeps.put | apply Keeps.putLect)
    | intro _ _ _ | intro _ _
    | simp +zetaDelta only [setAt, List.length_set, List.length_map, List.length_zipIdx, Window.setIbi_events]; done

theorem Device.recoveryPort_keeps {dev₀ d : Device} (kept : Keeps dev₀ d) : Keeps dev₀ (Device.recoveryPort d) := by
  unfold Device.recoveryPort
  repeat' first
    | assumption | split
    | with_reducible (
        first | apply Device.setIn_keeps)

theorem Device.bootFrom2_keeps {dev₀ d : Device} (kept : Keeps dev₀ d) (f : BootFindings) :
    Keeps dev₀ (Device.bootFrom2 d f) := by
  unfold Device.bootFrom2
  iterate 30 try any_goals first
    | with_reducible first | assumption | rfl
    | (extract_lets +onlyGivenNames e
       first | refine Keeps.cut (e := e) ?_ (fun _ => ?_) <;> [subst e; clear_value e]
             | (have : Option _ := e; clear this; clear_value e) | skip)
    | with_reducible (
        first | apply Device.win_keeps | apply Device.event_keeps | apply Device.enterSafe_keeps
              | apply Device.calibrate_keeps | apply Device.fenceAt_keeps | apply Device.lbist_keeps
              | apply Device.commitSvn_keeps | apply Device.initMemory_keeps | apply Device.startStoredPlans_keeps
              | apply Device.powerAll_keeps | apply Device.strapPorts_keeps | apply Device.reachReady_keeps
              | apply Device.recoveryPort_keeps | apply Keeps.ite)
    | split
    | with_reducible (
        first | apply Keeps.foldl | apply Keeps.foldl_fst | apply Keeps.of_fst ‹_› | apply Keeps.put | apply Keeps.putLect)
    | intro _ _ _ | intro _ _
    | simp +zetaDelta only [setAt, List.length_set, List.length_map, List.length_zipIdx, Window.setIbi_events]; done

theorem Device.powerUp_keeps {dev₀ d : Device} (kept : Keeps dev₀ d) (now : Time) : Keeps dev₀ (d.powerUp now) :=
  kept.restart rfl rfl rfl (.inl rfl) rfl rfl rfl rfl

theorem Device.holdReset_keeps {dev₀ d : Device} (kept : Keeps dev₀ d) : Keeps dev₀ d.holdReset :=
  kept.restart rfl rfl rfl (.inr rfl) rfl rfl rfl rfl

theorem Device.lecternCause_keeps {dev₀ d : Device} (kept : Keeps dev₀ d) (c : SafeCause) (st : Status) :
    Keeps dev₀ (Device.lecternCause d c st) := by
  unfold Device.lecternCause
  repeat' first
    | assumption | split
    | with_reducible (
        first | apply Device.event_keeps | apply Device.enterSafe_keeps)

theorem Device.inStandby_keeps {dev₀ d : Device} (kept : Keeps dev₀ d) (n : Fin 64) :
    Keeps dev₀ (Device.inStandby d n) := by
  unfold Device.inStandby
  iterate 30 try any_goals first
    | with_reducible first | assumption | rfl
    | (extract_lets +onlyGivenNames e
       first | refine Keeps.cut (e := e) ?_ (fun _ => ?_) <;> [subst e; clear_value e]
             | (have : Option _ := e; clear this; clear_value e) | skip)
    | with_reducible (
        first | apply Device.win_keeps | apply Device.watchStatus_keeps | apply Device.reply_keeps
              | apply Keeps.ite)
    | split
    | with_reducible (
        first | apply Keeps.foldl | apply Keeps.foldl_fst | apply Keeps.of_fst ‹_› | apply Keeps.put | apply Keeps.putLect)
    | intro _ _ _ | intro _ _
    | simp +zetaDelta only [setAt, List.length_set, List.length_map, List.length_zipIdx, Window.setIbi_events]; done

theorem Device.reinstall_keeps {dev₀ d : Device} (kept : Keeps dev₀ d) : Keeps dev₀ (Device.reinstall d) := by
  unfold Device.reinstall
  repeat' first
    | with_reducible assumption
    | (extract_lets +onlyGivenNames e
       first | refine Keeps.cut (e := e) ?_ (fun _ => ?_) <;> [subst e; clear_value e] | skip)
    | with_reducible (
        first | apply Device.installHooks_keeps | apply Device.installImages_keeps
              | apply Device.installTiles_keeps | apply Device.installEngines_keeps
              | apply Device.installStreams_keeps | apply Device.autoStart_keeps | apply Keeps.ite)
    | split

theorem Device.leaveStandby_keeps {dev₀ d : Device} (kept : Keeps dev₀ d) (own : Option (Fin 64)) (f : BootFindings) :
    Keeps dev₀ (d.leaveStandby own f) := by
  unfold Device.leaveStandby
  extract_lets s idle s2 s3 s4 e g h
  have ke : Keeps dev₀ e := by
    refine kept.trans ⟨⟨id, id, id, id, id, fun h => ?_, .refl _⟩, id⟩
    obtain ⟨-, h2, h3, h4, h5, h6, h7⟩ := h
    exact ⟨by simp [e, idle], h2, h3, h4, h5, h6, h7⟩
  have kg : Keeps dev₀ g := watchStatus_keeps (win_keeps ke rfl)
  have kh : Keeps dev₀ h := powerAll_keeps (strapPorts_keeps (lbist_keeps (calibrate_keeps kg _) _))
  have kr : Keeps dev₀ h.reinstall.reachReady := reachReady_keeps (reinstall_keeps kh)
  split
  · exact reply_keeps kr ..
  · exact kr

theorem Device.enterStandby_keeps {dev₀ d : Device} (kept : Keeps dev₀ d) (n : Fin 64) :
    Keeps dev₀ (Device.enterStandby d n) := by
  unfold Device.enterStandby
  iterate 30 try any_goals first
    | with_reducible first | assumption | rfl
    | (extract_lets +onlyGivenNames e
       first | refine Keeps.cut (e := e) ?_ (fun _ => ?_) <;> [subst e; clear_value e]
             | (have : Option _ := e; clear this; clear_value e) | skip)
    | with_reducible (
        first | apply Device.goOn_keeps | apply Device.settleStandby_keeps | apply Device.stopJob_keeps
              | apply Device.disableOutputs_keeps | apply Device.inStandby_keeps | apply Keeps.ite)
    | split
    | with_reducible (
        first | apply Keeps.foldl | apply Keeps.foldl_fst | apply Keeps.of_fst ‹_› | apply Keeps.put | apply Keeps.putLect)
    | intro _ _ _ | intro _ _
    | simp +zetaDelta only [setAt, List.length_set, List.length_map, List.length_zipIdx, Window.setIbi_events]; done

theorem Device.domainOff_keeps {dev₀ d : Device} (kept : Keeps dev₀ d) (k : Nat) :
    Keeps dev₀ (Device.domainOff d k) := by
  unfold Device.domainOff
  repeat' first
    | with_reducible assumption
    | (extract_lets +onlyGivenNames e
       first | refine Keeps.cut (e := e) ?_ (fun _ => ?_) <;> [subst e; clear_value e] | skip)
    | with_reducible (
        first | apply Device.setDom_keeps | apply Device.loseDomain_keeps | apply Device.inStandby_keeps
              | apply Device.leaveStandby_keeps | apply Keeps.ite)
    | split

theorem Device.recoveryPacket_keeps {dev₀ d : Device} (kept : Keeps dev₀ d) (p : Pkt) (f : BootFindings) :
    Keeps dev₀ (d.recoveryPacket p f) := by
  unfold Device.recoveryPacket
  extract_lets h b body s keep got len known
  have kk : ∀ x, Keeps dev₀ (keep x) := fun x => kept.put rfl rfl rfl rfl rfl rfl rfl rfl rfl rfl
  clear_value keep got len known
  with_reducible refine Keeps.ite kept (Keeps.ite (kk _) (Keeps.ite (Keeps.ite (kk _) (kk _)) (Keeps.ite (kk _) ?_)))
  split
  · exact kk _
  · with_reducible
      apply bootFrom2_keeps
      apply Keeps.putNv
    · exact holdReset_keeps kept
    · exact .of_eq rfl rfl rfl

theorem Device.finishFwUpdate_keeps {dev₀ d : Device} (kept : Keeps dev₀ d) (n : Fin 64) (img : Bytes) :
    Keeps dev₀ (d.finishFwUpdate n img) := by
  unfold Device.finishFwUpdate
  dsimp only
  split
  · exact fail_keeps kept ..
  · refine reply_keeps (kept.putNv ?_) ..
    refine .of_eq ?_ ?_ ?_ <;> dsimp only <;> split <;> rfl

theorem Device.attest_keeps {dev₀ d : Device} (kept : Keeps dev₀ d) (n : Fin 64) :
    Keeps dev₀ (Device.attest d n) := by
  unfold Device.attest
  repeat' first
    | assumption | split
    | with_reducible (
        first | apply Device.reply_keeps | apply Device.hold_keeps)

theorem execOutputsEnable_keeps (now : Time) (drawer : Fin 64) (s : State) :
    StepKeeps s (execOutputsEnable now drawer s) := by
  refine State.onAlive_keeps fun e kept => ?_
  iterate 30 try any_goals first
    | with_reducible first | assumption | rfl
    | (extract_lets +onlyGivenNames e
       first | refine Keeps.cut (e := e) ?_ (fun _ => ?_) <;> [subst e; clear_value e]
             | (have : Option _ := e; clear this; clear_value e) | skip)
    | with_reducible (
        first | apply Device.command_keeps | apply Device.outputs_keeps | apply Keeps.ite)
    | split
    | with_reducible (
        first | apply Keeps.foldl | apply Keeps.foldl_fst | apply Keeps.of_fst ‹_› | apply Keeps.put | apply Keeps.putLect)
    | intro _ _ _ | intro _ _
    | simp +zetaDelta only [setAt, List.length_set, List.length_map, List.length_zipIdx, Window.setIbi_events]; done

theorem execOutputsDisable_keeps (now : Time) (drawer : Fin 64) (s : State) :
    StepKeeps s (execOutputsDisable now drawer s) := by
  refine State.onAlive_keeps fun e kept => ?_
  iterate 30 try any_goals first
    | with_reducible first | assumption | rfl
    | (extract_lets +onlyGivenNames e
       first | refine Keeps.cut (e := e) ?_ (fun _ => ?_) <;> [subst e; clear_value e]
             | (have : Option _ := e; clear this; clear_value e) | skip)
    | with_reducible (
        first | apply Device.command_keeps | apply Device.outputs_keeps | apply Keeps.ite)
    | split
    | with_reducible (
        first | apply Keeps.foldl | apply Keeps.foldl_fst | apply Keeps.of_fst ‹_› | apply Keeps.put | apply Keeps.putLect)
    | intro _ _ _ | intro _ _
    | simp +zetaDelta only [setAt, List.length_set, List.length_map, List.length_zipIdx, Window.setIbi_events]; done

theorem execBatteryTurnOn_keeps (now : Time) (f : BootFindings) (s : State) :
    StepKeeps s (execBatteryTurnOn now f s) := by
  refine State.act_keeps fun e kept => ?_
  repeat' first
    | assumption | split
    | with_reducible (
        first | apply Device.bootFrom2_keeps | apply Device.powerUp_keeps)

theorem execResetNAssert_keeps (now : Time) (s : State) : StepKeeps s (execResetNAssert now s) := by
  refine State.act_keeps fun e kept => ?_
  repeat' first
    | assumption | split
    | with_reducible (
        first | apply Device.holdReset_keeps)

theorem execResetNRelease_keeps (now : Time) (f : BootFindings) (s : State) :
    StepKeeps s (execResetNRelease now f s) := by
  refine State.act_keeps fun e kept => ?_
  repeat' first
    | assumption | split
    | with_reducible (
        first | apply Device.bootFrom2_keeps)

theorem execBrownOut_keeps (now : Time) (s : State) : StepKeeps s (execBrownOut now s) :=
  State.act_keeps fun _ kept => Keeps.ite kept
    ((Device.lecternCause_keeps kept ..).restart rfl rfl rfl (.inl rfl) rfl rfl rfl rfl)

theorem execOverVoltageTrip_keeps (now : Time) (s : State) : StepKeeps s (execOverVoltageTrip now s) := by
  refine State.onAlive_keeps fun e kept => ?_
  repeat' first
    | with_reducible assumption
    | (extract_lets +onlyGivenNames e
       first | refine Keeps.cut (e := e) ?_ (fun _ => ?_) <;> [subst e; clear_value e] | skip)
    | with_reducible (
        first | apply Device.shutdown_keeps | apply Device.lecternCause_keeps | apply Keeps.ite)
    | split

theorem execStandbyEnter_keeps (now : Time) (drawer : Fin 64) (s : State) :
    StepKeeps s (execStandbyEnter now drawer s) := by
  refine State.onAlive_keeps fun e kept => ?_
  iterate 30 try any_goals first
    | with_reducible first | assumption | rfl
    | (extract_lets +onlyGivenNames e
       first | refine Keeps.cut (e := e) ?_ (fun _ => ?_) <;> [subst e; clear_value e]
             | (have : Option _ := e; clear this; clear_value e) | skip)
    | with_reducible (
        first | apply Device.reply_keeps | apply Device.command_keeps | apply Device.enterStandby_keeps
              | apply Keeps.ite)
    | split
    | with_reducible (
        first | apply Keeps.foldl | apply Keeps.foldl_fst | apply Keeps.of_fst ‹_› | apply Keeps.put | apply Keeps.putLect)
    | intro _ _ _ | intro _ _
    | simp +zetaDelta only [setAt, List.length_set, List.length_map, List.length_zipIdx, Window.setIbi_events]; done

theorem execStandbyLeave_keeps (now : Time) (drawer : Fin 64) (f : BootFindings) (s : State) :
    StepKeeps s (execStandbyLeave now drawer f s) := by
  refine State.onAlive_keeps fun e kept => ?_
  iterate 30 try any_goals first
    | with_reducible first | assumption | rfl
    | (extract_lets +onlyGivenNames e
       first | refine Keeps.cut (e := e) ?_ (fun _ => ?_) <;> [subst e; clear_value e]
             | (have : Option _ := e; clear this; clear_value e) | skip)
    | with_reducible (
        first | apply Device.reply_keeps | apply Device.command_keeps | apply Device.leaveStandby_keeps
              | apply Keeps.ite)
    | split
    | with_reducible (
        first | apply Keeps.foldl | apply Keeps.foldl_fst | apply Keeps.of_fst ‹_› | apply Keeps.put | apply Keeps.putLect)
    | intro _ _ _ | intro _ _
    | simp +zetaDelta only [setAt, List.length_set, List.length_map, List.length_zipIdx, Window.setIbi_events]; done

theorem execWakeEdge_keeps (now : Time) (f : BootFindings) (s : State) : StepKeeps s (execWakeEdge now f s) := by
  refine State.act_keeps fun e kept => ?_
  iterate 30 try any_goals first
    | with_reducible first | assumption | rfl
    | (extract_lets +onlyGivenNames e
       first | refine Keeps.cut (e := e) ?_ (fun _ => ?_) <;> [subst e; clear_value e]
             | (have : Option _ := e; clear this; clear_value e) | skip)
    | with_reducible (
        first | apply Device.leaveStandby_keeps | apply Keeps.ite)
    | split
    | with_reducible (
        first | apply Keeps.foldl | apply Keeps.foldl_fst | apply Keeps.of_fst ‹_› | apply Keeps.put | apply Keeps.putLect)
    | intro _ _ _ | intro _ _
    | simp +zetaDelta only [setAt, List.length_set, List.length_map, List.length_zipIdx, Window.setIbi_events]; done

theorem execDomainOffDone_keeps (now : Time) (dom : Fin 68) (s : State) :
    StepKeeps s (execDomainOffDone now dom s) := by
  refine State.onUp_keeps fun e kept => ?_
  repeat' first
    | assumption | split
    | with_reducible (
        first | apply Device.domainOff_keeps)

theorem execRecoveryPacket_keeps (now : Time) (p : Pkt) (f : BootFindings) (s : State) :
    StepKeeps s (execRecoveryPacket now p f s) := by
  refine State.act_keeps fun e kept => ?_
  repeat' first
    | assumption | split
    | with_reducible (
        first | apply Device.recoveryPacket_keeps)

theorem execPersistRecord_keeps (now : Time) (s : State) : StepKeeps s (execPersistRecord now s) := by
  refine State.onUp_keeps fun e kept => ?_
  split
  · exact kept
  · exact (kept.putNv (NonVolatile.putPersist_kept ..)).put rfl rfl rfl rfl rfl rfl rfl rfl rfl rfl

theorem execServiceClear_keeps (now : Time) (drawer : Fin 64) (s : State) :
    StepKeeps s (execServiceClear now drawer s) := by
  refine State.drawerCommand_keeps fun _ kept => ?_
  extract_lets p v old gone c cleared
  clear_value cleared c
  refine Device.reply_keeps ?_ _ _ _
  exact (kept.putNv (NonVolatile.putPersist_kept _ c)).put rfl rfl rfl rfl rfl rfl rfl rfl rfl rfl

theorem execFwUpdate_keeps (now : Time) (drawer : Fin 64) (s : State) : StepKeeps s (execFwUpdate now drawer s) := by
  refine State.drawerCommand_keeps fun e kept => ?_
  repeat' first
    | assumption | split
    | with_reducible (
        first | apply Device.fail_keeps | apply Device.armBulk_keeps)

theorem execAttest_keeps (now : Time) (drawer : Fin 64) (s : State) : StepKeeps s (execAttest now drawer s) := by
  refine State.drawerCommand_keeps fun e kept => ?_
  repeat' first
    | assumption | split
    | with_reducible (
        first | apply Device.attest_keeps)

end Sys2Proof.Machine
end

