-- ==== Sys2Proof/Laws/KeepsIngest.lean ====
section
/-!
SUPPORT. What the operations of `Machine/Ingest` keep: the invariants of `Safety`, a held safe state and the fuses.
-/

set_option linter.all false

namespace Sys2Proof.Machine

theorem Device.setStream_keeps {dev₀ d : Device} (kept : Keeps dev₀ d) (tag : BitVec 12) (x : Stream) :
    Keeps dev₀ (Device.setStream d tag x) :=
  kept.put rfl rfl rfl rfl rfl rfl rfl rfl rfl rfl

theorem Device.settleStream_keeps {dev₀ d : Device} (kept : Keeps dev₀ d) (tag : BitVec 12) :
    Keeps dev₀ (Device.settleStream d tag) := by
  unfold Device.settleStream
  iterate 30 try any_goals first
    | with_reducible first | assumption | rfl
    | (extract_lets +onlyGivenNames e
       first | refine Keeps.cut (e := e) ?_ (fun _ => ?_) <;> [subst e; clear_value e]
             | (have : Option _ := e; clear this; clear_value e) | skip)
    | with_reducible (
        first | apply Device.finishModes_keeps | apply Device.ackStream_keeps | apply Device.setStream_keeps
              | apply Keeps.ite)
    | split
    | with_reducible (
        first | apply Keeps.foldl | apply Keeps.foldl_fst | apply Keeps.of_fst ‹_› | apply Keeps.put | apply Keeps.putLect)
    | intro _ _ _ | intro _ _
    | simp +zetaDelta only [setAt, List.length_set, List.length_map, List.length_zipIdx, Window.setIbi_events]; done

theorem Device.releaseDecoder_keeps {dev₀ d : Device} (kept : Keeps dev₀ d) (tag : BitVec 12) (seq : BitVec 32) :
    Keeps dev₀ (Device.releaseDecoder d tag seq) :=
  kept.put rfl rfl rfl rfl rfl rfl rfl rfl rfl rfl

theorem Device.endSample_keeps {dev₀ d : Device} (kept : Keeps dev₀ d) (tag : BitVec 12) (s : Sample) (es : List SampleError) :
    Keeps dev₀ (Device.endSample d tag s es) := by
  unfold Device.endSample
  repeat' first
    | assumption | split
    | with_reducible (
        first | apply Device.failMember_keeps | apply Device.setStream_keeps | apply Device.settleStream_keeps
              | apply Device.releaseDecoder_keeps)

theorem Device.failSample_keeps {dev₀ d : Device} (kept : Keeps dev₀ d) (tag : BitVec 12) (seq : BitVec 32) (stage : Nat) (st : Status) :
    Keeps dev₀ (Device.failSample d tag seq stage st) := by
  unfold Device.failSample
  repeat' first
    | assumption | split
    | with_reducible (
        first | apply Device.endSample_keeps)

theorem Device.withholdSample_keeps {dev₀ d : Device} (kept : Keeps dev₀ d) (tag : BitVec 12) (seq : BitVec 32) :
    Keeps dev₀ (Device.withholdSample d tag seq) := by
  unfold Device.withholdSample
  repeat' first
    | assumption | split
    | with_reducible (
        first | apply Device.notify_keeps | apply Device.failSample_keeps)

theorem Device.joinGroup_keeps {dev₀ d : Device} (kept : Keeps dev₀ d) (x : Image) (s : Sample) :
    Keeps dev₀ (Device.joinGroup d x s).1 := by
  unfold Device.joinGroup
  iterate 30 try any_goals first
    | with_reducible first | assumption | rfl
    | (extract_lets +onlyGivenNames e
       first | refine Keeps.cut (e := e) ?_ (fun _ => ?_) <;> [subst e; clear_value e]
             | (have : Option _ := e; clear this; clear_value e) | skip)
    | with_reducible (
        first | apply Keeps.ite)
    | split
    | with_reducible (
        first | apply Keeps.foldl | apply Keeps.foldl_fst | apply Keeps.of_fst ‹_› | apply Keeps.put | apply Keeps.putLect)
    | intro _ _ _ | intro _ _
    | simp +zetaDelta only [setAt, List.length_set, List.length_map, List.length_zipIdx, Window.setIbi_events]; done

theorem Device.openSample_keeps {dev₀ d : Device} (kept : Keeps dev₀ d) (tag : BitVec 12) (desc : Image) (seq : BitVec 32) (fs : Time) :
    Keeps dev₀ (Device.openSample d tag desc seq fs) := by
  unfold Device.openSample
  repeat' first
    | with_reducible assumption
    | (extract_lets +onlyGivenNames e
       first | refine Keeps.cut (e := e) ?_ (fun _ => ?_) <;> [subst e; clear_value e] | skip)
    | with_reducible (
        first | apply Device.header_keeps | apply Device.setStream_keeps | apply Device.failSample_keeps
              | apply Device.joinGroup_keeps | apply Keeps.ite)
    | split

theorem Device.augFor_keeps {dev₀ d : Device} (kept : Keeps dev₀ d) (r : JobRef) (dest : Image) (s : Sample) :
    Keeps dev₀ (Device.augFor d r dest s).1 := by
  unfold Device.augFor
  repeat' first
    | assumption | split
    | with_reducible (
        first | apply Device.hubRead_keeps)

theorem Device.takeSlot_keeps {dev₀ d : Device} (kept : Keeps dev₀ d) (tag : BitVec 12) (dest : Image) :
    Keeps dev₀ (Device.takeSlot d tag dest).1 := by
  unfold Device.takeSlot
  iterate 30 try any_goals first
    | with_reducible first | assumption | rfl
    | (extract_lets +onlyGivenNames e
       first | refine Keeps.cut (e := e) ?_ (fun _ => ?_) <;> [subst e; clear_value e]
             | (have : Option _ := e; clear this; clear_value e) | skip)
    | with_reducible (
        first | apply Device.tryHook_keeps | apply Device.setStream_keeps | apply Keeps.ite)
    | split
    | with_reducible (
        first | apply Keeps.foldl | apply Keeps.foldl_fst | apply Keeps.of_fst ‹_› | apply Keeps.put | apply Keeps.putLect)
    | intro _ _ _ | intro _ _
    | simp +zetaDelta only [setAt, List.length_set, List.length_map, List.length_zipIdx, Window.setIbi_events]; done

theorem Device.takeParts_keeps {dev₀ d : Device} (kept : Keeps dev₀ d) (tag : BitVec 12) (dest : Image)
    (l : List (Nat × Region)) : Keeps dev₀ (d.takeParts tag dest l).1 := by
  induction l generalizing d with
  | nil => exact kept
  | cons x l ih =>
    have kt := takeSlot_keeps kept tag dest
    unfold Device.takeParts
    revert kt
    generalize d.takeSlot tag dest = t
    intro kt
    split
    · exact ih kt
    · exact ih kt

theorem Device.stage4_keeps {dev₀ d : Device} (kept : Keeps dev₀ d) (tag : BitVec 12) (seq : BitVec 32) :
    Keeps dev₀ (Device.stage4 d tag seq) := by
  unfold Device.stage4
  iterate 30 try any_goals first
    | with_reducible first | assumption | rfl
    | (extract_lets +onlyGivenNames e
       first | refine Keeps.cut (e := e) ?_ (fun _ => ?_) <;> [subst e; clear_value e]
             | (have : Option _ := e; clear this; clear_value e) | skip)
    | with_reducible (
        first | apply Device.setStream_keeps | apply Device.endSample_keeps | apply Device.failSample_keeps
              | apply Device.augFor_keeps | apply Device.takeParts_keeps | apply Device.missing_keeps
              | apply Keeps.ite)
    | split
    | with_reducible (
        first | apply Keeps.foldl | apply Keeps.foldl_fst | apply Keeps.of_fst ‹_› | apply Keeps.put | apply Keeps.putLect)
    | intro _ _ _ | intro _ _
    | simp +zetaDelta only [setAt, List.length_set, List.length_map, List.length_zipIdx, Window.setIbi_events]; done

theorem Device.modSample_keeps {dev₀ d : Device} (kept : Keeps dev₀ d) (tag : BitVec 12) (seq : BitVec 32) (f : Sample → Sample) :
    Keeps dev₀ (Device.modSample d tag seq f) := by
  unfold Device.modSample
  repeat' first
    | assumption | split
    | with_reducible (
        first | apply Device.setStream_keeps)

theorem Device.enqueue_keeps {dev₀ d : Device} (kept : Keeps dev₀ d) (tag : BitVec 12) (seq : BitVec 32) :
    Keeps dev₀ (Device.enqueue d tag seq) := by
  unfold Device.enqueue
  iterate 30 try any_goals first
    | with_reducible first | assumption | rfl
    | (extract_lets +onlyGivenNames e
       first | refine Keeps.cut (e := e) ?_ (fun _ => ?_) <;> [subst e; clear_value e]
             | (have : Option _ := e; clear this; clear_value e) | skip)
    | with_reducible (
        first | apply Device.failSample_keeps | apply Device.modSample_keeps | apply Keeps.ite)
    | split
    | with_reducible (
        first | apply Keeps.foldl | apply Keeps.foldl_fst | apply Keeps.of_fst ‹_› | apply Keeps.put | apply Keeps.putLect)
    | intro _ _ _ | intro _ _
    | simp +zetaDelta only [setAt, List.length_set, List.length_map, List.length_zipIdx, Window.setIbi_events]; done

theorem Device.abandonTest_keeps {dev₀ d : Device} (kept : Keeps dev₀ d) (tag : BitVec 12) :
    Keeps dev₀ (Device.abandonTest d tag) := by
  unfold Device.abandonTest
  repeat' first
    | with_reducible assumption
    | (extract_lets +onlyGivenNames e
       first | refine Keeps.cut (e := e) ?_ (fun _ => ?_) <;> [subst e; clear_value e] | skip)
    | with_reducible (
        first | apply Device.notify_keeps | apply Device.setStream_keeps | apply Keeps.ite)
    | split

theorem Device.frameStart_keeps {dev₀ d : Device} (kept : Keeps dev₀ d) (tag : BitVec 12) (n : Nat) (t : Time) :
    Keeps dev₀ (Device.frameStart d tag n t) := by
  unfold Device.frameStart
  repeat' first
    | with_reducible assumption
    | (extract_lets +onlyGivenNames e
       first | refine Keeps.cut (e := e) ?_ (fun _ => ?_) <;> [subst e; clear_value e] | skip)
    | with_reducible (
        first | apply Device.setStream_keeps | apply Device.settleStream_keeps | apply Device.failSample_keeps
              | apply Device.openSample_keeps | apply Device.abandonTest_keeps | apply Keeps.ite)
    | split

theorem Device.frameEnd_keeps {dev₀ d : Device} (kept : Keeps dev₀ d) (tag : BitVec 12) (n : BitVec 16) :
    Keeps dev₀ (Device.frameEnd d tag n) := by
  unfold Device.frameEnd
  repeat' first
    | with_reducible assumption
    | (extract_lets +onlyGivenNames e
       first | refine Keeps.cut (e := e) ?_ (fun _ => ?_) <;> [subst e; clear_value e] | skip)
    | with_reducible (
        first | apply Device.setStream_keeps | apply Device.failSample_keeps | apply Device.withholdSample_keeps
              | apply Device.modSample_keeps | apply Keeps.ite)
    | split

theorem Device.frameLine_keeps {dev₀ d : Device} (kept : Keeps dev₀ d) (tag : BitVec 12) (s : Sample) (b : Bytes) :
    Keeps dev₀ (Device.frameLine d tag s b) := by
  unfold Device.frameLine
  repeat' first
    | with_reducible assumption
    | (extract_lets +onlyGivenNames e
       first | refine Keeps.cut (e := e) ?_ (fun _ => ?_) <;> [subst e; clear_value e] | skip)
    | with_reducible (
        first | apply Device.failSample_keeps | apply Device.stage4_keeps | apply Device.modSample_keeps
              | apply Device.enqueue_keeps | apply Keeps.ite)
    | split

theorem Device.startUser_keeps {dev₀ d : Device} (kept : Keeps dev₀ d) (tag : BitVec 12) (seq : BitVec 32) (port : Fin 12) (t : Time) :
    Keeps dev₀ (Device.startUser d tag seq port t).1 := by
  unfold Device.startUser
  repeat' first
    | with_reducible assumption
    | (extract_lets +onlyGivenNames e
       first | refine Keeps.cut (e := e) ?_ (fun _ => ?_) <;> [subst e; clear_value e] | skip)
    | with_reducible (
        first | apply Device.countUnbound_keeps | apply Device.setStream_keeps | apply Device.settleStream_keeps
              | apply Device.openSample_keeps | apply Keeps.ite)
    | split

theorem Device.packetSample_keeps {dev₀ d : Device} (kept : Keeps dev₀ d) (tag : BitVec 12) (h : Image) (port : Fin 12) (t : Time) :
    Keeps dev₀ (Device.packetSample d tag h port t).1 := by
  unfold Device.packetSample
  repeat' first
    | with_reducible assumption
    | (extract_lets +onlyGivenNames e
       first | refine Keeps.cut (e := e) ?_ (fun _ => ?_) <;> [subst e; clear_value e] | skip)
    | with_reducible (
        first | apply Device.setStream_keeps | apply Device.failSample_keeps | apply Device.startUser_keeps
              | apply Keeps.ite)
    | split

theorem Device.markWhole_keeps {dev₀ d : Device} (kept : Keeps dev₀ d) (tag : BitVec 12) (seq : BitVec 32) (h : Image) :
    Keeps dev₀ (Device.markWhole d tag seq h) := by
  unfold Device.markWhole
  repeat' first
    | assumption | split
    | with_reducible (
        first | apply Device.modSample_keeps)

theorem Device.jpegWhole_keeps {dev₀ d : Device} (kept : Keeps dev₀ d) (tag : BitVec 12) (s : Sample) :
    Keeps dev₀ (Device.jpegWhole d tag s) := by
  unfold Device.jpegWhole
  repeat' first
    | with_reducible assumption
    | (extract_lets +onlyGivenNames e
       first | refine Keeps.cut (e := e) ?_ (fun _ => ?_) <;> [subst e; clear_value e] | skip)
    | with_reducible (
        first | apply Device.failSample_keeps | apply Device.stage4_keeps | apply Device.modSample_keeps
              | apply Device.enqueue_keeps | apply Keeps.ite)
    | split

theorem Device.jpegData_keeps {dev₀ d : Device} (kept : Keeps dev₀ d) (tag : BitVec 12) (seq : BitVec 32) (h : Image) (payload : Bytes) :
    Keeps dev₀ (Device.jpegData d tag seq h payload) := by
  unfold Device.jpegData
  repeat' first
    | with_reducible assumption
    | (extract_lets +onlyGivenNames e
       first | refine Keeps.cut (e := e) ?_ (fun _ => ?_) <;> [subst e; clear_value e] | skip)
    | with_reducible (
        first | apply Device.failSample_keeps | apply Device.modSample_keeps | apply Device.markWhole_keeps
              | apply Device.jpegWhole_keeps | apply Keeps.ite)
    | split

theorem Device.userPacket_keeps {dev₀ d : Device} (kept : Keeps dev₀ d) (p : Pkt)
    {f : Device → BitVec 12 → BitVec 32 → Image → Device} (hf : ∀ e t q h, Keeps dev₀ e → Keeps dev₀ (f e t q h)) :
    Keeps dev₀ (d.userPacket p f) := by
  unfold Device.userPacket
  have ka := arrive_keeps kept p
  split <;> rename_i h <;> rw [h] at ka
  · exact ka
  · exact ka
  · split
    · exact ka
    · have kq := packetSample_keeps ka ‹_› ‹_› p.port p.portTime
      split <;> rename_i h <;> rw [h] at kq
      · exact failSample_keeps (markWhole_keeps kq ..) ..
      · exact kq
  · split
    · exact countUnbound_keeps ka _
    · have kq := packetSample_keeps ka ‹_› ‹_› p.port p.portTime
      split <;> rename_i h <;> rw [h] at kq
      · exact hf _ _ _ _ kq
      · exact kq

theorem Device.pointData_keeps {dev₀ d : Device} (kept : Keeps dev₀ d) (tag : BitVec 12) (seq : BitVec 32) (h : Image) (payload : Bytes) :
    Keeps dev₀ (Device.pointData d tag seq h payload) := by
  unfold Device.pointData
  repeat' first
    | with_reducible assumption
    | (extract_lets +onlyGivenNames e
       first | refine Keeps.cut (e := e) ?_ (fun _ => ?_) <;> [subst e; clear_value e] | skip)
    | with_reducible (
        first | apply Device.header_keeps | apply Device.failSample_keeps | apply Device.stage4_keeps
              | apply Device.modSample_keeps | apply Device.markWhole_keeps | apply Keeps.ite)
    | split

theorem Device.writeTensor_keeps {dev₀ d : Device} (kept : Keeps dev₀ d) (r : JobRef) (dest : Image) (slot : Nat) (bs : Bytes) :
    Keeps dev₀ (Device.writeTensor d r dest slot bs) := by
  unfold Device.writeTensor
  iterate 30 try any_goals first
    | with_reducible first | assumption | rfl
    | (extract_lets +onlyGivenNames e
       first | refine Keeps.cut (e := e) ?_ (fun _ => ?_) <;> [subst e; clear_value e]
             | (have : Option _ := e; clear this; clear_value e) | skip)
    | with_reducible (
        first | apply Device.writeViewBytes_keeps | apply Device.cacheTouch_keeps | apply Device.wroteLine_keeps
              | apply Device.setTile_keeps | apply Keeps.ite)
    | split
    | with_reducible (
        first | apply Keeps.foldl | apply Keeps.foldl_fst | apply Keeps.of_fst ‹_› | apply Keeps.put | apply Keeps.putLect)
    | intro _ _ _ | intro _ _
    | simp +zetaDelta only [setAt, List.length_set, List.length_map, List.length_zipIdx, Window.setIbi_events]; done

theorem Device.writeParts_keeps {dev₀ d : Device} (kept : Keeps dev₀ d) (r : JobRef) (dest : Image) (s : Sample) (g : Option Img) :
    Keeps dev₀ (Device.writeParts d r dest s g).1 := by
  unfold Device.writeParts
  iterate 30 try any_goals first
    | with_reducible first | assumption | rfl
    | (extract_lets +onlyGivenNames e
       first | refine Keeps.cut (e := e) ?_ (fun _ => ?_) <;> [subst e; clear_value e]
             | (have : Option _ := e; clear this; clear_value e) | skip)
    | with_reducible (
        first | apply Device.bump_keeps | apply Device.header_keeps | apply Device.writeTensor_keeps
              | apply Keeps.ite)
    | split
    | with_reducible (
        first | apply Keeps.foldl | apply Keeps.foldl_fst | apply Keeps.of_fst ‹_› | apply Keeps.put | apply Keeps.putLect)
    | intro _ _ _ | intro _ _
    | simp +zetaDelta only [setAt, List.length_set, List.length_map, List.length_zipIdx, Window.setIbi_events]; done

theorem Device.completeSample_keeps {dev₀ d : Device} (kept : Keeps dev₀ d) (tag : BitVec 12) (s : Sample) (g : Option Img) (work : Nat) :
    Keeps dev₀ (Device.completeSample d tag s g work) := by
  unfold Device.completeSample
  iterate 30 try any_goals first
    | with_reducible first | assumption | rfl
    | (extract_lets +onlyGivenNames e
       first | refine Keeps.cut (e := e) ?_ (fun _ => ?_) <;> [subst e; clear_value e]
             | (have : Option _ := e; clear this; clear_value e) | skip)
    | with_reducible (
        first | apply Device.setStream_keeps | apply Device.settleStream_keeps | apply Device.releaseDecoder_keeps
              | apply Device.failSample_keeps | apply Device.writeParts_keeps | apply Keeps.ite)
    | split
    | with_reducible (
        first | apply Keeps.foldl | apply Keeps.foldl_fst | apply Keeps.of_fst ‹_› | apply Keeps.put | apply Keeps.putLect)
    | intro _ _ _ | intro _ _
    | simp +zetaDelta only [setAt, List.length_set, List.length_map, List.length_zipIdx, Window.setIbi_events]; done

theorem Device.postRecord_keeps {dev₀ d : Device} (kept : Keeps dev₀ d) (tag : BitVec 12) :
    Keeps dev₀ (Device.postRecord d tag) := by
  unfold Device.postRecord
  repeat' first
    | assumption | split
    | with_reducible (
        first | apply Device.writeLines_keeps | apply Device.signalHook_keeps | apply Device.setStream_keeps
              | apply Device.settleStream_keeps)

theorem execFrameStart_keeps (now : Time) (p : ShortPkt) (s : State) : StepKeeps s (execFrameStart now p s) := by
  refine State.onUp_keeps fun e kept => ?_
  iterate 30 try any_goals first
    | with_reducible first | assumption | rfl
    | (extract_lets +onlyGivenNames e
       first | refine Keeps.cut (e := e) ?_ (fun _ => ?_) <;> [subst e; clear_value e]
             | (have : Option _ := e; clear this; clear_value e) | skip)
    | with_reducible (
        first | apply Device.portAt_keeps | apply Device.header_keeps | apply Device.settleDomains_keeps
              | apply Device.setStream_keeps | apply Device.frameStart_keeps | apply Keeps.ite)
    | split
    | with_reducible (
        first | apply Keeps.foldl | apply Keeps.foldl_fst | apply Keeps.of_fst ‹_› | apply Keeps.put | apply Keeps.putLect)
    | intro _ _ _ | intro _ _
    | simp +zetaDelta only [setAt, List.length_set, List.length_map, List.length_zipIdx, Window.setIbi_events]; done

theorem execFrameEnd_keeps (now : Time) (p : ShortPkt) (s : State) : StepKeeps s (execFrameEnd now p s) := by
  refine State.onUp_keeps fun e kept => ?_
  iterate 30 try any_goals first
    | with_reducible first | assumption | rfl
    | (extract_lets +onlyGivenNames e
       first | refine Keeps.cut (e := e) ?_ (fun _ => ?_) <;> [subst e; clear_value e]
             | (have : Option _ := e; clear this; clear_value e) | skip)
    | with_reducible (
        first | apply Device.portAt_keeps | apply Device.header_keeps | apply Device.frameEnd_keeps
              | apply Keeps.ite)
    | split
    | with_reducible (
        first | apply Keeps.foldl | apply Keeps.foldl_fst | apply Keeps.of_fst ‹_› | apply Keeps.put | apply Keeps.putLect)
    | intro _ _ _ | intro _ _
    | simp +zetaDelta only [setAt, List.length_set, List.length_map, List.length_zipIdx, Window.setIbi_events]; done

theorem execImageLinePacket_keeps (now : Time) (p : Pkt) (s : State) : StepKeeps s (execImageLinePacket now p s) := by
  refine State.onUp_keeps fun e kept => ?_
  iterate 30 try any_goals first
    | with_reducible first | assumption | rfl
    | (extract_lets +onlyGivenNames e
       first | refine Keeps.cut (e := e) ?_ (fun _ => ?_) <;> [subst e; clear_value e]
             | (have : Option _ := e; clear this; clear_value e) | skip)
    | with_reducible (
        first | apply Device.countUnbound_keeps | apply Device.arrive_keeps | apply Device.failSample_keeps
              | apply Device.frameLine_keeps | apply Keeps.ite)
    | split
    | with_reducible (
        first | apply Keeps.foldl | apply Keeps.foldl_fst | apply Keeps.of_fst ‹_› | apply Keeps.put | apply Keeps.putLect)
    | intro _ _ _ | intro _ _
    | simp +zetaDelta only [setAt, List.length_set, List.length_map, List.length_zipIdx, Window.setIbi_events]; done

theorem execEmbeddedDataPacket_keeps (now : Time) (p : Pkt) (s : State) :
    StepKeeps s (execEmbeddedDataPacket now p s) := by
  refine State.onUp_keeps fun e kept => ?_
  iterate 30 try any_goals first
    | with_reducible first | assumption | rfl
    | (extract_lets +onlyGivenNames e
       first | refine Keeps.cut (e := e) ?_ (fun _ => ?_) <;> [subst e; clear_value e]
             | (have : Option _ := e; clear this; clear_value e) | skip)
    | with_reducible (
        first | apply Device.arrive_keeps | apply Device.withholdSample_keeps | apply Device.modSample_keeps
              | apply Keeps.ite)
    | split
    | with_reducible (
        first | apply Keeps.foldl | apply Keeps.foldl_fst | apply Keeps.of_fst ‹_› | apply Keeps.put | apply Keeps.putLect)
    | intro _ _ _ | intro _ _
    | simp +zetaDelta only [setAt, List.length_set, List.length_map, List.length_zipIdx, Window.setIbi_events]; done

theorem execJpegPacket_keeps (now : Time) (p : Pkt) (s : State) : StepKeeps s (execJpegPacket now p s) := by
  refine State.onUp_keeps fun e kept => ?_
  iterate 30 try any_goals first
    | with_reducible first | assumption | rfl
    | (extract_lets +onlyGivenNames e
       first | refine Keeps.cut (e := e) ?_ (fun _ => ?_) <;> [subst e; clear_value e]
             | (have : Option _ := e; clear this; clear_value e) | skip)
    | with_reducible (
        first | apply Device.settleDomains_keeps | apply Device.jpegData_keeps | apply Device.userPacket_keeps
              | apply Keeps.ite)
    | split
    | with_reducible (
        first | apply Keeps.foldl | apply Keeps.foldl_fst | apply Keeps.of_fst ‹_› | apply Keeps.put | apply Keeps.putLect)
    | intro _ _ _ | intro _ _
    | simp +zetaDelta only [setAt, List.length_set, List.length_map, List.length_zipIdx, Window.setIbi_events]; done

theorem execPointPacket_keeps (now : Time) (p : Pkt) (s : State) : StepKeeps s (execPointPacket now p s) := by
  refine State.onUp_keeps fun e kept => ?_
  iterate 30 try any_goals first
    | with_reducible first | assumption | rfl
    | (extract_lets +onlyGivenNames e
       first | refine Keeps.cut (e := e) ?_ (fun _ => ?_) <;> [subst e; clear_value e]
             | (have : Option _ := e; clear this; clear_value e) | skip)
    | with_reducible (
        first | apply Device.settleDomains_keeps | apply Device.userPacket_keeps | apply Device.pointData_keeps
              | apply Keeps.ite)
    | split
    | with_reducible (
        first | apply Keeps.foldl | apply Keeps.foldl_fst | apply Keeps.of_fst ‹_› | apply Keeps.put | apply Keeps.putLect)
    | intro _ _ _ | intro _ _
    | simp +zetaDelta only [setAt, List.length_set, List.length_map, List.length_zipIdx, Window.setIbi_events]; done

theorem execDecoderTake_keeps (now : Time) (dec : Fin 2) (s : State) : StepKeeps s (execDecoderTake now dec s) := by
  refine State.onUp_keeps fun e kept => ?_
  iterate 30 try any_goals first
    | with_reducible first | assumption | rfl
    | (extract_lets +onlyGivenNames e
       first | refine Keeps.cut (e := e) ?_ (fun _ => ?_) <;> [subst e; clear_value e]
             | (have : Option _ := e; clear this; clear_value e) | skip)
    | with_reducible (
        first | apply Device.modSample_keeps | apply Keeps.ite)
    | split
    | with_reducible (
        first | apply Keeps.foldl | apply Keeps.foldl_fst | apply Keeps.of_fst ‹_› | apply Keeps.put | apply Keeps.putLect)
    | intro _ _ _ | intro _ _
    | simp +zetaDelta only [setAt, List.length_set, List.length_map, List.length_zipIdx, Window.setIbi_events]; done

theorem execDecodeDone_keeps (now : Time) (tag : BitVec 12) (seq : BitVec 32) (work : Nat) (s : State) :
    StepKeeps s (execDecodeDone now tag seq work s) := by
  refine State.onUp_keeps fun e kept => ?_
  repeat' first
    | assumption | split
    | with_reducible (
        first | apply Device.failSample_keeps | apply Device.completeSample_keeps)

theorem execWorkCapReached_keeps (now : Time) (tag : BitVec 12) (seq : BitVec 32) (s : State) :
    StepKeeps s (execWorkCapReached now tag seq s) := by
  refine State.onUp_keeps fun e kept => ?_
  repeat' first
    | assumption | split
    | with_reducible (
        first | apply Device.failSample_keeps)

theorem execRecordPost_keeps (now : Time) (tag : BitVec 12) (s : State) : StepKeeps s (execRecordPost now tag s) := by
  refine State.onUp_keeps fun e kept => ?_
  repeat' first
    | assumption | split
    | with_reducible (
        first | apply Device.postRecord_keeps)

theorem execBatchWindowExpiry_keeps (now : Time) (tag : BitVec 12) (s : State) :
    StepKeeps s (execBatchWindowExpiry now tag s) := by
  refine State.onUp_keeps fun e kept => ?_
  iterate 30 try any_goals first
    | with_reducible first | assumption | rfl
    | (extract_lets +onlyGivenNames e
       first | refine Keeps.cut (e := e) ?_ (fun _ => ?_) <;> [subst e; clear_value e]
             | (have : Option _ := e; clear this; clear_value e) | skip)
    | with_reducible (
        first | apply Device.setStream_keeps | apply Device.settleStream_keeps | apply Device.failSample_keeps
              | apply Keeps.ite)
    | split
    | with_reducible (
        first | apply Keeps.foldl | apply Keeps.foldl_fst | apply Keeps.of_fst ‹_› | apply Keeps.put | apply Keeps.putLect)
    | intro _ _ _ | intro _ _
    | simp +zetaDelta only [setAt, List.length_set, List.length_map, List.length_zipIdx, Window.setIbi_events]; done

theorem execGroupWindowExpiry_keeps (now : Time) (group : Fin 8) (s : State) :
    StepKeeps s (execGroupWindowExpiry now group s) := by
  refine State.onUp_keeps fun e kept => ?_
  iterate 30 try any_goals first
    | with_reducible first | assumption | rfl
    | (extract_lets +onlyGivenNames e
       first | refine Keeps.cut (e := e) ?_ (fun _ => ?_) <;> [subst e; clear_value e]
             | (have : Option _ := e; clear this; clear_value e) | skip)
    | with_reducible (
        first | apply Keeps.ite)
    | split
    | with_reducible (
        first | apply Keeps.foldl | apply Keeps.foldl_fst | apply Keeps.of_fst ‹_› | apply Keeps.put | apply Keeps.putLect)
    | intro _ _ _ | intro _ _
    | simp +zetaDelta only [setAt, List.length_set, List.length_map, List.length_zipIdx, Window.setIbi_events]; done

theorem execGroupRecordPost_keeps (now : Time) (group : Fin 8) (s : State) :
    StepKeeps s (execGroupRecordPost now group s) := by
  refine State.onUp_keeps fun e kept => ?_
  iterate 30 try any_goals first
    | with_reducible first | assumption | rfl
    | (extract_lets +onlyGivenNames e
       first | refine Keeps.cut (e := e) ?_ (fun _ => ?_) <;> [subst e; clear_value e]
             | (have : Option _ := e; clear this; clear_value e) | skip)
    | with_reducible (
        first | apply Device.writeLines_keeps | apply Device.signalHook_keeps | apply Keeps.ite)
    | split
    | with_reducible (
        first | apply Keeps.foldl | apply Keeps.foldl_fst | apply Keeps.of_fst ‹_› | apply Keeps.put | apply Keeps.putLect)
    | intro _ _ _ | intro _ _
    | simp +zetaDelta only [setAt, List.length_set, List.length_map, List.length_zipIdx, Window.setIbi_events]; done

theorem execTestFrameCompare_keeps (now : Time) (tag : BitVec 12) (crc : BitVec 32) (s : State) :
    StepKeeps s (execTestFrameCompare now tag crc s) := by
  refine State.onUp_keeps fun e kept => ?_
  repeat' first
    | assumption | split
    | with_reducible (
        first | apply Device.notify_keeps | apply Device.notifyAgain_keeps | apply Device.setStream_keeps)

end Sys2Proof.Machine
end

