-- ==== Sys2Proof/Laws/KeepsHolds.lean ====
section
/-!
SUPPORT. What the operations of `Machine/Holds` keep: the invariants of `Safety`, a held safe state and the fuses.
-/

set_option linter.all false

namespace Sys2Proof.Machine

theorem Device.resumeCommand_keeps {dev₀ d : Device} (kept : Keeps dev₀ d) (n : Fin 64) :
    Keeps dev₀ (Device.resumeCommand d n) := by
  unfold Device.resumeCommand
  repeat' first
    | assumption | split
    | with_reducible (
        first | apply Device.jobStart_keeps | apply Device.jobStop_keeps | apply Device.modeChange_keeps
              | apply Device.planActivate_keeps | apply Device.partitionSet_keeps | apply Device.outputs_keeps
              | apply Device.attest_keeps | apply Device.streamBind_keeps | apply Device.streamUnbind_keeps
              | apply Device.outBind_keeps)

theorem Device.releaseHold_keeps {dev₀ d : Device} (kept : Keeps dev₀ d) (n : Fin 64) :
    Keeps dev₀ (Device.releaseHold d n) := by
  unfold Device.releaseHold
  iterate 30 try any_goals first
    | with_reducible first | assumption | rfl
    | (extract_lets +onlyGivenNames e
       first | refine Keeps.cut (e := e) ?_ (fun _ => ?_) <;> [subst e; clear_value e]
             | (have : Option _ := e; clear this; clear_value e) | skip)
    | with_reducible (
        first | apply Device.setDrawer_keeps | apply Device.resumeCommand_keeps | apply Keeps.ite)
    | split
    | with_reducible (
        first | apply Keeps.foldl | apply Keeps.foldl_fst | apply Keeps.of_fst ‹_› | apply Keeps.put | apply Keeps.putLect)
    | intro _ _ _ | intro _ _
    | simp +zetaDelta only [setAt, List.length_set, List.length_map, List.length_zipIdx, Window.setIbi_events]; done

theorem execCommandHoldRelease_keeps (now : Time) (drawer : Fin 64) (s : State) :
    StepKeeps s (execCommandHoldRelease now drawer s) := by
  refine State.onUp_keeps fun e kept => ?_
  repeat' first
    | assumption | split
    | with_reducible (
        first | apply Device.releaseHold_keeps)

end Sys2Proof.Machine
end

