-- ==== Sys2Proof/Laws/KeepsBulk.lean ====
section
/-!
SUPPORT. What the operations of `Machine/Bulk` keep: the invariants of `Safety`, a held safe state and the fuses.
-/

set_option linter.all false

namespace Sys2Proof.Machine

theorem Device.memWrite_keeps {dev₀ d : Device} (kept : Keeps dev₀ d) (n : Fin 64) :
    Keeps dev₀ (Device.memWrite d n) := by
  unfold Device.memWrite
  repeat' first
    | with_reducible assumption
    | (extract_lets +onlyGivenNames e
       first | refine Keeps.cut (e := e) ?_ (fun _ => ?_) <;> [subst e; clear_value e] | skip)
    | with_reducible (
        first | apply Device.fail_keeps | apply Device.armBulk_keeps | apply Keeps.ite)
    | split

theorem Device.setBulk_keeps {dev₀ d : Device} (kept : Keeps dev₀ d) (b : Bulk) : Keeps dev₀ (Device.setBulk d b) :=
  kept.put rfl rfl rfl rfl rfl rfl rfl rfl rfl rfl

theorem Device.dropBulk_keeps {dev₀ d : Device} (kept : Keeps dev₀ d) (n : Fin 64) :
    Keeps dev₀ (Device.dropBulk d n) :=
  kept.put rfl rfl rfl rfl rfl rfl rfl rfl rfl rfl

theorem Device.undefineView_keeps {dev₀ d : Device} (kept : Keeps dev₀ d) (p a n : Nat) :
    Keeps dev₀ (d.undefineView p a n) := by
  unfold Device.undefineView
  refine Keeps.foldl _ (fun e i ke => ?_) (bump_keeps kept)
  split
  · exact ke.putMain fun w => Memory.forget_wf _ _ w
  · exact ke

theorem Device.failBulk_keeps {dev₀ d : Device} (kept : Keeps dev₀ d) (b : Bulk) (st : Status) :
    Keeps dev₀ (Device.failBulk d b st) := by
  unfold Device.failBulk
  repeat' first
    | assumption | split
    | with_reducible (
        first | apply Device.reply_keeps | apply Device.fail_keeps | apply Device.settleDomains_keeps
              | apply Device.planFail_keeps | apply Device.dropBulk_keeps | apply Device.undefineView_keeps)

theorem Device.writeArrived_keeps {dev₀ d : Device} (kept : Keeps dev₀ d) (b : Bulk) (last : Bool) :
    Keeps dev₀ (Device.writeArrived d b last).1 := by
  unfold Device.writeArrived
  repeat' first
    | with_reducible assumption
    | (extract_lets +onlyGivenNames e
       first | refine Keeps.cut (e := e) ?_ (fun _ => ?_) <;> [subst e; clear_value e] | skip)
    | with_reducible (
        first | apply Device.writeLines_keeps | apply Keeps.ite)
    | split

theorem Device.finishBulk_keeps {dev₀ d : Device} (kept : Keeps dev₀ d) (b : Bulk) :
    Keeps dev₀ (Device.finishBulk d b) := by
  unfold Device.finishBulk
  repeat' first
    | with_reducible assumption
    | (extract_lets +onlyGivenNames e
       first | refine Keeps.cut (e := e) ?_ (fun _ => ?_) <;> [subst e; clear_value e] | skip)
    | with_reducible (
        first | apply Device.reply_keeps | apply Device.settleDomains_keeps | apply Device.queueMap_keeps
              | apply Device.putCal_keeps | apply Device.queueDelta_keeps | apply Device.loadPlan_keeps
              | apply Device.finishFwUpdate_keeps | apply Device.dropBulk_keeps | apply Device.failBulk_keeps
              | apply Device.writeArrived_keeps | apply Keeps.ite)
    | split

theorem Device.bulkData_keeps {dev₀ d : Device} (kept : Keeps dev₀ d) (b : Bulk) (hdr : Image) (payload : Bytes) :
    Keeps dev₀ (Device.bulkData d b hdr payload) := by
  unfold Device.bulkData
  repeat' first
    | with_reducible assumption
    | (extract_lets +onlyGivenNames e
       first | refine Keeps.cut (e := e) ?_ (fun _ => ?_) <;> [subst e; clear_value e] | skip)
    | with_reducible (
        first | apply Device.setBulk_keeps | apply Device.failBulk_keeps | apply Device.writeArrived_keeps
              | apply Device.finishBulk_keeps | apply Keeps.ite)
    | split

theorem execMemWrite_keeps (now : Time) (drawer : Fin 64) (s : State) : StepKeeps s (execMemWrite now drawer s) := by
  refine State.drawerCommand_keeps fun e kept => ?_
  repeat' first
    | assumption | split
    | with_reducible (
        first | apply Device.memWrite_keeps)

theorem execBulkPacket_keeps (now : Time) (p : Pkt) (s : State) : StepKeeps s (execBulkPacket now p s) := by
  refine State.onUp_keeps fun e kept => ?_
  iterate 30 try any_goals first
    | with_reducible first | assumption | rfl
    | (extract_lets +onlyGivenNames e
       first | refine Keeps.cut (e := e) ?_ (fun _ => ?_) <;> [subst e; clear_value e]
             | (have : Option _ := e; clear this; clear_value e) | skip)
    | with_reducible (
        first | apply Device.countUnbound_keeps | apply Device.arrive_keeps | apply Device.failBulk_keeps
              | apply Device.bulkData_keeps | apply Keeps.ite)
    | split
    | with_reducible (
        first | apply Keeps.foldl | apply Keeps.foldl_fst | apply Keeps.of_fst ‹_› | apply Keeps.put | apply Keeps.putLect)
    | intro _ _ _ | intro _ _
    | simp +zetaDelta only [setAt, List.length_set, List.length_map, List.length_zipIdx, Window.setIbi_events]; done

theorem execBulkTimeout_keeps (now : Time) (drawer : Fin 64) (s : State) :
    StepKeeps s (execBulkTimeout now drawer s) := by
  refine State.onUp_keeps fun e kept => ?_
  repeat' first
    | assumption | split
    | with_reducible (
        first | apply Device.failBulk_keeps)

end Sys2Proof.Machine
end

