-- ==== Sys2Proof/Laws/KeepsGovernor.lean ====
section
/-!
SUPPORT. What the operations of `Machine/Governor` keep: the invariants of `Safety`, a held safe state and the fuses.
-/

set_option linter.all false

namespace Sys2Proof.Machine

theorem Device.gov_keeps {dev₀ d : Device} (kept : Keeps dev₀ d) (f : Governor → Governor) :
    Keeps dev₀ (Device.gov d f) :=
  kept.put rfl rfl rfl rfl rfl rfl rfl rfl rfl rfl

theorem Device.addEnergyNj_keeps {dev₀ d : Device} (kept : Keeps dev₀ d) (j : BitVec 16) (nj : Nat) :
    Keeps dev₀ (Device.addEnergyNj d j nj) := by
  unfold Device.addEnergyNj
  iterate 30 try any_goals first
    | with_reducible first | assumption | rfl
    | (extract_lets +onlyGivenNames e
       first | refine Keeps.cut (e := e) ?_ (fun _ => ?_) <;> [subst e; clear_value e]
             | (have : Option _ := e; clear this; clear_value e) | skip)
    | with_reducible (
        first | apply Device.modPeriod_keeps | apply Device.fus_keeps | apply Keeps.ite)
    | split
    | with_reducible (
        first | apply Keeps.foldl | apply Keeps.foldl_fst | apply Keeps.of_fst ‹_› | apply Keeps.put | apply Keeps.putLect)
    | intro _ _ _ | intro _ _
    | simp +zetaDelta only [setAt, List.length_set, List.length_map, List.length_zipIdx, Window.setIbi_events]; done

theorem Device.attribute_keeps {dev₀ d : Device} (kept : Keeps dev₀ d) (jobNj : List (BitVec 16 × Nat)) (pinNj : Nat) :
    Keeps dev₀ (Device.attribute d jobNj pinNj) := by
  unfold Device.attribute
  iterate 30 try any_goals first
    | with_reducible first | assumption | rfl
    | (extract_lets +onlyGivenNames e
       first | refine Keeps.cut (e := e) ?_ (fun _ => ?_) <;> [subst e; clear_value e]
             | (have : Option _ := e; clear this; clear_value e) | skip)
    | with_reducible (
        first | apply Device.addEnergyNj_keeps | apply Keeps.ite)
    | split
    | with_reducible (
        first | apply Keeps.foldl | apply Keeps.foldl_fst | apply Keeps.of_fst ‹_› | apply Keeps.put | apply Keeps.putLect)
    | intro _ _ _ | intro _ _
    | simp +zetaDelta only [setAt, List.length_set, List.length_map, List.length_zipIdx, Window.setIbi_events]; done

theorem Device.stepCaps_keeps {dev₀ d : Device} (kept : Keeps dev₀ d) : Keeps dev₀ (Device.stepCaps d) :=
  kept.put rfl rfl rfl rfl rfl rfl rfl rfl rfl rfl

theorem Device.watchPower_keeps {dev₀ d : Device} (kept : Keeps dev₀ d) : Keeps dev₀ (Device.watchPower d) :=
  kept.put rfl rfl rfl rfl rfl rfl rfl rfl rfl rfl

theorem Device.abandonSlices_keeps {dev₀ d : Device} (kept : Keeps dev₀ d) : Keeps dev₀ (Device.abandonSlices d) := by
  unfold Device.abandonSlices
  iterate 30 try any_goals first
    | with_reducible first | assumption | rfl
    | (extract_lets +onlyGivenNames e
       first | refine Keeps.cut (e := e) ?_ (fun _ => ?_) <;> [subst e; clear_value e]
             | (have : Option _ := e; clear this; clear_value e) | skip)
    | with_reducible (
        first | apply Device.setTest_keeps | apply Device.afterSlice_keeps | apply Keeps.ite)
    | split
    | with_reducible (
        first | apply Keeps.foldl | apply Keeps.foldl_fst | apply Keeps.of_fst ‹_› | apply Keeps.put | apply Keeps.putLect)
    | intro _ _ _ | intro _ _
    | simp +zetaDelta only [setAt, List.length_set, List.length_map, List.length_zipIdx, Window.setIbi_events]; done

theorem Device.emergency_keeps {dev₀ d : Device} (kept : Keeps dev₀ d) (s : Nat) (t : Int) :
    Keeps dev₀ (Device.emergency d s t) := by
  unfold Device.emergency
  iterate 30 try any_goals first
    | with_reducible first | assumption | rfl
    | (extract_lets +onlyGivenNames e
       first | refine Keeps.cut (e := e) ?_ (fun _ => ?_) <;> [subst e; clear_value e]
             | (have : Option _ := e; clear this; clear_value e) | skip)
    | with_reducible (
        first | apply Device.event_keeps | apply Device.notify_keeps | apply Device.endWith_keeps
              | apply Device.dropSaved_keeps | apply Device.gov_keeps | apply Device.abandonSlices_keeps
              | apply Keeps.ite)
    | split
    | with_reducible (
        first | apply Keeps.foldl | apply Keeps.foldl_fst | apply Keeps.of_fst ‹_› | apply Keeps.put | apply Keeps.putLect)
    | intro _ _ _ | intro _ _
    | simp +zetaDelta only [setAt, List.length_set, List.length_map, List.length_zipIdx, Window.setIbi_events]; done

theorem Device.thermalStop_keeps {dev₀ d : Device} (kept : Keeps dev₀ d) (s : Nat) :
    Keeps dev₀ (Device.thermalStop d s) := by
  unfold Device.thermalStop
  repeat' first
    | with_reducible assumption
    | (extract_lets +onlyGivenNames e
       first | refine Keeps.cut (e := e) ?_ (fun _ => ?_) <;> [subst e; clear_value e] | skip)
    | with_reducible (
        first | apply Device.event_keeps | apply Device.enterSafe_keeps | apply Device.shutdown_keeps
              | apply Keeps.ite)
    | split

theorem Device.readSensors_keeps {dev₀ d : Device} (kept : Keeps dev₀ d) (raw : List (BitVec 16)) :
    Keeps dev₀ (Device.readSensors d raw) := by
  unfold Device.readSensors
  iterate 30 try any_goals first
    | with_reducible first | assumption | rfl
    | (extract_lets +onlyGivenNames e
       first | refine Keeps.cut (e := e) ?_ (fun _ => ?_) <;> [subst e; clear_value e]
             | (have : Option _ := e; clear this; clear_value e) | skip)
    | with_reducible (
        first | apply Device.gov_keeps | apply Device.emergency_keeps | apply Device.thermalStop_keeps
              | apply Keeps.ite)
    | split
    | with_reducible (
        first | apply Keeps.foldl | apply Keeps.foldl_fst | apply Keeps.of_fst ‹_› | apply Keeps.put | apply Keeps.putLect)
    | intro _ _ _ | intro _ _
    | simp +zetaDelta only [setAt, List.length_set, List.length_map, List.length_zipIdx, Window.setIbi_events]; done

theorem execGovernorInterval_keeps (now : Time) (r : GovernorReading) (s : State) :
    StepKeeps s (execGovernorInterval now r s) := by
  refine State.onUp_keeps fun e kept => ?_
  repeat' first
    | assumption | split
    | with_reducible (
        first | apply Device.bump_keeps | apply Device.gov_keeps | apply Device.attribute_keeps
              | apply Device.stepCaps_keeps | apply Device.watchPower_keeps)

theorem execTrimUpdate_keeps (now : Time) (measured : Int) (s : State) :
    StepKeeps s (execTrimUpdate now measured s) := by
  refine State.onUp_keeps fun e kept => ?_
  repeat' first
    | assumption | split
    | with_reducible (
        first | apply Device.gov_keeps)

theorem execJunctionSensorRead_keeps (now : Time) (readings : List (BitVec 16)) (s : State) :
    StepKeeps s (execJunctionSensorRead now readings s) := by
  refine State.onUp_keeps fun e kept => ?_
  repeat' first
    | assumption | split
    | with_reducible (
        first | apply Device.readSensors_keeps)

theorem execThermalHoldExpiry_keeps (now : Time) (s : State) : StepKeeps s (execThermalHoldExpiry now s) := by
  refine State.onUp_keeps fun e kept => ?_
  repeat' first
    | with_reducible assumption
    | (extract_lets +onlyGivenNames e
       first | refine Keeps.cut (e := e) ?_ (fun _ => ?_) <;> [subst e; clear_value e] | skip)
    | with_reducible (
        first | apply Device.gov_keeps | apply Device.thermalStop_keeps | apply Keeps.ite)
    | split

theorem execThermalRecovery_keeps (now : Time) (die : Die) (s : State) :
    StepKeeps s (execThermalRecovery now die s) := by
  refine State.onUp_keeps fun e kept => ?_
  repeat' first
    | with_reducible assumption
    | (extract_lets +onlyGivenNames e
       first | refine Keeps.cut (e := e) ?_ (fun _ => ?_) <;> [subst e; clear_value e] | skip)
    | with_reducible (
        first | apply Device.gov_keeps | apply Device.emergency_keeps | apply Keeps.ite)
    | split

theorem execPowerLimitEvent_keeps (now : Time) (s : State) : StepKeeps s (execPowerLimitEvent now s) := by
  refine State.onUp_keeps fun e kept => ?_
  repeat' first
    | assumption | split
    | with_reducible (
        first | apply Device.event_keeps | apply Device.gov_keeps)

theorem execDroopDetect_keeps (now : Time) (_die : Die) (s : State) : StepKeeps s (execDroopDetect now _die s) := by
  refine State.onUp_keeps fun e kept => ?_
  repeat' first
    | assumption | split
    | with_reducible (
        first | apply Device.gov_keeps)

theorem execPowerLimit_keeps (now : Time) (drawer : Fin 64) (s : State) :
    StepKeeps s (execPowerLimit now drawer s) := by
  refine State.drawerCommand_keeps fun e kept => ?_
  repeat' first
    | with_reducible assumption
    | (extract_lets +onlyGivenNames e
       first | refine Keeps.cut (e := e) ?_ (fun _ => ?_) <;> [subst e; clear_value e] | skip)
    | with_reducible (
        first | apply Device.reply_keeps | apply Device.fail_keeps | apply Device.gov_keeps | apply Keeps.ite)
    | split

theorem execTelemetry_keeps (now : Time) (drawer : Fin 64) (s : State) :
    StepKeeps s (execTelemetry now drawer s) := by
  refine State.drawerCommand_keeps fun e kept => ?_
  repeat' first
    | assumption | split
    | with_reducible (
        first | apply Device.reply_keeps | apply Device.gov_keeps)

end Sys2Proof.Machine
end

