-- ==== Sys2Proof/Laws/KeepsEdges.lean ====
section
/-!
SUPPORT. What the operations of `Machine/Edges` keep: the invariants of `Safety`, a held safe state and the fuses.
-/

set_option linter.all false

namespace Sys2Proof.Machine

theorem Device.jobEdge_keeps {dev₀ d : Device} (kept : Keeps dev₀ d) (r : JobRef) :
    Keeps dev₀ (Device.jobEdge d r) := by
  unfold Device.jobEdge
  repeat' first
    | assumption | split
    | with_reducible (
        first | apply Device.setRun_keeps | apply Device.edgeAccepted_keeps)

theorem Device.fusionEdge_keeps {dev₀ d : Device} (kept : Keeps dev₀ d) (pin : Nat) :
    Keeps dev₀ (Device.fusionEdge d pin) := by
  unfold Device.fusionEdge
  repeat' first
    | assumption | split
    | with_reducible (
        first | apply Device.pin_keeps | apply Device.fus_keeps)

theorem Device.jobWindow_keeps {dev₀ d : Device} (kept : Keeps dev₀ d) (r : JobRef) :
    Keeps dev₀ (Device.jobWindow d r) := by
  unfold Device.jobWindow
  repeat' first
    | assumption | split
    | with_reducible (
        first | apply Device.notify_keeps | apply Device.setRun_keeps | apply Device.periodicDue_keeps)

theorem execPeriodInEdge_keeps (now : Time) (pin : Fin 8) (s : State) : StepKeeps s (execPeriodInEdge now pin s) := by
  refine State.onUp_keeps fun e kept => ?_
  iterate 30 try any_goals first
    | with_reducible first | assumption | rfl
    | (extract_lets +onlyGivenNames e
       first | refine Keeps.cut (e := e) ?_ (fun _ => ?_) <;> [subst e; clear_value e]
             | (have : Option _ := e; clear this; clear_value e) | skip)
    | with_reducible (
        first | apply Device.slotEdge_keeps | apply Device.pin_keeps | apply Device.jobEdge_keeps
              | apply Device.fusionEdge_keeps | apply Keeps.ite)
    | split
    | with_reducible (
        first | apply Keeps.foldl | apply Keeps.foldl_fst | apply Keeps.of_fst ‹_› | apply Keeps.put | apply Keeps.putLect)
    | intro _ _ _ | intro _ _
    | simp +zetaDelta only [setAt, List.length_set, List.length_map, List.length_zipIdx, Window.setIbi_events]; done

theorem execEdgeWindowExpiry_keeps (now : Time) (user : LockUser) (s : State) :
    StepKeeps s (execEdgeWindowExpiry now user s) := by
  refine State.onUp_keeps fun e kept => ?_
  repeat' first
    | assumption | split
    | with_reducible (
        first | apply Device.slotWindow_keeps | apply Device.jobWindow_keeps)

end Sys2Proof.Machine
end

