-- ==== Sys2Proof/Laws/KeepsCounts.lean ====
section
/-!
SUPPORT. What the operations of `Machine/Counts` keep: the invariants of `Safety`, a held safe state and the fuses.
-/

set_option linter.all false

namespace Sys2Proof.Machine

theorem Device.countersClear_keeps {dev₀ d : Device} (kept : Keeps dev₀ d) (set : Nat) :
    Keeps dev₀ (d.countersClear set) := by
  unfold Device.countersClear
  split
  · refine kept.trans ⟨⟨id, id, id, id, id, fun h => ?_, .refl _⟩, id⟩
    obtain ⟨h1, h2, h3, h4, h5, h6, -⟩ := h
    exact ⟨h1, h2, h3, h4, h5, h6, rfl⟩
  · exact fus_keeps kept _
  · exact kept.put rfl rfl rfl rfl rfl rfl rfl rfl rfl rfl
  · exact kept.put rfl rfl rfl rfl rfl (List.length_map ..) (List.length_map ..) rfl rfl rfl

theorem Device.counters_keeps {dev₀ d : Device} (kept : Keeps dev₀ d) (n : Fin 64) :
    Keeps dev₀ (Device.counters d n) := by
  unfold Device.counters
  repeat' first
    | with_reducible assumption
    | (extract_lets +onlyGivenNames e
       first | refine Keeps.cut (e := e) ?_ (fun _ => ?_) <;> [subst e; clear_value e] | skip)
    | with_reducible (
        first | apply Device.reply_keeps | apply Device.fail_keeps | apply Device.countersClear_keeps
              | apply Keeps.ite)
    | split

theorem Device.tileCensus_keeps {dev₀ d : Device} (kept : Keeps dev₀ d) (n : Fin 64) :
    Keeps dev₀ (Device.tileCensus d n) := by
  unfold Device.tileCensus
  repeat' first
    | with_reducible assumption
    | (extract_lets +onlyGivenNames e
       first | refine Keeps.cut (e := e) ?_ (fun _ => ?_) <;> [subst e; clear_value e] | skip)
    | with_reducible (
        first | apply Device.reply_keeps | apply Device.fail_keeps | apply Device.count_keeps | apply Keeps.ite)
    | split

theorem execCounters_keeps (now : Time) (drawer : Fin 64) (s : State) : StepKeeps s (execCounters now drawer s) := by
  refine State.drawerCommand_keeps fun e kept => ?_
  repeat' first
    | assumption | split
    | with_reducible (
        first | apply Device.counters_keeps)

theorem execTileCensus_keeps (now : Time) (drawer : Fin 64) (s : State) :
    StepKeeps s (execTileCensus now drawer s) := by
  refine State.drawerCommand_keeps fun e kept => ?_
  repeat' first
    | assumption | split
    | with_reducible (
        first | apply Device.tileCensus_keeps)

end Sys2Proof.Machine
end

