-- ==== Sys2Proof/Laws/KeepsLecternRows.lean ====
section
/-!
SUPPORT. What the operations of `Machine/LecternRows` keep: the invariants of `Safety`, a held safe state and the fuses.
-/

set_option linter.all false

namespace Sys2Proof.Machine

theorem Device.lectern_keeps {dev₀ d : Device} (kept : Keeps dev₀ d) {f : Lectern → Lectern}
    (h1 : (f d.lect).safe = d.lect.safe) (h2 : (f d.lect).pinA = d.lect.pinA) (h3 : (f d.lect).pinB = d.lect.pinB)
    (h4 : (f d.lect).log = d.lect.log) (h5 : (f d.lect).causes = d.lect.causes) : Keeps dev₀ (d.lectern f) :=
  kept.putLect h1 h2 h3 h4 h5

theorem Device.kick_keeps {dev₀ d : Device} (kept : Keeps dev₀ d) (seq : BitVec 16) :
    Keeps dev₀ (Device.kick d seq) := by
  unfold Device.kick
  iterate 30 try any_goals first
    | with_reducible first | assumption | rfl
    | (extract_lets +onlyGivenNames e
       first | refine Keeps.cut (e := e) ?_ (fun _ => ?_) <;> [subst e; clear_value e]
             | (have : Option _ := e; clear this; clear_value e) | skip)
    | with_reducible (
        first | apply Device.lecternCause_keeps | apply Device.lectern_keeps | apply Keeps.ite)
    | split
    | with_reducible (
        first | apply Keeps.foldl | apply Keeps.foldl_fst | apply Keeps.of_fst ‹_› | apply Keeps.put | apply Keeps.putLect)
    | intro _ _ _ | intro _ _
    | simp +zetaDelta only [setAt, List.length_set, List.length_map, List.length_zipIdx, Window.setIbi_events]; done

theorem Device.setMon_keeps {dev₀ d : Device} (kept : Keeps dev₀ d) (n : MonEntry) :
    Keeps dev₀ (Device.setMon d n) := by
  unfold Device.setMon
  iterate 30 try any_goals first
    | with_reducible first | assumption | rfl
    | (extract_lets +onlyGivenNames e
       first | refine Keeps.cut (e := e) ?_ (fun _ => ?_) <;> [subst e; clear_value e]
             | (have : Option _ := e; clear this; clear_value e) | skip)
    | with_reducible (
        first | apply Device.lectern_keeps | apply Keeps.ite)
    | split
    | with_reducible (
        first | apply Keeps.foldl | apply Keeps.foldl_fst | apply Keeps.of_fst ‹_› | apply Keeps.put | apply Keeps.putLect)
    | intro _ _ _ | intro _ _
    | simp +zetaDelta only [setAt, List.length_set, List.length_map, List.length_zipIdx, Window.setIbi_events]; done

theorem Device.missing_keeps {dev₀ d : Device} (kept : Keeps dev₀ d) (e : MonEntry) :
    Keeps dev₀ (Device.missing d e) := by
  unfold Device.missing
  repeat' first
    | with_reducible assumption
    | (extract_lets +onlyGivenNames e
       first | refine Keeps.cut (e := e) ?_ (fun _ => ?_) <;> [subst e; clear_value e] | skip)
    | with_reducible (
        first | apply Device.event_keeps | apply Device.enterSafe_keeps | apply Device.setMon_keeps
              | apply Keeps.ite)
    | split

theorem Device.present_keeps {dev₀ d : Device} (kept : Keeps dev₀ d) (e : MonEntry) :
    Keeps dev₀ (Device.present d e) := by
  unfold Device.present
  repeat' first
    | with_reducible assumption
    | (extract_lets +onlyGivenNames e
       first | refine Keeps.cut (e := e) ?_ (fun _ => ?_) <;> [subst e; clear_value e] | skip)
    | with_reducible (
        first | apply Device.clearCause_keeps | apply Device.setMon_keeps | apply Keeps.ite)
    | split

theorem Device.lapse_keeps {dev₀ d : Device} (kept : Keeps dev₀ d) (k : MonKey) (t : Time) :
    Keeps dev₀ (Device.lapse d k t) := by
  unfold Device.lapse
  repeat' first
    | with_reducible assumption
    | (extract_lets +onlyGivenNames e
       first | refine Keeps.cut (e := e) ?_ (fun _ => ?_) <;> [subst e; clear_value e] | skip)
    | with_reducible (
        first | apply Device.missing_keeps | apply Keeps.ite)
    | split

theorem Device.takeToken_keeps {dev₀ d : Device} (kept : Keeps dev₀ d) (isStart : Bool) :
    ∀ x ∈ d.takeToken isStart, Keeps dev₀ x.2 := by
  unfold Device.takeToken
  intro x hx
  simp only [Option.mem_def, Option.map_eq_some_iff] at hx
  obtain ⟨t, -, rfl⟩ := hx
  dsimp only
  refine lectern_keeps kept ?_ ?_ ?_ ?_ ?_ <;> rfl

theorem Device.startSeen_keeps {dev₀ d : Device} (kept : Keeps dev₀ d) (k : MonKey) :
    Keeps dev₀ (Device.startSeen d k) := by
  unfold Device.startSeen
  repeat' first
    | assumption | split
    | with_reducible (
        first | apply Device.setMon_keeps)

theorem Device.resultSeen_keeps {dev₀ d : Device} (kept : Keeps dev₀ d) (k : MonKey) (st : Status) :
    Keeps dev₀ (Device.resultSeen d k st) := by
  unfold Device.resultSeen
  repeat' first
    | with_reducible assumption
    | (extract_lets +onlyGivenNames e
       first | refine Keeps.cut (e := e) ?_ (fun _ => ?_) <;> [subst e; clear_value e] | skip)
    | with_reducible (
        first | apply Device.lectLog_keeps | apply Device.setMon_keeps | apply Device.missing_keeps
              | apply Device.present_keeps | apply Device.lapse_keeps | apply Keeps.ite)
    | split

theorem Device.noteBehind_keeps {dev₀ d : Device} (kept : Keeps dev₀ d) (n : Note) (c : SafeCause) :
    Keeps dev₀ (Device.noteBehind d n c) := by
  unfold Device.noteBehind
  iterate 30 try any_goals first
    | with_reducible first | assumption | rfl
    | (extract_lets +onlyGivenNames e
       first | refine Keeps.cut (e := e) ?_ (fun _ => ?_) <;> [subst e; clear_value e]
             | (have : Option _ := e; clear this; clear_value e) | skip)
    | with_reducible (
        first | apply Device.clearCause_keeps | apply Device.lectern_keeps | apply Keeps.ite)
    | split
    | with_reducible (
        first | apply Keeps.foldl | apply Keeps.foldl_fst | apply Keeps.of_fst ‹_› | apply Keeps.put | apply Keeps.putLect)
    | intro _ _ _ | intro _ _
    | simp +zetaDelta only [setAt, List.length_set, List.length_map, List.length_zipIdx, Window.setIbi_events]; done

theorem Device.takeNote_keeps {dev₀ d : Device} (kept : Keeps dev₀ d) (n : Note) : Keeps dev₀ (d.takeNote n) := by
  unfold Device.takeNote
  extract_lets e c f
  clear_value c
  have ke : Keeps dev₀ e := lectLog_keeps kept ..
  have kf : Keeps dev₀ f := by
    cases c with
    | some c => exact noteBehind_keeps (enterSafe_keeps ke ..) ..
    | none => exact ke
  exact Keeps.ite kf (postEvent_keeps kf ..)

/-- SAFE_RELEASE may end the safe state; all else is kept. -/
theorem Device.safeRelease_keeps (d : Device) (n : Fin 64) (c : Option SafeCause) : WeakKeeps d (d.safeRelease n c) := by
  unfold Device.safeRelease
  split
  · exact (reply_keeps (.refl d) ..).weak
  · split
    · exact (fail_keeps (.refl d) ..).weak
    · refine .trans ?_ (reply_keeps (.refl _) ..).weak
      unfold Device.watchStatus
      extract_lets e
      have ke : WeakKeeps d e := ⟨fun _ h => (nomatch h), fun _ _ => rfl, id, id, id, id, .refl _⟩
      split
      · exact ke
      · exact ke.trans (win_keeps (.refl e) (Window.setIbi_events ..)).weak

theorem Device.setPolicy_keeps {dev₀ d : Device} (kept : Keeps dev₀ d) (p : Policy) :
    Keeps dev₀ (Device.setPolicy d p) := by
  unfold Device.setPolicy
  iterate 30 try any_goals first
    | with_reducible first | assumption | rfl
    | (extract_lets +onlyGivenNames e
       first | refine Keeps.cut (e := e) ?_ (fun _ => ?_) <;> [subst e; clear_value e]
             | (have : Option _ := e; clear this; clear_value e) | skip)
    | with_reducible (
        first | apply Device.fenceTile_keeps | apply Device.lectern_keeps | apply Keeps.ite)
    | split
    | with_reducible (
        first | apply Keeps.foldl | apply Keeps.foldl_fst | apply Keeps.of_fst ‹_› | apply Keeps.put | apply Keeps.putLect)
    | intro _ _ _ | intro _ _
    | simp +zetaDelta only [setAt, List.length_set, List.length_map, List.length_zipIdx, Window.setIbi_events]; done

theorem Device.selftestPolicy_keeps {dev₀ d : Device} (kept : Keeps dev₀ d) (n : Fin 64) :
    Keeps dev₀ (Device.selftestPolicy d n) := by
  unfold Device.selftestPolicy
  repeat' first
    | with_reducible assumption
    | (extract_lets +onlyGivenNames e
       first | refine Keeps.cut (e := e) ?_ (fun _ => ?_) <;> [subst e; clear_value e] | skip)
    | with_reducible (
        first | apply Device.reply_keeps | apply Device.fail_keeps | apply Device.setPolicy_keeps | apply Keeps.ite)
    | split

theorem execLockstepMismatch_keeps (now : Time) (bootOk : Bool) (s : State) :
    StepKeeps s (execLockstepMismatch now bootOk s) := by
  refine State.onAlive_keeps fun e kept => ?_
  iterate 30 try any_goals first
    | with_reducible first | assumption | rfl
    | (extract_lets +onlyGivenNames e
       first | refine Keeps.cut (e := e) ?_ (fun _ => ?_) <;> [subst e; clear_value e]
             | (have : Option _ := e; clear this; clear_value e) | skip)
    | with_reducible (
        first | apply Device.win_keeps | apply Device.watchStatus_keeps | apply Device.lecternCause_keeps
              | apply Device.lectern_keeps | apply Keeps.ite)
    | split
    | with_reducible (
        first | apply Keeps.foldl | apply Keeps.foldl_fst | apply Keeps.of_fst ‹_› | apply Keeps.put | apply Keeps.putLect)
    | intro _ _ _ | intro _ _
    | simp +zetaDelta only [setAt, List.length_set, List.length_map, List.length_zipIdx, Window.setIbi_events]; done

theorem execLecternLinkFault_keeps (now : Time) (s : State) : StepKeeps s (execLecternLinkFault now s) := by
  refine State.onAlive_keeps fun e kept => ?_
  repeat' first
    | assumption | split
    | with_reducible (
        first | apply Device.lecternCause_keeps)

theorem execClockCheck_keeps (now : Time) (ppm : Int) (s : State) : StepKeeps s (execClockCheck now ppm s) := by
  refine State.onAlive_keeps fun e kept => ?_
  repeat' first
    | assumption | split
    | with_reducible (
        first | apply Device.lecternCause_keeps)

theorem execRailOutOfRange_keeps (now : Time) (s : State) : StepKeeps s (execRailOutOfRange now s) := by
  refine State.onAlive_keeps fun e kept => ?_
  repeat' first
    | assumption | split
    | with_reducible (
        first | apply Device.lecternCause_keeps)

theorem execSafePinReadback_keeps (now : Time) (levelA levelB : Bool) (s : State) :
    StepKeeps s (execSafePinReadback now levelA levelB s) := by
  refine State.onAlive_keeps fun e kept => ?_
  repeat' first
    | assumption | split
    | with_reducible (
        first | apply Device.lecternCause_keeps)

theorem execLecternStoreScrub_keeps (now : Time) (finding : MirrorFinding) (s : State) :
    StepKeeps s (execLecternStoreScrub now finding s) := by
  refine State.onAlive_keeps fun e kept => ?_
  repeat' first
    | assumption | split
    | with_reducible (
        first | apply Device.lecternCause_keeps)

theorem execWatchdogKick_keeps (now : Time) (seq : BitVec 16) (s : State) :
    StepKeeps s (execWatchdogKick now seq s) := by
  refine State.onAlive_keeps fun e kept => ?_
  repeat' first
    | assumption | split
    | with_reducible (
        first | apply Device.kick_keeps)

theorem execWatchdogExpiry_keeps (now : Time) (s : State) : StepKeeps s (execWatchdogExpiry now s) := by
  refine State.onAlive_keeps fun e kept => ?_
  iterate 30 try any_goals first
    | with_reducible first | assumption | rfl
    | (extract_lets +onlyGivenNames e
       first | refine Keeps.cut (e := e) ?_ (fun _ => ?_) <;> [subst e; clear_value e]
             | (have : Option _ := e; clear this; clear_value e) | skip)
    | with_reducible (
        first | apply Device.lecternCause_keeps | apply Device.lectern_keeps | apply Keeps.ite)
    | split
    | with_reducible (
        first | apply Keeps.foldl | apply Keeps.foldl_fst | apply Keeps.of_fst ‹_› | apply Keeps.put | apply Keeps.putLect)
    | intro _ _ _ | intro _ _
    | simp +zetaDelta only [setAt, List.length_set, List.length_map, List.length_zipIdx, Window.setIbi_events]; done

theorem execCheckPointExpiry_keeps (now : Time) (entry : MonKey) (s : State) :
    StepKeeps s (execCheckPointExpiry now entry s) := by
  refine State.onAlive_keeps fun e kept => ?_
  repeat' first
    | assumption | split
    | with_reducible (
        first | apply Device.lapse_keeps)

theorem execStartToken_keeps (now : Time) (s : State) : StepKeeps s (execStartToken now s) := by
  refine State.onAlive_keeps fun e kept => ?_
  split
  · rename_i h
    exact Device.startSeen_keeps (Device.takeToken_keeps kept _ _ h) _
  · exact kept

theorem execResultToken_keeps (now : Time) (s : State) : StepKeeps s (execResultToken now s) := by
  refine State.onAlive_keeps fun e kept => ?_
  split
  · rename_i h
    exact Device.resultSeen_keeps (Device.takeToken_keeps kept _ _ h) ..
  · exact kept

theorem execNotification_keeps (now : Time) (s : State) : StepKeeps s (execNotification now s) := by
  refine State.onAlive_keeps fun e kept => ?_
  iterate 30 try any_goals first
    | with_reducible first | assumption | rfl
    | (extract_lets +onlyGivenNames e
       first | refine Keeps.cut (e := e) ?_ (fun _ => ?_) <;> [subst e; clear_value e]
             | (have : Option _ := e; clear this; clear_value e) | skip)
    | with_reducible (
        first | apply Device.lectern_keeps | apply Device.takeNote_keeps | apply Keeps.ite)
    | split
    | with_reducible (
        first | apply Keeps.foldl | apply Keeps.foldl_fst | apply Keeps.of_fst ‹_› | apply Keeps.put | apply Keeps.putLect)
    | intro _ _ _ | intro _ _
    | simp +zetaDelta only [setAt, List.length_set, List.length_map, List.length_zipIdx, Window.setIbi_events]; done

theorem execSafeRequest_keeps (now : Time) (drawer : Fin 64) (s : State) :
    StepKeeps s (execSafeRequest now drawer s) := by
  refine State.drawerCommand_keeps fun e kept => ?_
  repeat' first
    | assumption | split
    | with_reducible (
        first | apply Device.enterQuiet_keeps | apply Device.reply_keeps)

theorem execSafeRelease_keeps (now : Time) (drawer : Fin 64) (causeInCycle : Option SafeCause) (s : State) :
    StepWeak s (execSafeRelease now drawer causeInCycle s) := by
  refine ⟨_, rfl, ?_⟩
  have k := advance_keeps (.refl s.dev) now
  revert k
  generalize advance now s.dev = d
  intro k
  dsimp only
  split
  · unfold Device.command
    split
    · extract_lets b e x f
      have ke : Keeps s.dev e := k.put rfl rfl rfl rfl rfl rfl rfl rfl rfl rfl
      have kf : Keeps s.dev f := Device.setDrawer_keeps ke ..
      split
      · exact (Device.fail_keeps kf ..).weak
      · split
        · exact (Device.hold_keeps kf ..).weak
        · exact kf.weak.trans (Device.safeRelease_keeps ..)
    · exact k.weak
  · exact k.weak

theorem execSelftestPolicy_keeps (now : Time) (drawer : Fin 64) (s : State) :
    StepKeeps s (execSelftestPolicy now drawer s) := by
  refine State.drawerCommand_keeps fun e kept => ?_
  repeat' first
    | assumption | split
    | with_reducible (
        first | apply Device.selftestPolicy_keeps)

end Sys2Proof.Machine
end

