-- ==== Sys2Proof/WellFormed.lean ====
section
/-!
DEFINITION. Well-formed commands: the operands that an event of this hardware can bring. `exec` is total and does
not need these checks.
-/

namespace Sys2Proof

/-- A long packet's payload has a 16-bit word count, and its lane domain is that of its port (R772). -/
def Pkt.wf (p : Pkt) : Bool := p.payload.length ≤ 65535

/-- Short packets carry data types 0x00 to 0x0F (R772). -/
def ShortPkt.wf (p : ShortPkt) : Bool := p.dt.toNat ≤ 0x0F

/-- Domains of R352 other than HUB. -/
def otherDomain (k : Byte) : Bool :=
  (1 ≤ k.toNat && k.toNat ≤ 3) || (0x10 ≤ k.toNat && k.toNat ≤ 0x1B) || (0x20 ≤ k.toNat && k.toNat ≤ 0x23)

/-- Lane counts of a CSI-2 port (R774). -/
def lanesOk (n : BitVec 3) : Bool := n == 1 || n == 2 || n == 4

/-- What a start-up finds holds one reading of each junction sensor (R726). -/
def BootFindings.wf (f : BootFindings) : Bool := f.readings.length == 144

/-- Errors of a tile store name bytes of the store (R105). -/
def StoreErrors.wf (e : StoreErrors) : Bool := e.bad.all fun a => decide (a < 131072)

/-- The operands are ones that the event can bring. -/
def Instr.wf : Instr → Bool
  | .hostWindowWrite _ t => 2 ≤ t.bytes.length || (t.bytes.isEmpty && t.read != .none)
  | .batteryTurnOn _ f => f.wf
  | .resetNRelease _ f => f.wf
  | .wakeEdge _ f => f.wf
  | .standbyLeave _ _ f => f.wf
  | .recoveryPacket _ p f => p.wf && f.wf
  | .swapOutDone _ f => f.tiles.all fun e => e.errors.wf
  | .preemptSaveDone _ f => f.errors.wf
  | .loadW _ _ se => se.wf
  | .arrayPass _ _ se => se.wf
  | .gateChain _ _ _ se => se.wf
  | .meshSend _ _ se => se.wf
  | .dmaIn _ _ f _ => f.desc.wf
  | .dmaOut _ _ se => se.wf
  | .bulkPacket _ p => p.wf
  | .frameStart _ p => p.wf && p.dt == 0x00
  | .frameEnd _ p => p.wf && p.dt == 0x01
  | .lineShortPacket _ p => p.wf && (p.dt == 0x02 || p.dt == 0x03)
  | .genericShortPacket _ p => p.wf && 0x08 ≤ p.dt.toNat
  | .imageLinePacket _ p => p.wf && (p.dt == 0x1E || p.dt == 0x24 || (0x2A ≤ p.dt.toNat && p.dt.toNat ≤ 0x2F))
  | .embeddedDataPacket _ p => p.wf && p.dt == 0x12
  | .jpegPacket _ p => p.wf && p.dt == 0x36
  | .pointPacket _ p => p.wf && p.dt == 0x35
  | .feedbackPacket _ p => p.wf && p.dt == 0x34
  | .inertialPacket _ p => p.wf && p.dt == 0x34
  | .bodyLinkPacket _ p => p.wf && p.dt == 0x33
  | .correspondenceSample _ captured => captured.all fun c => otherDomain c.1
  | .inputSkewCalibration _ _ lanes _ => lanesOk lanes
  | .bridgePrivateWrite _ _ addr data => addr.toNat ≤ 0x7D && data != [] && data.length ≤ 255
  | .bridgeBroadcastCcc _ _ data => data != []
  | .bridgePrivateRead _ _ addr len => addr.toNat ≤ 0x7D && len != 0
  | .bridgeSetMode _ _ mode => mode.toNat ≤ 3
  | .candidateComplete _ _ c => c.spans != []
  | .junctionSensorRead _ readings => readings.length == 144
  | _ => true

end Sys2Proof
end

