-- ==== Sys2Proof/Laws/PerInstr.lean ====
section
/-!
SUPPORT. What holds of every command as syntax: it carries the time of its event, and its other operands do not depend on it.
-/

namespace Sys2Proof.Laws.Timed

/-- A command is its row at a time: at different times it is different commands, all well formed or none. -/
def Statement (c : Instr) : Prop :=
  ∃ row : Time → Instr, (∃ now, row now = c) ∧ Function.Injective row ∧ ∀ t u, (row t).wf = (row u).wf

theorem batteryTurnOn (now : Time) (f : BootFindings) :
    Statement (.batteryTurnOn now f) :=
  ⟨fun t => .batteryTurnOn t f, ⟨now, rfl⟩, by rintro a b ⟨⟩; rfl, fun _ _ => rfl⟩

theorem resetNAssert (now : Time) :
    Statement (.resetNAssert now) :=
  ⟨fun t => .resetNAssert t, ⟨now, rfl⟩, by rintro a b ⟨⟩; rfl, fun _ _ => rfl⟩

theorem resetNRelease (now : Time) (f : BootFindings) :
    Statement (.resetNRelease now f) :=
  ⟨fun t => .resetNRelease t f, ⟨now, rfl⟩, by rintro a b ⟨⟩; rfl, fun _ _ => rfl⟩

theorem brownOut (now : Time) :
    Statement (.brownOut now) :=
  ⟨fun t => .brownOut t, ⟨now, rfl⟩, by rintro a b ⟨⟩; rfl, fun _ _ => rfl⟩

theorem overVoltageTrip (now : Time) :
    Statement (.overVoltageTrip now) :=
  ⟨fun t => .overVoltageTrip t, ⟨now, rfl⟩, by rintro a b ⟨⟩; rfl, fun _ _ => rfl⟩

theorem wakeEdge (now : Time) (f : BootFindings) :
    Statement (.wakeEdge now f) :=
  ⟨fun t => .wakeEdge t f, ⟨now, rfl⟩, by rintro a b ⟨⟩; rfl, fun _ _ => rfl⟩

theorem recoveryPacket (now : Time) (p : Pkt) (f : BootFindings) :
    Statement (.recoveryPacket now p f) :=
  ⟨fun t => .recoveryPacket t p f, ⟨now, rfl⟩, by rintro a b ⟨⟩; rfl, fun _ _ => rfl⟩

theorem hostWindowWrite (now : Time) (transfer : HostTransfer) :
    Statement (.hostWindowWrite now transfer) :=
  ⟨fun t => .hostWindowWrite t transfer, ⟨now, rfl⟩, by rintro a b ⟨⟩; rfl, fun _ _ => rfl⟩

theorem eventPop (now : Time) (value : BitVec 32) :
    Statement (.eventPop now value) :=
  ⟨fun t => .eventPop t value, ⟨now, rfl⟩, by rintro a b ⟨⟩; rfl, fun _ _ => rfl⟩

theorem overflowClear (now : Time) :
    Statement (.overflowClear now) :=
  ⟨fun t => .overflowClear t, ⟨now, rfl⟩, by rintro a b ⟨⟩; rfl, fun _ _ => rfl⟩

theorem ibiAck (now : Time) :
    Statement (.ibiAck now) :=
  ⟨fun t => .ibiAck t, ⟨now, rfl⟩, by rintro a b ⟨⟩; rfl, fun _ _ => rfl⟩

theorem ibiRetry (now : Time) :
    Statement (.ibiRetry now) :=
  ⟨fun t => .ibiRetry t, ⟨now, rfl⟩, by rintro a b ⟨⟩; rfl, fun _ _ => rfl⟩

theorem commandHoldRelease (now : Time) (drawer : Fin 64) :
    Statement (.commandHoldRelease now drawer) :=
  ⟨fun t => .commandHoldRelease t drawer, ⟨now, rfl⟩, by rintro a b ⟨⟩; rfl, fun _ _ => rfl⟩

theorem hello (now : Time) (drawer : Fin 64) :
    Statement (.hello now drawer) :=
  ⟨fun t => .hello t drawer, ⟨now, rfl⟩, by rintro a b ⟨⟩; rfl, fun _ _ => rfl⟩

theorem readMore (now : Time) (drawer : Fin 64) :
    Statement (.readMore now drawer) :=
  ⟨fun t => .readMore t drawer, ⟨now, rfl⟩, by rintro a b ⟨⟩; rfl, fun _ _ => rfl⟩

theorem planLoad (now : Time) (drawer : Fin 64) :
    Statement (.planLoad now drawer) :=
  ⟨fun t => .planLoad t drawer, ⟨now, rfl⟩, by rintro a b ⟨⟩; rfl, fun _ _ => rfl⟩

theorem planActivate (now : Time) (drawer : Fin 64) :
    Statement (.planActivate now drawer) :=
  ⟨fun t => .planActivate t drawer, ⟨now, rfl⟩, by rintro a b ⟨⟩; rfl, fun _ _ => rfl⟩

theorem partitionQuiesced (now : Time) (part : Fin 8) :
    Statement (.partitionQuiesced now part) :=
  ⟨fun t => .partitionQuiesced t part, ⟨now, rfl⟩, by rintro a b ⟨⟩; rfl, fun _ _ => rfl⟩

theorem planUnload (now : Time) (drawer : Fin 64) :
    Statement (.planUnload now drawer) :=
  ⟨fun t => .planUnload t drawer, ⟨now, rfl⟩, by rintro a b ⟨⟩; rfl, fun _ _ => rfl⟩

theorem planList (now : Time) (drawer : Fin 64) :
    Statement (.planList now drawer) :=
  ⟨fun t => .planList t drawer, ⟨now, rfl⟩, by rintro a b ⟨⟩; rfl, fun _ _ => rfl⟩

theorem partitionSet (now : Time) (drawer : Fin 64) :
    Statement (.partitionSet now drawer) :=
  ⟨fun t => .partitionSet t drawer, ⟨now, rfl⟩, by rintro a b ⟨⟩; rfl, fun _ _ => rfl⟩

theorem outputsEnable (now : Time) (drawer : Fin 64) :
    Statement (.outputsEnable now drawer) :=
  ⟨fun t => .outputsEnable t drawer, ⟨now, rfl⟩, by rintro a b ⟨⟩; rfl, fun _ _ => rfl⟩

theorem outputsDisable (now : Time) (drawer : Fin 64) :
    Statement (.outputsDisable now drawer) :=
  ⟨fun t => .outputsDisable t drawer, ⟨now, rfl⟩, by rintro a b ⟨⟩; rfl, fun _ _ => rfl⟩

theorem jobStart (now : Time) (drawer : Fin 64) :
    Statement (.jobStart now drawer) :=
  ⟨fun t => .jobStart t drawer, ⟨now, rfl⟩, by rintro a b ⟨⟩; rfl, fun _ _ => rfl⟩

theorem jobStop (now : Time) (drawer : Fin 64) :
    Statement (.jobStop now drawer) :=
  ⟨fun t => .jobStop t drawer, ⟨now, rfl⟩, by rintro a b ⟨⟩; rfl, fun _ _ => rfl⟩

theorem modeChange (now : Time) (drawer : Fin 64) :
    Statement (.modeChange now drawer) :=
  ⟨fun t => .modeChange t drawer, ⟨now, rfl⟩, by rintro a b ⟨⟩; rfl, fun _ _ => rfl⟩

theorem streamBind (now : Time) (drawer : Fin 64) :
    Statement (.streamBind now drawer) :=
  ⟨fun t => .streamBind t drawer, ⟨now, rfl⟩, by rintro a b ⟨⟩; rfl, fun _ _ => rfl⟩

theorem streamUnbind (now : Time) (drawer : Fin 64) :
    Statement (.streamUnbind now drawer) :=
  ⟨fun t => .streamUnbind t drawer, ⟨now, rfl⟩, by rintro a b ⟨⟩; rfl, fun _ _ => rfl⟩

theorem outBind (now : Time) (drawer : Fin 64) :
    Statement (.outBind now drawer) :=
  ⟨fun t => .outBind t drawer, ⟨now, rfl⟩, by rintro a b ⟨⟩; rfl, fun _ _ => rfl⟩

theorem groupSet (now : Time) (drawer : Fin 64) :
    Statement (.groupSet now drawer) :=
  ⟨fun t => .groupSet t drawer, ⟨now, rfl⟩, by rintro a b ⟨⟩; rfl, fun _ _ => rfl⟩

theorem kvOpen (now : Time) (drawer : Fin 64) :
    Statement (.kvOpen now drawer) :=
  ⟨fun t => .kvOpen t drawer, ⟨now, rfl⟩, by rintro a b ⟨⟩; rfl, fun _ _ => rfl⟩

theorem kvClose (now : Time) (drawer : Fin 64) :
    Statement (.kvClose now drawer) :=
  ⟨fun t => .kvClose t drawer, ⟨now, rfl⟩, by rintro a b ⟨⟩; rfl, fun _ _ => rfl⟩

theorem kvRead (now : Time) (drawer : Fin 64) :
    Statement (.kvRead now drawer) :=
  ⟨fun t => .kvRead t drawer, ⟨now, rfl⟩, by rintro a b ⟨⟩; rfl, fun _ _ => rfl⟩

theorem kvPageRead (now : Time) (drawer : Fin 64) :
    Statement (.kvPageRead now drawer) :=
  ⟨fun t => .kvPageRead t drawer, ⟨now, rfl⟩, by rintro a b ⟨⟩; rfl, fun _ _ => rfl⟩

theorem slotSwapOut (now : Time) (drawer : Fin 64) :
    Statement (.slotSwapOut now drawer) :=
  ⟨fun t => .slotSwapOut t drawer, ⟨now, rfl⟩, by rintro a b ⟨⟩; rfl, fun _ _ => rfl⟩

theorem slotSwapIn (now : Time) (drawer : Fin 64) :
    Statement (.slotSwapIn now drawer) :=
  ⟨fun t => .slotSwapIn t drawer, ⟨now, rfl⟩, by rintro a b ⟨⟩; rfl, fun _ _ => rfl⟩

theorem slotWithdraw (now : Time) (drawer : Fin 64) :
    Statement (.slotWithdraw now drawer) :=
  ⟨fun t => .slotWithdraw t drawer, ⟨now, rfl⟩, by rintro a b ⟨⟩; rfl, fun _ _ => rfl⟩

theorem swapOutDone (now : Time) (found : SlotRead) :
    Statement (.swapOutDone now found) :=
  ⟨fun t => .swapOutDone t found, ⟨now, rfl⟩, by rintro a b ⟨⟩; rfl, fun _ _ => rfl⟩

theorem swapInDone (now : Time) (slot : Fin 4096) (uncorrectable : Bool) :
    Statement (.swapInDone now slot uncorrectable) :=
  ⟨fun t => .swapInDone t slot uncorrectable, ⟨now, rfl⟩, by rintro a b ⟨⟩; rfl, fun _ _ => rfl⟩

theorem mapUpdate (now : Time) (drawer : Fin 64) :
    Statement (.mapUpdate now drawer) :=
  ⟨fun t => .mapUpdate t drawer, ⟨now, rfl⟩, by rintro a b ⟨⟩; rfl, fun _ _ => rfl⟩

theorem solverUpdate (now : Time) (drawer : Fin 64) :
    Statement (.solverUpdate now drawer) :=
  ⟨fun t => .solverUpdate t drawer, ⟨now, rfl⟩, by rintro a b ⟨⟩; rfl, fun _ _ => rfl⟩

theorem solverInfo (now : Time) (drawer : Fin 64) :
    Statement (.solverInfo now drawer) :=
  ⟨fun t => .solverInfo t drawer, ⟨now, rfl⟩, by rintro a b ⟨⟩; rfl, fun _ _ => rfl⟩

theorem memWrite (now : Time) (drawer : Fin 64) :
    Statement (.memWrite now drawer) :=
  ⟨fun t => .memWrite t drawer, ⟨now, rfl⟩, by rintro a b ⟨⟩; rfl, fun _ _ => rfl⟩

theorem timeSamples (now : Time) (drawer : Fin 64) :
    Statement (.timeSamples now drawer) :=
  ⟨fun t => .timeSamples t drawer, ⟨now, rfl⟩, by rintro a b ⟨⟩; rfl, fun _ _ => rfl⟩

theorem timeConvert (now : Time) (drawer : Fin 64) :
    Statement (.timeConvert now drawer) :=
  ⟨fun t => .timeConvert t drawer, ⟨now, rfl⟩, by rintro a b ⟨⟩; rfl, fun _ _ => rfl⟩

theorem calRead (now : Time) (drawer : Fin 64) :
    Statement (.calRead now drawer) :=
  ⟨fun t => .calRead t drawer, ⟨now, rfl⟩, by rintro a b ⟨⟩; rfl, fun _ _ => rfl⟩

theorem calWrite (now : Time) (drawer : Fin 64) :
    Statement (.calWrite now drawer) :=
  ⟨fun t => .calWrite t drawer, ⟨now, rfl⟩, by rintro a b ⟨⟩; rfl, fun _ _ => rfl⟩

theorem selftestPolicy (now : Time) (drawer : Fin 64) :
    Statement (.selftestPolicy now drawer) :=
  ⟨fun t => .selftestPolicy t drawer, ⟨now, rfl⟩, by rintro a b ⟨⟩; rfl, fun _ _ => rfl⟩

theorem safeRequest (now : Time) (drawer : Fin 64) :
    Statement (.safeRequest now drawer) :=
  ⟨fun t => .safeRequest t drawer, ⟨now, rfl⟩, by rintro a b ⟨⟩; rfl, fun _ _ => rfl⟩

theorem safeRelease (now : Time) (drawer : Fin 64) (causeInCycle : Option SafeCause) :
    Statement (.safeRelease now drawer causeInCycle) :=
  ⟨fun t => .safeRelease t drawer causeInCycle, ⟨now, rfl⟩, by rintro a b ⟨⟩; rfl, fun _ _ => rfl⟩

theorem lecternLog (now : Time) (drawer : Fin 64) :
    Statement (.lecternLog now drawer) :=
  ⟨fun t => .lecternLog t drawer, ⟨now, rfl⟩, by rintro a b ⟨⟩; rfl, fun _ _ => rfl⟩

theorem powerLimit (now : Time) (drawer : Fin 64) :
    Statement (.powerLimit now drawer) :=
  ⟨fun t => .powerLimit t drawer, ⟨now, rfl⟩, by rintro a b ⟨⟩; rfl, fun _ _ => rfl⟩

theorem telemetry (now : Time) (drawer : Fin 64) :
    Statement (.telemetry now drawer) :=
  ⟨fun t => .telemetry t drawer, ⟨now, rfl⟩, by rintro a b ⟨⟩; rfl, fun _ _ => rfl⟩

theorem counters (now : Time) (drawer : Fin 64) :
    Statement (.counters now drawer) :=
  ⟨fun t => .counters t drawer, ⟨now, rfl⟩, by rintro a b ⟨⟩; rfl, fun _ _ => rfl⟩

theorem memReport (now : Time) (drawer : Fin 64) :
    Statement (.memReport now drawer) :=
  ⟨fun t => .memReport t drawer, ⟨now, rfl⟩, by rintro a b ⟨⟩; rfl, fun _ _ => rfl⟩

theorem tileCensus (now : Time) (drawer : Fin 64) :
    Statement (.tileCensus now drawer) :=
  ⟨fun t => .tileCensus t drawer, ⟨now, rfl⟩, by rintro a b ⟨⟩; rfl, fun _ _ => rfl⟩

theorem standbyEnter (now : Time) (drawer : Fin 64) :
    Statement (.standbyEnter now drawer) :=
  ⟨fun t => .standbyEnter t drawer, ⟨now, rfl⟩, by rintro a b ⟨⟩; rfl, fun _ _ => rfl⟩

theorem standbyLeave (now : Time) (drawer : Fin 64) (f : BootFindings) :
    Statement (.standbyLeave now drawer f) :=
  ⟨fun t => .standbyLeave t drawer f, ⟨now, rfl⟩, by rintro a b ⟨⟩; rfl, fun _ _ => rfl⟩

theorem serviceClear (now : Time) (drawer : Fin 64) :
    Statement (.serviceClear now drawer) :=
  ⟨fun t => .serviceClear t drawer, ⟨now, rfl⟩, by rintro a b ⟨⟩; rfl, fun _ _ => rfl⟩

theorem fwUpdate (now : Time) (drawer : Fin 64) :
    Statement (.fwUpdate now drawer) :=
  ⟨fun t => .fwUpdate t drawer, ⟨now, rfl⟩, by rintro a b ⟨⟩; rfl, fun _ _ => rfl⟩

theorem attest (now : Time) (drawer : Fin 64) :
    Statement (.attest now drawer) :=
  ⟨fun t => .attest t drawer, ⟨now, rfl⟩, by rintro a b ⟨⟩; rfl, fun _ _ => rfl⟩

theorem identityRead (now : Time) (drawer : Fin 64) :
    Statement (.identityRead now drawer) :=
  ⟨fun t => .identityRead t drawer, ⟨now, rfl⟩, by rintro a b ⟨⟩; rfl, fun _ _ => rfl⟩

theorem keyRevoke (now : Time) (drawer : Fin 64) :
    Statement (.keyRevoke now drawer) :=
  ⟨fun t => .keyRevoke t drawer, ⟨now, rfl⟩, by rintro a b ⟨⟩; rfl, fun _ _ => rfl⟩

theorem bulkPacket (now : Time) (p : Pkt) :
    Statement (.bulkPacket now p) :=
  ⟨fun t => .bulkPacket t p, ⟨now, rfl⟩, by rintro a b ⟨⟩; rfl, fun _ _ => rfl⟩

theorem bulkTimeout (now : Time) (drawer : Fin 64) :
    Statement (.bulkTimeout now drawer) :=
  ⟨fun t => .bulkTimeout t drawer, ⟨now, rfl⟩, by rintro a b ⟨⟩; rfl, fun _ _ => rfl⟩

theorem enec (now : Time) (target : Option (Fin 5)) (events : BitVec 8) :
    Statement (.enec now target events) :=
  ⟨fun t => .enec t target events, ⟨now, rfl⟩, by rintro a b ⟨⟩; rfl, fun _ _ => rfl⟩

theorem disec (now : Time) (target : Option (Fin 5)) (events : BitVec 8) :
    Statement (.disec now target events) :=
  ⟨fun t => .disec t target events, ⟨now, rfl⟩, by rintro a b ⟨⟩; rfl, fun _ _ => rfl⟩

theorem rstdaa (now : Time) :
    Statement (.rstdaa now) :=
  ⟨fun t => .rstdaa t, ⟨now, rfl⟩, by rintro a b ⟨⟩; rfl, fun _ _ => rfl⟩

theorem entdaa (now : Time) (assigned : List (Fin 5 × BitVec 7)) :
    Statement (.entdaa now assigned) :=
  ⟨fun t => .entdaa t assigned, ⟨now, rfl⟩, by rintro a b ⟨⟩; rfl, fun _ _ => rfl⟩

theorem setmwl (now : Time) (target : Option (Fin 5)) (len : BitVec 16) :
    Statement (.setmwl now target len) :=
  ⟨fun t => .setmwl t target len, ⟨now, rfl⟩, by rintro a b ⟨⟩; rfl, fun _ _ => rfl⟩

theorem setmrl (now : Time) (target : Option (Fin 5)) (len : BitVec 16) :
    Statement (.setmrl now target len) :=
  ⟨fun t => .setmrl t target len, ⟨now, rfl⟩, by rintro a b ⟨⟩; rfl, fun _ _ => rfl⟩

theorem enthdr0 (now : Time) :
    Statement (.enthdr0 now) :=
  ⟨fun t => .enthdr0 t, ⟨now, rfl⟩, by rintro a b ⟨⟩; rfl, fun _ _ => rfl⟩

theorem setdasa (now : Time) (addr : BitVec 7) :
    Statement (.setdasa now addr) :=
  ⟨fun t => .setdasa t addr, ⟨now, rfl⟩, by rintro a b ⟨⟩; rfl, fun _ _ => rfl⟩

theorem setnewda (now : Time) (target : Fin 5) (addr : BitVec 7) :
    Statement (.setnewda now target addr) :=
  ⟨fun t => .setnewda t target addr, ⟨now, rfl⟩, by rintro a b ⟨⟩; rfl, fun _ _ => rfl⟩

theorem getmwl (now : Time) (target : Fin 5) :
    Statement (.getmwl now target) :=
  ⟨fun t => .getmwl t target, ⟨now, rfl⟩, by rintro a b ⟨⟩; rfl, fun _ _ => rfl⟩

theorem getmrl (now : Time) (target : Fin 5) :
    Statement (.getmrl now target) :=
  ⟨fun t => .getmrl t target, ⟨now, rfl⟩, by rintro a b ⟨⟩; rfl, fun _ _ => rfl⟩

theorem getpid (now : Time) (target : Fin 5) :
    Statement (.getpid now target) :=
  ⟨fun t => .getpid t target, ⟨now, rfl⟩, by rintro a b ⟨⟩; rfl, fun _ _ => rfl⟩

theorem getbcr (now : Time) (target : Fin 5) :
    Statement (.getbcr now target) :=
  ⟨fun t => .getbcr t target, ⟨now, rfl⟩, by rintro a b ⟨⟩; rfl, fun _ _ => rfl⟩

theorem getdcr (now : Time) (target : Fin 5) :
    Statement (.getdcr now target) :=
  ⟨fun t => .getdcr t target, ⟨now, rfl⟩, by rintro a b ⟨⟩; rfl, fun _ _ => rfl⟩

theorem getstatus (now : Time) (target : Fin 5) :
    Statement (.getstatus now target) :=
  ⟨fun t => .getstatus t target, ⟨now, rfl⟩, by rintro a b ⟨⟩; rfl, fun _ _ => rfl⟩

theorem getmxds (now : Time) (target : Fin 5) :
    Statement (.getmxds now target) :=
  ⟨fun t => .getmxds t target, ⟨now, rfl⟩, by rintro a b ⟨⟩; rfl, fun _ _ => rfl⟩

theorem bridgePrivateWrite (now : Time) (bridge : Fin 4) (addr : BitVec 7) (data : Bytes) :
    Statement (.bridgePrivateWrite now bridge addr data) :=
  ⟨fun t => .bridgePrivateWrite t bridge addr data, ⟨now, rfl⟩, by rintro a b ⟨⟩; rfl, fun _ _ => rfl⟩

theorem bridgeBroadcastCcc (now : Time) (bridge : Fin 4) (data : Bytes) :
    Statement (.bridgeBroadcastCcc now bridge data) :=
  ⟨fun t => .bridgeBroadcastCcc t bridge data, ⟨now, rfl⟩, by rintro a b ⟨⟩; rfl, fun _ _ => rfl⟩

theorem bridgeSetMode (now : Time) (bridge : Fin 4) (mode : Byte) :
    Statement (.bridgeSetMode now bridge mode) :=
  ⟨fun t => .bridgeSetMode t bridge mode, ⟨now, rfl⟩, by rintro a b ⟨⟩; rfl, fun _ _ => rfl⟩

theorem bridgeEntdaa (now : Time) (bridge : Fin 4) (first : Byte) :
    Statement (.bridgeEntdaa now bridge first) :=
  ⟨fun t => .bridgeEntdaa t bridge first, ⟨now, rfl⟩, by rintro a b ⟨⟩; rfl, fun _ _ => rfl⟩

theorem bridgeRstdaa (now : Time) (bridge : Fin 4) :
    Statement (.bridgeRstdaa now bridge) :=
  ⟨fun t => .bridgeRstdaa t bridge, ⟨now, rfl⟩, by rintro a b ⟨⟩; rfl, fun _ _ => rfl⟩

theorem bridgePrivateRead (now : Time) (bridge : Fin 4) (addr : BitVec 7) (len : Byte) :
    Statement (.bridgePrivateRead now bridge addr len) :=
  ⟨fun t => .bridgePrivateRead t bridge addr len, ⟨now, rfl⟩, by rintro a b ⟨⟩; rfl, fun _ _ => rfl⟩

theorem bridgeTransferDone (now : Time) (bridge : Fin 4) (result : BridgeResult) :
    Statement (.bridgeTransferDone now bridge result) :=
  ⟨fun t => .bridgeTransferDone t bridge result, ⟨now, rfl⟩, by rintro a b ⟨⟩; rfl, fun _ _ => rfl⟩

theorem frameStart (now : Time) (p : ShortPkt) :
    Statement (.frameStart now p) :=
  ⟨fun t => .frameStart t p, ⟨now, rfl⟩, by rintro a b ⟨⟩; rfl, fun _ _ => rfl⟩

theorem frameEnd (now : Time) (p : ShortPkt) :
    Statement (.frameEnd now p) :=
  ⟨fun t => .frameEnd t p, ⟨now, rfl⟩, by rintro a b ⟨⟩; rfl, fun _ _ => rfl⟩

theorem lineShortPacket (now : Time) (p : ShortPkt) :
    Statement (.lineShortPacket now p) :=
  ⟨fun t => .lineShortPacket t p, ⟨now, rfl⟩, by rintro a b ⟨⟩; rfl, fun _ _ => rfl⟩

theorem genericShortPacket (now : Time) (p : ShortPkt) :
    Statement (.genericShortPacket now p) :=
  ⟨fun t => .genericShortPacket t p, ⟨now, rfl⟩, by rintro a b ⟨⟩; rfl, fun _ _ => rfl⟩

theorem imageLinePacket (now : Time) (p : Pkt) :
    Statement (.imageLinePacket now p) :=
  ⟨fun t => .imageLinePacket t p, ⟨now, rfl⟩, by rintro a b ⟨⟩; rfl, fun _ _ => rfl⟩

theorem embeddedDataPacket (now : Time) (p : Pkt) :
    Statement (.embeddedDataPacket now p) :=
  ⟨fun t => .embeddedDataPacket t p, ⟨now, rfl⟩, by rintro a b ⟨⟩; rfl, fun _ _ => rfl⟩

theorem jpegPacket (now : Time) (p : Pkt) :
    Statement (.jpegPacket now p) :=
  ⟨fun t => .jpegPacket t p, ⟨now, rfl⟩, by rintro a b ⟨⟩; rfl, fun _ _ => rfl⟩

theorem pointPacket (now : Time) (p : Pkt) :
    Statement (.pointPacket now p) :=
  ⟨fun t => .pointPacket t p, ⟨now, rfl⟩, by rintro a b ⟨⟩; rfl, fun _ _ => rfl⟩

theorem feedbackPacket (now : Time) (p : Pkt) :
    Statement (.feedbackPacket now p) :=
  ⟨fun t => .feedbackPacket t p, ⟨now, rfl⟩, by rintro a b ⟨⟩; rfl, fun _ _ => rfl⟩

theorem inertialPacket (now : Time) (p : Pkt) :
    Statement (.inertialPacket now p) :=
  ⟨fun t => .inertialPacket t p, ⟨now, rfl⟩, by rintro a b ⟨⟩; rfl, fun _ _ => rfl⟩

theorem bodyLinkPacket (now : Time) (p : Pkt) :
    Statement (.bodyLinkPacket now p) :=
  ⟨fun t => .bodyLinkPacket t p, ⟨now, rfl⟩, by rintro a b ⟨⟩; rfl, fun _ _ => rfl⟩

theorem inputSkewCalibration (now : Time) (port : Fin 12) (lanes : BitVec 3) (deskewed : Bool) :
    Statement (.inputSkewCalibration now port lanes deskewed) :=
  ⟨fun t => .inputSkewCalibration t port lanes deskewed, ⟨now, rfl⟩, by rintro a b ⟨⟩; rfl, fun _ _ => rfl⟩

theorem outputSkewCalibration (now : Time) (port : Fin 4) :
    Statement (.outputSkewCalibration now port) :=
  ⟨fun t => .outputSkewCalibration t port, ⟨now, rfl⟩, by rintro a b ⟨⟩; rfl, fun _ _ => rfl⟩

theorem decoderTake (now : Time) (dec : Fin 2) :
    Statement (.decoderTake now dec) :=
  ⟨fun t => .decoderTake t dec, ⟨now, rfl⟩, by rintro a b ⟨⟩; rfl, fun _ _ => rfl⟩

theorem decodeDone (now : Time) (tag : BitVec 12) (seq : BitVec 32) (work : Nat) :
    Statement (.decodeDone now tag seq work) :=
  ⟨fun t => .decodeDone t tag seq work, ⟨now, rfl⟩, by rintro a b ⟨⟩; rfl, fun _ _ => rfl⟩

theorem workCapReached (now : Time) (tag : BitVec 12) (seq : BitVec 32) :
    Statement (.workCapReached now tag seq) :=
  ⟨fun t => .workCapReached t tag seq, ⟨now, rfl⟩, by rintro a b ⟨⟩; rfl, fun _ _ => rfl⟩

theorem recordPost (now : Time) (tag : BitVec 12) :
    Statement (.recordPost now tag) :=
  ⟨fun t => .recordPost t tag, ⟨now, rfl⟩, by rintro a b ⟨⟩; rfl, fun _ _ => rfl⟩

theorem batchWindowExpiry (now : Time) (tag : BitVec 12) :
    Statement (.batchWindowExpiry now tag) :=
  ⟨fun t => .batchWindowExpiry t tag, ⟨now, rfl⟩, by rintro a b ⟨⟩; rfl, fun _ _ => rfl⟩

theorem groupWindowExpiry (now : Time) (group : Fin 8) :
    Statement (.groupWindowExpiry now group) :=
  ⟨fun t => .groupWindowExpiry t group, ⟨now, rfl⟩, by rintro a b ⟨⟩; rfl, fun _ _ => rfl⟩

theorem groupRecordPost (now : Time) (group : Fin 8) :
    Statement (.groupRecordPost now group) :=
  ⟨fun t => .groupRecordPost t group, ⟨now, rfl⟩, by rintro a b ⟨⟩; rfl, fun _ _ => rfl⟩

theorem testFrameCompare (now : Time) (tag : BitVec 12) (crc : BitVec 32) :
    Statement (.testFrameCompare now tag crc) :=
  ⟨fun t => .testFrameCompare t tag crc, ⟨now, rfl⟩, by rintro a b ⟨⟩; rfl, fun _ _ => rfl⟩

theorem finisherFrame (now : Time) (job : BitVec 16) :
    Statement (.finisherFrame now job) :=
  ⟨fun t => .finisherFrame t job, ⟨now, rfl⟩, by rintro a b ⟨⟩; rfl, fun _ _ => rfl⟩

theorem correspondenceSample (now : Time) (captured : List (Byte × Time)) :
    Statement (.correspondenceSample now captured) :=
  ⟨fun t => .correspondenceSample t captured, ⟨now, rfl⟩, by rintro a b ⟨⟩; rfl, fun _ _ => rfl⟩

theorem measurementTake (now : Time) :
    Statement (.measurementTake now) :=
  ⟨fun t => .measurementTake t, ⟨now, rfl⟩, by rintro a b ⟨⟩; rfl, fun _ _ => rfl⟩

theorem fusionTick (now : Time) :
    Statement (.fusionTick now) :=
  ⟨fun t => .fusionTick t, ⟨now, rfl⟩, by rintro a b ⟨⟩; rfl, fun _ _ => rfl⟩

theorem fusionClose (now : Time) :
    Statement (.fusionClose now) :=
  ⟨fun t => .fusionClose t, ⟨now, rfl⟩, by rintro a b ⟨⟩; rfl, fun _ _ => rfl⟩

theorem fusionEmission (now : Time) (finished : Bool) :
    Statement (.fusionEmission now finished) :=
  ⟨fun t => .fusionEmission t finished, ⟨now, rfl⟩, by rintro a b ⟨⟩; rfl, fun _ _ => rfl⟩

theorem shelfUpdateSignal (now : Time) :
    Statement (.shelfUpdateSignal now) :=
  ⟨fun t => .shelfUpdateSignal t, ⟨now, rfl⟩, by rintro a b ⟨⟩; rfl, fun _ _ => rfl⟩

theorem shelfBatch (now : Time) :
    Statement (.shelfBatch now) :=
  ⟨fun t => .shelfBatch t, ⟨now, rfl⟩, by rintro a b ⟨⟩; rfl, fun _ _ => rfl⟩

theorem candidateComplete (now : Time) (job : BitVec 16) (cand : Candidate) :
    Statement (.candidateComplete now job cand) :=
  ⟨fun t => .candidateComplete t job cand, ⟨now, rfl⟩, by rintro a b ⟨⟩; rfl, fun _ _ => rfl⟩

theorem plannerBudgetEnd (now : Time) (job : BitVec 16) :
    Statement (.plannerBudgetEnd now job) :=
  ⟨fun t => .plannerBudgetEnd t job, ⟨now, rfl⟩, by rintro a b ⟨⟩; rfl, fun _ _ => rfl⟩

theorem solverUpdateSignal (now : Time) (job : BitVec 16) :
    Statement (.solverUpdateSignal now job) :=
  ⟨fun t => .solverUpdateSignal t job, ⟨now, rfl⟩, by rintro a b ⟨⟩; rfl, fun _ _ => rfl⟩

theorem solverBatchApply (now : Time) (job : BitVec 16) :
    Statement (.solverBatchApply now job) :=
  ⟨fun t => .solverBatchApply t job, ⟨now, rfl⟩, by rintro a b ⟨⟩; rfl, fun _ _ => rfl⟩

theorem applicationPoint (now : Time) (job : BitVec 16) :
    Statement (.applicationPoint now job) :=
  ⟨fun t => .applicationPoint t job, ⟨now, rfl⟩, by rintro a b ⟨⟩; rfl, fun _ _ => rfl⟩

theorem iterationComplete (now : Time) (job : BitVec 16) (finding : ScrubFinding) :
    Statement (.iterationComplete now job finding) :=
  ⟨fun t => .iterationComplete t job finding, ⟨now, rfl⟩, by rintro a b ⟨⟩; rfl, fun _ _ => rfl⟩

theorem solveBudgetExpiry (now : Time) (job : BitVec 16) :
    Statement (.solveBudgetExpiry now job) :=
  ⟨fun t => .solveBudgetExpiry t job, ⟨now, rfl⟩, by rintro a b ⟨⟩; rfl, fun _ _ => rfl⟩

theorem slotPeriodStart (now : Time) (slot : Fin 256) :
    Statement (.slotPeriodStart now slot) :=
  ⟨fun t => .slotPeriodStart t slot, ⟨now, rfl⟩, by rintro a b ⟨⟩; rfl, fun _ _ => rfl⟩

theorem periodInEdge (now : Time) (pin : Fin 8) :
    Statement (.periodInEdge now pin) :=
  ⟨fun t => .periodInEdge t pin, ⟨now, rfl⟩, by rintro a b ⟨⟩; rfl, fun _ _ => rfl⟩

theorem edgeWindowExpiry (now : Time) (user : LockUser) :
    Statement (.edgeWindowExpiry now user) :=
  ⟨fun t => .edgeWindowExpiry t user, ⟨now, rfl⟩, by rintro a b ⟨⟩; rfl, fun _ _ => rfl⟩

theorem inputLatch (now : Time) (slot : Fin 256) (upset : Option Upset) :
    Statement (.inputLatch now slot upset) :=
  ⟨fun t => .inputLatch t slot upset, ⟨now, rfl⟩, by rintro a b ⟨⟩; rfl, fun _ _ => rfl⟩

theorem loopCompare (now : Time) (slot : Fin 256) :
    Statement (.loopCompare now slot) :=
  ⟨fun t => .loopCompare t slot, ⟨now, rfl⟩, by rintro a b ⟨⟩; rfl, fun _ _ => rfl⟩

theorem outputWrite (now : Time) (slot : Fin 256) (finding : ScrubFinding) :
    Statement (.outputWrite now slot finding) :=
  ⟨fun t => .outputWrite t slot finding, ⟨now, rfl⟩, by rintro a b ⟨⟩; rfl, fun _ _ => rfl⟩

theorem testRow (now : Time) (half : Half) (pass : Bool) :
    Statement (.testRow now half pass) :=
  ⟨fun t => .testRow t half pass, ⟨now, rfl⟩, by rintro a b ⟨⟩; rfl, fun _ _ => rfl⟩

theorem periodicPeriodStart (now : Time) (job : BitVec 16) :
    Statement (.periodicPeriodStart now job) :=
  ⟨fun t => .periodicPeriodStart t job, ⟨now, rfl⟩, by rintro a b ⟨⟩; rfl, fun _ _ => rfl⟩

theorem hookTriggeredStart (now : Time) (job : BitVec 16) :
    Statement (.hookTriggeredStart now job) :=
  ⟨fun t => .hookTriggeredStart t job, ⟨now, rfl⟩, by rintro a b ⟨⟩; rfl, fun _ _ => rfl⟩

theorem backgroundGrant (now : Time) :
    Statement (.backgroundGrant now) :=
  ⟨fun t => .backgroundGrant t, ⟨now, rfl⟩, by rintro a b ⟨⟩; rfl, fun _ _ => rfl⟩

theorem deadlineExpiry (now : Time) (job : BitVec 16) :
    Statement (.deadlineExpiry now job) :=
  ⟨fun t => .deadlineExpiry t job, ⟨now, rfl⟩, by rintro a b ⟨⟩; rfl, fun _ _ => rfl⟩

theorem periodComplete (now : Time) (job : BitVec 16) :
    Statement (.periodComplete now job) :=
  ⟨fun t => .periodComplete t job, ⟨now, rfl⟩, by rintro a b ⟨⟩; rfl, fun _ _ => rfl⟩

theorem preemptSaveDone (now : Time) (found : TileRead) :
    Statement (.preemptSaveDone now found) :=
  ⟨fun t => .preemptSaveDone t found, ⟨now, rfl⟩, by rintro a b ⟨⟩; rfl, fun _ _ => rfl⟩

theorem resume (now : Time) (job : BitVec 16) :
    Statement (.resume now job) :=
  ⟨fun t => .resume t job, ⟨now, rfl⟩, by rintro a b ⟨⟩; rfl, fun _ _ => rfl⟩

theorem tileStart (now : Time) (tile : Fin 4160) :
    Statement (.tileStart now tile) :=
  ⟨fun t => .tileStart t tile, ⟨now, rfl⟩, by rintro a b ⟨⟩; rfl, fun _ _ => rfl⟩

theorem loadW (now : Time) (tile : Fin 4160) (se : StoreErrors) :
    Statement (.loadW now tile se) :=
  ⟨fun t => .loadW t tile se, ⟨now, rfl⟩, by rintro a b ⟨⟩; rfl, fun _ _ => rfl⟩

theorem arrayPass (now : Time) (tile : Fin 4160) (se : StoreErrors) :
    Statement (.arrayPass now tile se) :=
  ⟨fun t => .arrayPass t tile se, ⟨now, rfl⟩, by rintro a b ⟨⟩; rfl, fun _ _ => rfl⟩

theorem drain (now : Time) (tile : Fin 4160) :
    Statement (.drain now tile) :=
  ⟨fun t => .drain t tile, ⟨now, rfl⟩, by rintro a b ⟨⟩; rfl, fun _ _ => rfl⟩

theorem checksumCompare (now : Time) (tile : Fin 4160) (faults : List (Nat × SumFault)) :
    Statement (.checksumCompare now tile faults) :=
  ⟨fun t => .checksumCompare t tile faults, ⟨now, rfl⟩, by rintro a b ⟨⟩; rfl, fun _ _ => rfl⟩

theorem gateChain (now : Time) (tile : Fin 4160) (fromDrain : Bool) (se : StoreErrors) :
    Statement (.gateChain now tile fromDrain se) :=
  ⟨fun t => .gateChain t tile fromDrain se, ⟨now, rfl⟩, by rintro a b ⟨⟩; rfl, fun _ _ => rfl⟩

theorem meshSend (now : Time) (tile : Fin 4160) (se : StoreErrors) :
    Statement (.meshSend now tile se) :=
  ⟨fun t => .meshSend t tile se, ⟨now, rfl⟩, by rintro a b ⟨⟩; rfl, fun _ _ => rfl⟩

theorem sendAcknowledged (now : Time) (send : SendRef) :
    Statement (.sendAcknowledged now send) :=
  ⟨fun t => .sendAcknowledged t send, ⟨now, rfl⟩, by rintro a b ⟨⟩; rfl, fun _ _ => rfl⟩

theorem dmaIn (now : Time) (tile : Fin 4160) (found : DmaReads) (ce : ChipErrors) :
    Statement (.dmaIn now tile found ce) :=
  ⟨fun t => .dmaIn t tile found ce, ⟨now, rfl⟩, by rintro a b ⟨⟩; rfl, fun _ _ => rfl⟩

theorem dmaInLanded (now : Time) (tile : Fin 4160) :
    Statement (.dmaInLanded now tile) :=
  ⟨fun t => .dmaInLanded t tile, ⟨now, rfl⟩, by rintro a b ⟨⟩; rfl, fun _ _ => rfl⟩

theorem dmaOut (now : Time) (tile : Fin 4160) (se : StoreErrors) :
    Statement (.dmaOut now tile se) :=
  ⟨fun t => .dmaOut t tile se, ⟨now, rfl⟩, by rintro a b ⟨⟩; rfl, fun _ _ => rfl⟩

theorem dmaOutVisible (now : Time) (tile : Fin 4160) :
    Statement (.dmaOutVisible now tile) :=
  ⟨fun t => .dmaOutVisible t tile, ⟨now, rfl⟩, by rintro a b ⟨⟩; rfl, fun _ _ => rfl⟩

theorem hookWait (now : Time) (tile : Fin 4160) :
    Statement (.hookWait now tile) :=
  ⟨fun t => .hookWait t tile, ⟨now, rfl⟩, by rintro a b ⟨⟩; rfl, fun _ _ => rfl⟩

theorem hookWaitTry (now : Time) (tile : Fin 4160) :
    Statement (.hookWaitTry now tile) :=
  ⟨fun t => .hookWaitTry t tile, ⟨now, rfl⟩, by rintro a b ⟨⟩; rfl, fun _ _ => rfl⟩

theorem hookSignal (now : Time) (tile : Fin 4160) :
    Statement (.hookSignal now tile) :=
  ⟨fun t => .hookSignal t tile, ⟨now, rfl⟩, by rintro a b ⟨⟩; rfl, fun _ _ => rfl⟩

theorem hookWaitDone (now : Time) (tile : Fin 4160) :
    Statement (.hookWaitDone now tile) :=
  ⟨fun t => .hookWaitDone t tile, ⟨now, rfl⟩, by rintro a b ⟨⟩; rfl, fun _ _ => rfl⟩

theorem loopBody (now : Time) (tile : Fin 4160) :
    Statement (.loopBody now tile) :=
  ⟨fun t => .loopBody t tile, ⟨now, rfl⟩, by rintro a b ⟨⟩; rfl, fun _ _ => rfl⟩

theorem branchEpoch (now : Time) (tile : Fin 4160) :
    Statement (.branchEpoch now tile) :=
  ⟨fun t => .branchEpoch t tile, ⟨now, rfl⟩, by rintro a b ⟨⟩; rfl, fun _ _ => rfl⟩

theorem endProgram (now : Time) (tile : Fin 4160) :
    Statement (.endProgram now tile) :=
  ⟨fun t => .endProgram t tile, ⟨now, rfl⟩, by rintro a b ⟨⟩; rfl, fun _ _ => rfl⟩

theorem refillDone (now : Time) (found : RefillRead) :
    Statement (.refillDone now found) :=
  ⟨fun t => .refillDone t found, ⟨now, rfl⟩, by rintro a b ⟨⟩; rfl, fun _ _ => rfl⟩

theorem tileStopped (now : Time) (tile : Fin 4160) :
    Statement (.tileStopped now tile) :=
  ⟨fun t => .tileStopped t tile, ⟨now, rfl⟩, by rintro a b ⟨⟩; rfl, fun _ _ => rfl⟩

theorem tileScrub (now : Time) (tile : Fin 4160) (word : Fin 4096) (finding : ScrubFinding) :
    Statement (.tileScrub now tile word finding) :=
  ⟨fun t => .tileScrub t tile word finding, ⟨now, rfl⟩, by rintro a b ⟨⟩; rfl, fun _ _ => rfl⟩

theorem hookArraySignal (now : Time) (index : Nat) (err : ScrubFinding) :
    Statement (.hookArraySignal now index err) :=
  ⟨fun t => .hookArraySignal t index err, ⟨now, rfl⟩, by rintro a b ⟨⟩; rfl, fun _ _ => rfl⟩

theorem hookArrayWait (now : Time) (index : Nat) :
    Statement (.hookArrayWait now index) :=
  ⟨fun t => .hookArrayWait t index, ⟨now, rfl⟩, by rintro a b ⟨⟩; rfl, fun _ _ => rfl⟩

theorem hookTry (now : Time) (index : Nat) :
    Statement (.hookTry now index) :=
  ⟨fun t => .hookTry t index, ⟨now, rfl⟩, by rintro a b ⟨⟩; rfl, fun _ _ => rfl⟩

theorem hookArrayReset (now : Time) (hook : Fin 16384) :
    Statement (.hookArrayReset now hook) :=
  ⟨fun t => .hookArrayReset t hook, ⟨now, rfl⟩, by rintro a b ⟨⟩; rfl, fun _ _ => rfl⟩

theorem waitRetry (now : Time) (hook : Fin 16384) (index : Nat) :
    Statement (.waitRetry now hook index) :=
  ⟨fun t => .waitRetry t hook index, ⟨now, rfl⟩, by rintro a b ⟨⟩; rfl, fun _ _ => rfl⟩

theorem governorInterval (now : Time) (r : GovernorReading) :
    Statement (.governorInterval now r) :=
  ⟨fun t => .governorInterval t r, ⟨now, rfl⟩, by rintro a b ⟨⟩; rfl, fun _ _ => rfl⟩

theorem trimUpdate (now : Time) (measured : Int) :
    Statement (.trimUpdate now measured) :=
  ⟨fun t => .trimUpdate t measured, ⟨now, rfl⟩, by rintro a b ⟨⟩; rfl, fun _ _ => rfl⟩

theorem junctionSensorRead (now : Time) (readings : List (BitVec 16)) :
    Statement (.junctionSensorRead now readings) :=
  ⟨fun t => .junctionSensorRead t readings, ⟨now, rfl⟩, by rintro a b ⟨⟩; rfl, fun _ _ => rfl⟩

theorem thermalHoldExpiry (now : Time) :
    Statement (.thermalHoldExpiry now) :=
  ⟨fun t => .thermalHoldExpiry t, ⟨now, rfl⟩, by rintro a b ⟨⟩; rfl, fun _ _ => rfl⟩

theorem thermalRecovery (now : Time) (die : Die) :
    Statement (.thermalRecovery now die) :=
  ⟨fun t => .thermalRecovery t die, ⟨now, rfl⟩, by rintro a b ⟨⟩; rfl, fun _ _ => rfl⟩

theorem powerOverrunPreempt (now : Time) :
    Statement (.powerOverrunPreempt now) :=
  ⟨fun t => .powerOverrunPreempt t, ⟨now, rfl⟩, by rintro a b ⟨⟩; rfl, fun _ _ => rfl⟩

theorem powerLimitEvent (now : Time) :
    Statement (.powerLimitEvent now) :=
  ⟨fun t => .powerLimitEvent t, ⟨now, rfl⟩, by rintro a b ⟨⟩; rfl, fun _ _ => rfl⟩

theorem droopDetect (now : Time) (die : Die) :
    Statement (.droopDetect now die) :=
  ⟨fun t => .droopDetect t die, ⟨now, rfl⟩, by rintro a b ⟨⟩; rfl, fun _ _ => rfl⟩

theorem domainIdleTimeout (now : Time) (dom : Fin 68) :
    Statement (.domainIdleTimeout now dom) :=
  ⟨fun t => .domainIdleTimeout t dom, ⟨now, rfl⟩, by rintro a b ⟨⟩; rfl, fun _ _ => rfl⟩

theorem domainOffDone (now : Time) (dom : Fin 68) :
    Statement (.domainOffDone now dom) :=
  ⟨fun t => .domainOffDone t dom, ⟨now, rfl⟩, by rintro a b ⟨⟩; rfl, fun _ _ => rfl⟩

theorem domainOnDone (now : Time) (dom : Fin 68) :
    Statement (.domainOnDone now dom) :=
  ⟨fun t => .domainOnDone t dom, ⟨now, rfl⟩, by rintro a b ⟨⟩; rfl, fun _ _ => rfl⟩

theorem patrolScrub (now : Time) (set : Fin 4) (found : List BeatError) (reread : List BeatError) :
    Statement (.patrolScrub now set found reread) :=
  ⟨fun t => .patrolScrub t set found reread, ⟨now, rfl⟩, by rintro a b ⟨⟩; rfl, fun _ _ => rfl⟩

theorem demandScrub (now : Time) (set : Fin 4) (found : List BeatError) (reread : List BeatError) :
    Statement (.demandScrub now set found reread) :=
  ⟨fun t => .demandScrub t set found reread, ⟨now, rfl⟩, by rintro a b ⟨⟩; rfl, fun _ _ => rfl⟩

theorem persistRecord (now : Time) :
    Statement (.persistRecord now) :=
  ⟨fun t => .persistRecord t, ⟨now, rfl⟩, by rintro a b ⟨⟩; rfl, fun _ _ => rfl⟩

theorem lockstepMismatch (now : Time) (bootOk : Bool) :
    Statement (.lockstepMismatch now bootOk) :=
  ⟨fun t => .lockstepMismatch t bootOk, ⟨now, rfl⟩, by rintro a b ⟨⟩; rfl, fun _ _ => rfl⟩

theorem lecternLinkFault (now : Time) :
    Statement (.lecternLinkFault now) :=
  ⟨fun t => .lecternLinkFault t, ⟨now, rfl⟩, by rintro a b ⟨⟩; rfl, fun _ _ => rfl⟩

theorem clockCheck (now : Time) (ppm : Int) :
    Statement (.clockCheck now ppm) :=
  ⟨fun t => .clockCheck t ppm, ⟨now, rfl⟩, by rintro a b ⟨⟩; rfl, fun _ _ => rfl⟩

theorem railOutOfRange (now : Time) :
    Statement (.railOutOfRange now) :=
  ⟨fun t => .railOutOfRange t, ⟨now, rfl⟩, by rintro a b ⟨⟩; rfl, fun _ _ => rfl⟩

theorem safePinReadback (now : Time) (levelA : Bool) (levelB : Bool) :
    Statement (.safePinReadback now levelA levelB) :=
  ⟨fun t => .safePinReadback t levelA levelB, ⟨now, rfl⟩, by rintro a b ⟨⟩; rfl, fun _ _ => rfl⟩

theorem lecternStoreScrub (now : Time) (finding : MirrorFinding) :
    Statement (.lecternStoreScrub now finding) :=
  ⟨fun t => .lecternStoreScrub t finding, ⟨now, rfl⟩, by rintro a b ⟨⟩; rfl, fun _ _ => rfl⟩

theorem watchdogKick (now : Time) (seq : BitVec 16) :
    Statement (.watchdogKick now seq) :=
  ⟨fun t => .watchdogKick t seq, ⟨now, rfl⟩, by rintro a b ⟨⟩; rfl, fun _ _ => rfl⟩

theorem watchdogExpiry (now : Time) :
    Statement (.watchdogExpiry now) :=
  ⟨fun t => .watchdogExpiry t, ⟨now, rfl⟩, by rintro a b ⟨⟩; rfl, fun _ _ => rfl⟩

theorem startToken (now : Time) :
    Statement (.startToken now) :=
  ⟨fun t => .startToken t, ⟨now, rfl⟩, by rintro a b ⟨⟩; rfl, fun _ _ => rfl⟩

theorem resultToken (now : Time) :
    Statement (.resultToken now) :=
  ⟨fun t => .resultToken t, ⟨now, rfl⟩, by rintro a b ⟨⟩; rfl, fun _ _ => rfl⟩

theorem checkPointExpiry (now : Time) (entry : MonKey) :
    Statement (.checkPointExpiry now entry) :=
  ⟨fun t => .checkPointExpiry t entry, ⟨now, rfl⟩, by rintro a b ⟨⟩; rfl, fun _ _ => rfl⟩

theorem notification (now : Time) :
    Statement (.notification now) :=
  ⟨fun t => .notification t, ⟨now, rfl⟩, by rintro a b ⟨⟩; rfl, fun _ _ => rfl⟩

theorem bucketLeak (now : Time) :
    Statement (.bucketLeak now) :=
  ⟨fun t => .bucketLeak t, ⟨now, rfl⟩, by rintro a b ⟨⟩; rfl, fun _ _ => rfl⟩

theorem selftestSchedule (now : Time) (unit : TestUnit) :
    Statement (.selftestSchedule now unit) :=
  ⟨fun t => .selftestSchedule t unit, ⟨now, rfl⟩, by rintro a b ⟨⟩; rfl, fun _ _ => rfl⟩

theorem sliceComplete (now : Time) (unit : TestUnit) (pass : Bool) :
    Statement (.sliceComplete now unit pass) :=
  ⟨fun t => .sliceComplete t unit pass, ⟨now, rfl⟩, by rintro a b ⟨⟩; rfl, fun _ _ => rfl⟩

theorem testOverdue (now : Time) (unit : TestUnit) :
    Statement (.testOverdue now unit) :=
  ⟨fun t => .testOverdue t unit, ⟨now, rfl⟩, by rintro a b ⟨⟩; rfl, fun _ _ => rfl⟩

theorem searchFails (now : Time) (job : BitVec 16) :
    Statement (.searchFails now job) :=
  ⟨fun t => .searchFails t job, ⟨now, rfl⟩, by rintro a b ⟨⟩; rfl, fun _ _ => rfl⟩

theorem saveBegin (now : Time) (job : BitVec 16) :
    Statement (.saveBegin now job) :=
  ⟨fun t => .saveBegin t job, ⟨now, rfl⟩, by rintro a b ⟨⟩; rfl, fun _ _ => rfl⟩

theorem outputPortFree (now : Time) (port : Fin 4) (portTime : Time) :
    Statement (.outputPortFree now port portTime) :=
  ⟨fun t => .outputPortFree t port portTime, ⟨now, rfl⟩, by rintro a b ⟨⟩; rfl, fun _ _ => rfl⟩

end Sys2Proof.Laws.Timed
end

