-- ==== Sys2Proof/Laws/Reads.lean ====
section
/-!
SUPPORT. What a read of main memory by the hub can do: the cache holds no data, and only a poisoned beat makes a read bad.
-/

namespace Sys2Proof.Machine

/-- The system cache holds no data: a touch leaves main memory as it is. -/
@[simp] theorem Device.cacheTouch_main (d : Device) (p a n pol : Nat) (write : Bool) :
    (d.cacheTouch p a n pol write).mem.main = d.mem.main := by
  unfold Device.cacheTouch
  split
  · rfl
  · refine (MemState.foldl_main (fun m i => ?_) _ _).1
    split
    · exact MemState.touch_main ..
    · exact ⟨rfl, rfl⟩

/-- No read meets an uncorrectable error while no beat of main memory is poisoned. -/
theorem Device.hubRead_clean (d : Device) (p a n : Nat) (h : d.mem.main.poison = []) : (d.hubRead p a n).2 = false := by
  unfold Device.hubRead
  split
  · rfl
  · simp only [Device.viewBad, Memory.isBad, cacheTouch_main, h]
    grind

end Sys2Proof.Machine
end

