-- ==== Sys2Proof/Tests/Slice0.lean ====
section
/-!
SUPPORT. Tests: the checks of WellFormed refuse what they should, a few commands on small states with results from the spec,
and for every statement with hypotheses a state and operands that meet them together.
-/

open Sys2Proof Sys2Proof.Machine

namespace Sys2Proof.Tests

set_option Elab.async false

/-! ### Small states -/

/-- The module after reset with the Bureau running, every domain on, an interface version negotiated and READY set. -/
def running : Device :=
  let d := Device.reset
  { d with
    pow := { d.pow with phase := .up, doms := List.replicate 68 (.on none) }
    bur := { d.bur with win := { d.bur.win with ready := true, negotiated := true, minorNeg := 0 } } }

/-- A state with nothing waiting. -/
def at_ (d : Device) : State := { pending := [], dev := d }

/-- The command area of a command (R703): its header and parameters. -/
def area (op params : Nat) : Bytes :=
  natLE (mkImage [(0, 4, 1), (8, 16, op), (64, 8, ((cmdSpec op).map (·.size)).getD 0)]) 16 ++ natLE params 240

/-- The command is the next one of the Bureau, in Drawer `n`. -/
def withCommand (d : Device) (n : Fin 64) (op params : Nat) : Device :=
  { d with bur := { d.bur with
      drawers := setAt d.bur.drawers n { Drawer.reset with state := .busy, copy := area op params, area := area op params }
      queue := [n] } }

/-- The next command is `op` with these parameters, in Drawer 0. -/
def cmd (d : Device) (op params : Nat) : State := at_ (withCommand d 0 op params)

/-- The conditions of `State.accepts` as one decidable formula. -/
theorem accepts_of {s : State} {now : Time} {n : Fin 64} {op : Nat}
    (h : s.dev.pow.phase = .up ∧ s.dev.bur.queue.head? = some n ∧ (s.dev.drawer n).state = .busy ∧ s.dev.cmdOpcode n = op
      ∧ ((advance now s.dev).taken n).checkCommand n = none
      ∧ ((advance now s.dev).taken n).heldBefore n s.dev.bur.holds = false) : s.accepts now n op :=
  ⟨⟨.inl h.1, h.2.1, h.2.2.1, h.2.2.2.1⟩, h.2.2.2.2⟩

/-- The device as the Bureau sees it when it has taken the command in Drawer 0. -/
abbrev seen (s : State) : Device := (advance 0 s.dev).taken 0

/-! ### Well-formedness: each check refuses a term that breaks it -/

/-- A long and a short packet of a data type. -/
def wfPkt (dt : BitVec 6) (len : Nat) : Pkt :=
  { port := 11, vc := 0, dt, ecc := .ok, crcOk := true, payload := List.replicate len 0, portTime := 0 }
def wfShort (dt : BitVec 6) : ShortPkt := { port := 11, vc := 0, dt, ecc := .ok, data := 0, portTime := 0 }

theorem test_wf_window : (Instr.hostWindowWrite 0 ⟨[1], .none⟩).wf = false ∧ (Instr.hostWindowWrite 0 ⟨[], .none⟩).wf = false
    ∧ (Instr.hostWindowWrite 0 ⟨[1, 2], .none⟩).wf = true ∧ (Instr.hostWindowWrite 0 ⟨[], (.fresh 8)⟩).wf = true := by decide +kernel

/-- A store address past the 128 KiB of a tile (R103). -/
theorem test_wf_store : (Instr.loadW 0 0 { corrected := 0, bad := [131072] }).wf = false
    ∧ (Instr.loadW 0 0 { corrected := 0, bad := [131071] }).wf = true := by decide +kernel

theorem test_wf_payload : (Instr.bulkPacket 0 (wfPkt 0x31 65536)).wf = false ∧ (Instr.bulkPacket 0 (wfPkt 0x31 65535)).wf = true := by
  decide +kernel

theorem test_wf_shortTypes : (Instr.frameStart 0 (wfShort 0x10)).wf = false ∧ (Instr.frameStart 0 (wfShort 0x01)).wf = false
    ∧ (Instr.frameStart 0 (wfShort 0x00)).wf = true
    ∧ (Instr.frameEnd 0 (wfShort 0x00)).wf = false ∧ (Instr.lineShortPacket 0 (wfShort 0x04)).wf = false
    ∧ (Instr.lineShortPacket 0 (wfShort 0x03)).wf = true
    ∧ (Instr.genericShortPacket 0 (wfShort 0x07)).wf = false ∧ (Instr.genericShortPacket 0 (wfShort 0x08)).wf = true := by
  decide +kernel

theorem test_wf_longTypes : (Instr.imageLinePacket 0 (wfPkt 0x29 1)).wf = false ∧ (Instr.imageLinePacket 0 (wfPkt 0x2A 1)).wf = true
    ∧ (Instr.embeddedDataPacket 0 (wfPkt 0x13 1)).wf = false ∧ (Instr.jpegPacket 0 (wfPkt 0x35 1)).wf = false
    ∧ (Instr.pointPacket 0 (wfPkt 0x36 1)).wf = false ∧ (Instr.feedbackPacket 0 (wfPkt 0x33 1)).wf = false
    ∧ (Instr.inertialPacket 0 (wfPkt 0x33 1)).wf = false ∧ (Instr.bodyLinkPacket 0 (wfPkt 0x34 1)).wf = false := by decide +kernel

theorem test_wf_time : (Instr.correspondenceSample 0 [(0x00, 0)]).wf = false ∧ (Instr.correspondenceSample 0 [(0x23, 0)]).wf = true
    ∧ (Instr.correspondenceSample 0 [(0x1C, 0)]).wf = false ∧ (Instr.inputSkewCalibration 0 0 3 true).wf = false := by decide +kernel

theorem test_wf_bridge : (Instr.bridgePrivateWrite 0 0 0x7E [1]).wf = false ∧ (Instr.bridgePrivateWrite 0 0 0x10 []).wf = false
    ∧ (Instr.bridgePrivateWrite 0 0 0x10 (List.replicate 256 0)).wf = false ∧ (Instr.bridgePrivateWrite 0 0 0x7D [1]).wf = true
    ∧ (Instr.bridgeBroadcastCcc 0 0 []).wf = false ∧ (Instr.bridgePrivateRead 0 0 0x7E 1).wf = false
    ∧ (Instr.bridgePrivateRead 0 0 0x10 0).wf = false ∧ (Instr.bridgeSetMode 0 0 4).wf = false := by decide +kernel

theorem test_wf_operands : (Instr.candidateComplete 0 1 { spans := [], checks := 0, corrected := 0, bad := [] }).wf = false
    ∧ (Instr.junctionSensorRead 0 (List.replicate 143 0)).wf = false
    ∧ (Instr.junctionSensorRead 0 (List.replicate 144 0)).wf = true := by decide +kernel

/-- The table gives no row any bits. -/
theorem test_decode_none : decodeTableWord 16 0x1234 = none := rfl
/-! ### Hypotheses of the statements about the machine and the Drawers -/

/-- A device with every cause of the safe state cleared and the safe state left. -/
def released : Device :=
  { running with lect := { running.lect with safe := false, pinA := true, pinB := true, causes := 0 } }

theorem test_hyp_stepKeeps : running.pinsSafe ∧ running.causesHeld ∧ released.pinsSafe ∧ released.causesHeld
    ∧ running.eventsBounded ∧ running.logBounded ∧ running.mem.main.wf = true ∧ running.shaped ∧ ¬ running.revoked 3
    ∧ ({ running with bur := { running.bur with nv := { running.bur.nv with revoked := [0, 0, 0, 1] } } } : Device).revoked 3 := by
  refine ⟨?_, ?_, ?_, ?_, ?_, ?_, ?_, ?_, ?_, ?_⟩
  · exact fun _ => ⟨rfl, rfl⟩
  · exact fun h => nomatch h
  · exact fun h => nomatch h
  · exact fun _ => rfl
  all_goals first | (unfold Device.eventsBounded; decide +kernel) | (unfold Device.logBounded; decide +kernel)
                  | decide +kernel | (unfold Device.shaped; decide +kernel) | (unfold Device.revoked; decide +kernel)

/-- A SAFE_RELEASE is next while the safe state is held with nothing to block it. -/
def releasable : Device := { running with lect := { running.lect with causes := 0 } }

/-- The device after a command, or the reset device where it stops. -/
def after (o : Host.Outcome State Fault Refusal) : Device :=
  match o with
  | .next t => t.dev
  | _ => Device.reset

theorem test_hyp_safeStateLeft : releasable.lect.safe = true
    ∧ (let s := cmd releasable 0x0605 0
       (after (step { s with pending := [.safeRelease 0 0 none] })).lect.safe = false) := by decide +kernel

theorem test_hyp_withoutPower : Device.reset.pow.phase = .off := rfl

theorem test_hyp_failedCheck :
    (cmd running 0x0104 1).rowOf (.planList 0 0) = some (0, 0, 0x0104)
      ∧ (cmd running 0x0202 (2 ^ 16)).rowOf (.jobStop 0 0) = some (0, 0, 0x0202)
      ∧ (cmd running 0x0202 (2 ^ 16)).isNext 0 0x0202
      ∧ (seen (cmd running 0x0202 (2 ^ 16))).checkCommand 0 = some stReserved ∧ ¬ (at_ running).isNext 0 0x0104 := by
  refine ⟨rfl, rfl, ⟨.inl rfl, ?_⟩, ?_, fun h => ?_⟩
  · decide +kernel
  · decide +kernel
  · exact absurd h.2.1 (by decide)

/-- An OUTPUTS enable waits in Drawer 1; the next command is another in Drawer 0. -/
def heldOne : Device :=
  let d := withCommand running 0 0x0106 1
  { d with bur := { d.bur with
      drawers := setAt d.bur.drawers 1 { Drawer.reset with state := .held, copy := area 0x0106 0, heldAt := some 0 }, holds := [1] } }

theorem test_hyp_laterCommandIsHeld : (at_ heldOne).rowOf (.outputsEnable 0 0) = some (0, 0, 0x0106)
    ∧ (at_ heldOne).isNext 0 0x0106 ∧ (seen (at_ heldOne)).checkCommand 0 = none
    ∧ (seen (at_ heldOne)).heldBefore 0 heldOne.bur.holds = true := by
  refine ⟨?_, ⟨.inl rfl, ?_⟩, ?_, ?_⟩ <;> decide +kernel

theorem test_hyp_reply : running.bur.drawers.length = 64 := by decide +kernel

/-! ### Hooks, events and memory -/

theorem test_hyp_signal :
    (({ count := 1, waiters := [⟨.bureau, 2⟩, ⟨.job 1, 1⟩], retry := [], granted := [] } : Hook).signal 1)
      = some ({ count := 0, waiters := [⟨.job 1, 1⟩], retry := [], granted := [] }, [⟨.bureau, 2⟩])
    ∧ ((Hook.fresh).signal 16777215).isSome = true ∧ ((Hook.fresh).signal 16777216) = none := by decide +kernel

/-- A period that runs. -/
def onePeriod : Period :=
  { s := 0, seq := 0, variant := 0, epoch := 0, left := [], cause := none, nonfinite := false, preempted := false,
    energyNj := 0, adapterGen := 0, removed := 0, done := none }

/-- A started job of Plan 1. -/
def started : JobRun := { JobRun.fresh 1 with started := true }

/-- Job 7 runs a period, tile 5 works for it and Hook 9, which it may signal, is full. -/
def full : Device :=
  let d := (running.setRun 7 { started with phase := .running, period := some onePeriod }).setHook 9
    { Hook.fresh with count := 16777215 }
  let x := d.tile 5
  let d := d.setTile 5 { x with t := { x.t with phase := .running, job := some 7 } }
  { d with hooks := { d.hooks with alloc := d.hooks.alloc.put 9 { plan := 1, job := some 7, init := 0 } } }

theorem test_hyp_signalOverflow : 16777215 < (full.hook 9).count + 1 ∧ full.hookAllowed (.job 7) 9 = true
    ∧ full.requesterJob (.job 7) = some 7 ∧ full.hookAllowed (.tile 5) 9 = true ∧ full.requesterJob (.tile 5) = some 7
    ∧ full.run 7 = some { started with phase := .running, period := some onePeriod } := by decide +kernel

/-- A partition record: partition 0, no groups but the first, memory set 0, 1 GiB. -/
def partRecord : Nat := mkImage [(0, 4, 1), (24, 4, 1), (64, 8, 1)]

/-- Partition 0 has a view of 1 GiB in memory set 0. -/
def viewed : Device :=
  let d := running
  let d := { d with jobs := { d.jobs with parts := setAt d.jobs.parts 0 { Partition.reset with record := some partRecord } } }
  { d with mem := { d.mem with regions := [(0, 0, 0, 2 ^ 30)] } }

theorem test_hyp_viewWrites : viewed.mem.main.wf = true ∧ viewed.viewPhys 0 0 = some 0
    ∧ viewed.viewPhys 0 (2 ^ 30 - 1) = some (2 ^ 30 - 1) ∧ viewed.viewPhys 0 (2 ^ 30) = none := by decide +kernel

/-- 256 events are queued. -/
def flooded : Device := { running with bur := { running.bur with win := { running.bur.win with
  events := List.replicate 256 { seq := 1, status := 0, kind := 0, severity := 0, source := 0, time := 0, detail := 0 } } } }

theorem test_hyp_events : running.bur.win.events.length < 256 ∧ 256 ≤ flooded.bur.win.events.length := by decide +kernel

/-! ### Signed images: the key is the prime 2^3071 + 2291, for which a signature is a root that anyone can take -/

def testModulus : Bytes := natBE (2 ^ 3071 + 2291) 384

/-- A firmware image with empty Lectern and Bureau parts, signed under R754. -/
def testImage : Bytes :=
  natLE (mkImage [(0, 32, 0x46395847), (32, 4, 1), (128, 64, 2048), (192, 32, 2048), (256, 32, 2048),
    (320, 256, leNat (sha256 [])), (576, 256, leNat (sha256 []))]) 128 ++ testModulus ++ List.replicate 1152 0 ++ natBE
    0x31f648e9addd9f6f752fd18044f5f5182eff0671b91d67ac2a29d7eb89a84c46090fb15c78060601cb6fc5a41f659943dd08da702bc8921e5c5772b2f1872d76e8425b0bbc724ab31e9be141c93177d05c2b2eb45ea732a1b05003e4f1b23339451c010404f76869c9a06039c3c2fed3b5904c390b870b0a46f903b174e83683daa0ce27f8f82a7786b583879e1a1a0a3cf397f4332b71f687e11e5657b3ef67b44682169612a587d127f3305e85a767b96f38d5b8b4dd053c4e3755243564ec95e5114d24b3aa5db6ae4ed86002014b20a69005c80686f2f9c69e5104356b4a7cc9d258d8e16b6bfd7b61109318abce9181de718b6670945d3028ecca4b323a9406d46cfd9796fcc447a4bf4a4241c8e3c1043cdd4cef57a4c65fff05c1b871800b1d24dbdfadd51fd16b490e3057b7f7834df0a8478469809692b5c045a9ee63d7bc381ac7c735a08abf159d6dd6bd0a485cfafcffba8ceb1fabe45a77a477f35f6c969ba01b7cf13c58b39067ce3311fbe15b9ed1b0c207d3ee04dc3948
    384

/-- A Plan with one partition record and no jobs, signed under R754. -/
def testPlan : Bytes :=
  natLE (mkImage [(0, 32, 0x50395847), (32, 4, 1), (40, 8, 1), (48, 16, 2), (128, 64, 512)]) 64
    ++ natLE (mkImage [(0, 16, 1), (16, 4, 1), (32, 32, 96), (64, 32, 32), (96, 32, 1)]) 16
    ++ natLE (mkImage [(0, 16, 2), (16, 4, 1), (32, 32, 128)]) 16 ++ natLE partRecord 32 ++ natBE
    0x735ce37ab8ea5d64c2f4568ba92e94110d815e08385c08bc7034d3edd52eecd4eb397e529db1236fbb0b04ef6c933a0971fda6c359897373a0664186cd65bb1de5c9c8421bcc79b3bd053eba842e8cb51751e0818aab88e0ff42275557fb446fcc00cae8b87a669efea45b49a6e7bf4e5d3a243f717a47e4937e58ca39eef4c51b2be6b29f6d50fc08755fad9f6e17362bb74a8a75de59ba0c8b60f2d3cf92eb2459c8be2d3c17198decc053eb738e2a4bcff4afc087e4cf427e4a1d1783f923caab81287e459eb4eff891d7330dc65b22d6e78cfcecc5ffef2ef79edd711f6ff6634eb96898399bc6b000efe6f393ca83c82716d454b53045034d9ba1e362852bfaec6ed30bcde1e169cae2993ce6e840e60a10edbc8d2d13f7f9714c176a01717c7821de3209035686035072c3694a982c7c97410fdfc74ae392d700e5a22d342470d38732c204040fbdb570472bc23cb00c3f517b2a54765495da6dbf8b6db48cf0d5c93b87ba049e253a5bbfff66464f59151b9fa4d01db8fc5781f0d7ab
    384

/-- A store whose key slot 0 holds the test key and whose bank A holds the test image. -/
def testStore : NonVolatile :=
  { NonVolatile.factory with fwA := testImage, fwB := [], keyHash := [sha256 testModulus, [], [], []]
                             plans := [{ storeId := 5, bytes := testPlan }] }

/-- No fault is found at the start-up checks. -/
def clean : BootFindings :=
  { lecternOk := true, bankFails := 0, calFitOk := true, readings := List.replicate 144 0, reference := 0, setFail := 0, checkerOk := true,
    lbistFail := [], engineFail := [] }

theorem test_firmwareSignature : testStore.fwCheck testImage = none := by decide +kernel

/-! ### Power, reset and start-up -/

theorem test_hyp_startUp : Device.reset.pow.phase = .off ∧ Device.reset.pinsSafe ∧ Device.reset.lect.safe = true
    ∧ ({ NonVolatile.factory with fwA := [], fwB := [] } : NonVolatile).startBank clean = none
    ∧ testStore.startBank clean = some false := by
  refine ⟨rfl, fun _ => ⟨rfl, rfl⟩, rfl, ?_, ?_⟩
  · decide +kernel
  · have h : testStore.fwCheck (testStore.bank false) = none := test_firmwareSignature
    have m : testStore.marked = false := rfl
    simp [NonVolatile.startBank, h, m, clean]

/-- The module is in recovery with the test key, and has received these bytes of an image. -/
def inRecovery (got : Bytes) : Device :=
  let d := Device.reset
  { d with pow := { d.pow with phase := .recovery }, bur := { d.bur with nv := testStore, recovery := got } }

/-- A recovery packet: tag 0xFFF, KIND 0x50, SEQ 0, the offset and the bytes. -/
def recoveryPkt (isPart off : Nat) (bs : Bytes) : Pkt :=
  { port := 0, vc := 0, dt := 0x37, ecc := .ok, crcOk := true, portTime := 0,
    payload := natLE (mkImage [(0, 12, 0xFFF), (16, 8, 0x50), (26, 1, isPart)]) 16 ++ natLE off 16 ++ bs }

/-- What the four clauses ask of a packet's header. -/
def recoveryHead (p : Pkt) : Bool :=
  p.port.val = 0 ∧ p.vc = 0 ∧ p.dt = 0x37 ∧ p.ecc ≠ .bad ∧ p.crcOk = true ∧ 16 ≤ p.payload.length
    ∧ StrHdr.tag (imageAt p.payload 0 16) = 0xFFF ∧ StrHdr.kind (imageAt p.payload 0 16) = 0x50
    ∧ StrHdr.seq (imageAt p.payload 0 16) = 0 ∧ rsvdZero (imageAt p.payload 0 16) StrHdr.rsvd = true
    ∧ fld (imageAt p.payload 16 16) 127 48 = 0 ∧ p.payload.drop 32 ≠ []

theorem test_hyp_recoveryPacket : (inRecovery []).pow.phase = .recovery
    ∧ (let p := recoveryPkt 1 0 (testImage.take 1024)
       recoveryHead p ∧ StrHdr.isPartial (imageAt p.payload 0 16) = true ∧ fld (imageAt p.payload 16 16) 47 0 = 0
         ∧ (p.payload.drop 32).length < FwHdr.totalLen (imageAt (p.payload.drop 32) 0 128))
    ∧ (let p := recoveryPkt 1 7 [1]
       recoveryHead p ∧ fld (imageAt p.payload 16 16) 47 0 ≠ 0)
    ∧ (let p := recoveryPkt 0 1024 (testImage.drop 1024)
       let got := (inRecovery (testImage.take 1024)).bur.recovery ++ p.payload.drop 32
       recoveryHead p ∧ StrHdr.isPartial (imageAt p.payload 0 16) = false ∧ fld (imageAt p.payload 16 16) 47 0 = 1024
         ∧ 24 ≤ got.length ∧ got.length = FwHdr.totalLen (imageAt got 0 128)) := by decide +kernel

theorem test_hyp_recoveryWhole : (inRecovery (testImage.take 1024)).bur.nv.fwCheck
    ((inRecovery (testImage.take 1024)).bur.recovery ++ (recoveryPkt 0 1024 (testImage.drop 1024)).payload.drop 32) = none := by
  have h : (inRecovery (testImage.take 1024)).bur.recovery ++ (recoveryPkt 0 1024 (testImage.drop 1024)).payload.drop 32
      = testImage := by decide +kernel
  rw [h]
  exact test_firmwareSignature

/-- The module with every domain off. -/
def allOffDevice : Device := { running with pow := { running.pow with doms := List.replicate 68 .off } }

/-- A STANDBY entry is in progress in Drawer 0. -/
def enteringDevice : Device :=
  let d := withCommand running 0 0x0706 1
  d.setDrawer 0 { d.drawer 0 with going := true }

/-- The module stands by. -/
def standing : Device :=
  { running with pow := { running.pow with phase := .standby }
                 bur := { running.bur with win := { running.bur.win with standby := true } } }

theorem test_hyp_supplyAndStandby : running.pow.phase ≠ .off ∧ (at_ running).isAwake ∧ running.pow.phase ≠ .shut
    ∧ (cmd running 0x0706 1).accepts 0 0 0x0706 ∧ bitAt (imageAt ((cmd running 0x0706 1).dev.drawer 0).copy 16 8) 0 = true
    ∧ (cmd running 0x0706 1).isUp ∧ standing.pow.phase = .standby ∧ enteringDevice.enteringStandby.isSome = true
    ∧ allOffDevice.allOff = true
    ∧ bitAt (imageAt ((cmd standing 0x0706 0).dev.drawer 0).copy 16 8) 0 = false := by
  refine ⟨by decide, .inl rfl, by decide, accepts_of ?_, ?_, rfl, rfl, ?_, ?_, ?_⟩ <;> decide +kernel

theorem test_hyp_standbyLeave : (cmd standing 0x0706 0).accepts 0 0 0x0706 := by
  refine ⟨⟨.inr (.inl rfl), ?_, ?_, ?_⟩, ?_, ?_⟩ <;> decide +kernel

/-! ### The host window -/

/-- Drawer 63 is DONE with a HELLO in its command area; Drawer 0 is HELD. -/
def doorbells : Device :=
  let l := setAt running.bur.drawers 63 { Drawer.reset with state := .done, area := area 1 1 }
  { running with bur := { running.bur with drawers := setAt l 0 { Drawer.reset with state := .held } } }

theorem test_hyp_hostWindowWrite : (at_ doorbells).isAwake ∧ 258 < (List.replicate 259 (0 : Byte)).length
    ∧ (doorbells.drawer 63).state = .done ∧ (cmdSpec (CmdHdr.opcode (imageAt (doorbells.drawer 63).area 0 16))).isSome = true
    ∧ doorbells.bur.drawers.length = 64 ∧ (doorbells.drawer 0).state = .held := by
  refine ⟨.inl rfl, ?_⟩
  · decide +kernel

/-- Two events are queued, with numbers 1 and 2, and the IBIs of Drawers 3 and 4 are pending, raised at time 0. -/
def twoEvents : Device :=
  let e : Event := { seq := 1, status := stOk, kind := 0, severity := 0, source := 0, time := 0, detail := 0 }
  { running with bur := { running.bur with win := { running.bur.win with
      events := [e, { e with seq := 2 }], ibi := [3, 4], ibiRetryAt := some 60000 } } }

theorem test_hyp_eventPop : (at_ twoEvents).isAwake ∧ twoEvents.bur.win.events.map (·.seq) = [1, 2]
    ∧ (after (exec (.eventPop 0 1) (at_ twoEvents))).bur.win.events.map (·.seq) = [2]
    ∧ (after (exec (.eventPop 0 2) (at_ twoEvents))).bur.win.hostErrCount = 1 := by
  refine ⟨.inl rfl, ?_⟩
  · decide +kernel

/-- A command is held in Drawer 2 since time 0. -/
def heldTwo : Device :=
  { running with bur := { running.bur with
      drawers := setAt running.bur.drawers 2 { Drawer.reset with state := .held, copy := area 0x0106 1, heldAt := some 0 }
      holds := [2] } }

theorem test_hyp_ibiAndHold : twoEvents.bur.win.ibiEnabled = true ∧ twoEvents.bur.win.ibi ≠ []
    ∧ twoEvents.bur.win.ibiRetryAt = some 60000 ∧ reached (advance 60000 twoEvents).hub 60000 = true
    ∧ (heldTwo.drawer 2).state = .held ∧ heldTwo.heldBefore 2 (heldTwo.bur.holds.takeWhile (· != 2)) = false
    ∧ (let e := heldTwo.setDrawer 2 { heldTwo.drawer 2 with state := .busy, heldUs := 0, heldAt := none }
       ((({ e with bur := { e.bur with holds := [] } } : Device).resumeCommand 2).drawer 2).state = .done) := by
  decide +kernel

theorem test_hyp_hello : (cmd running 0x0001 0xFF0001).accepts 0 0 0x0001 ∧ (cmd running 0x0001 0xFF0001).dev.othersBusy 0 = false
    ∧ fld ((seen (cmd running 0x0001 0xFF0001)).params 0) 7 0 = 1
    ∧ max (fld ((seen (cmd running 0x0001 0xFF0001)).params 0) 15 8) Config.fwMinorMin.toNat
        ≤ min (fld ((seen (cmd running 0x0001 0xFF0001)).params 0) 23 16) Config.fwMinorMax.toNat := by
  have h : fld ((seen (cmd running 0x0001 0xFF0001)).params 0) 15 8 = 0
      ∧ fld ((seen (cmd running 0x0001 0xFF0001)).params 0) 23 16 = 255 := by decide +kernel
  refine ⟨accepts_of ?_, ?_, ?_, ?_⟩
  · decide +kernel
  · decide +kernel
  · decide +kernel
  · rw [h.1, h.2]
    have := Config.fwMinorMin.isLt
    have := Config.fwMinorTop.isLt
    unfold Config.fwMinorMax
    split <;> omega

theorem test_hyp_readMore : (cmd running 0x0002 65535).accepts 0 0 0x0002 := accepts_of (by decide +kernel)

/-! ### Plans and partitions -/

/-- The records of a section, each from a multiple of 32 on (R735). -/
def padded (rs : List Bytes) : Bytes := rs.flatMap fun r => r ++ List.replicate (roundUp r.length 32 - r.length) 0

/-- An unsigned Plan for partition 0 with these sections: type and records. -/
def planOf (secs : List (Nat × List Bytes)) : Bytes :=
  let top := roundUp (64 + 16 * secs.length) 32
  let t := secs.foldl (fun (a : Bytes × Bytes) s =>
    (a.1 ++ natLE (mkImage [(0, 16, s.1), (16, 4, 1), (32, 32, top + a.2.length), (64, 32, (padded s.2).length),
      (96, 32, s.2.length)]) 16, a.2 ++ padded s.2)) ([], [])
  let head := natLE (mkImage [(0, 32, 0x50395847), (32, 4, 1), (40, 8, 1), (48, 16, secs.length),
    (128, 64, top + t.2.length + 384)]) 64 ++ t.1
  padded [head] ++ t.2 ++ List.replicate 384 0

/-- A job record of partition 0 with one variant. -/
def jobRec (id cls engine trigger : Nat) (more : List (Nat × Nat × Nat)) : Bytes :=
  natLE (mkImage ([(0, 4, 1), (4, 2, cls), (6, 3, engine), (12, 2, trigger), (19, 3, 1), (32, 16, id)] ++ more)) 96

/-- Plan 1 with these jobs and sections is loaded and active in partition 0, whose view is 1 GiB of memory set 0. -/
def planned (jobs : List Bytes) (secs : List (Nat × List Bytes)) : Device :=
  let d := viewed
  { d with jobs := { d.jobs with
      plans := [{ handle := 1, bytes := planOf ((1, [natLE partRecord 32]) :: (2, jobs) :: secs), digest := [], keySlot := 0,
                  storeId := none }]
      parts := setAt d.jobs.parts 0 { Partition.reset with record := some partRecord, active := some 1 } } }

/-- The same Plan, loaded only. -/
def loaded (jobs : List Bytes) (secs : List (Nat × List Bytes)) : Device :=
  let d := planned jobs secs
  { d with jobs := { d.jobs with parts := List.replicate 8 Partition.reset } }

/-- A BULK_REF for port 11, tag 4095 and a length. -/
def bulkRef (len : Nat) : Nat := mkImage [(0, 4, 11), (16, 16, 4095), (64, 48, len)]

/-- The module runs with the test store. -/
def stored : Device := { running with bur := { running.bur with nv := testStore, fwImage := testImage } }

theorem test_planSignature : (seen (cmd stored 0x0101 (2 + 5 * 2 ^ 32))).planCheck testPlan testPlan.length = none := by
  decide +kernel

theorem test_hyp_planLoad :
    (let s := cmd running 0x0101 (bulkRef (2 ^ 30) * 2 ^ 128)
     s.accepts 0 0 0x0101 ∧ (seen s).jobs.plans.length < 16 ∧ s.dev.bur.drawers.length = 64
       ∧ bitAt ((seen s).params 0) 1 = false ∧ (seen s).bulkFits (fld ((seen s).params 0) 383 128) (2 ^ 30))
    ∧ (let s := cmd stored 0x0101 (2 + 5 * 2 ^ 32)
       s.accepts 0 0 0x0101 ∧ bitAt ((seen s).params 0) 1 = true ∧ bitAt ((seen s).params 0) 0 = false
         ∧ (seen s).bur.nv.plans.find? (fun x => x.storeId == BitVec.ofNat 32 (fld ((seen s).params 0) 63 32))
           = some { storeId := 5, bytes := testPlan }) := by
  refine ⟨⟨accepts_of ?_, ?_, ?_, ?_, ?_⟩, accepts_of ?_, ?_, ?_, ?_⟩
  all_goals first | decide +kernel | (unfold Device.bulkFits; decide +kernel)

theorem test_hyp_planUnload : (cmd (loaded [] []) 0x0103 1).accepts 0 0 0x0103
    ∧ ((seen (cmd (loaded [] []) 0x0103 1)).plan 1).isSome = true ∧ (seen (cmd (loaded [] []) 0x0103 1)).planInUse 1 = false
    ∧ (cmd running 0x0104 0).accepts 0 0 0x0104 := by
  refine ⟨accepts_of ?_, ?_, ?_, accepts_of ?_⟩ <;> decide +kernel

theorem test_hyp_planActivate :
    (let s := cmd (loaded [] []) 0x0102 (1 + 2 ^ 16)
     s.accepts 0 0 0x0102 ∧ ((seen s).plan 1).isSome = true
       ∧ ((List.range 8).filter fun i => bitAt (fld ((seen s).params 0) 23 16) i) = [0]
       ∧ PlanHdr.partMask (planHdr (planOf [(1, [natLE partRecord 32]), (2, [])])) = 1 ∧ (seen s).changing 0 = false
       ∧ (seen s).activationFault [0] 1 = none) := by
  refine ⟨accepts_of ?_, ?_⟩ <;> decide +kernel

/-- Partition 0 is at its boundary. -/
def atBoundary (d : Device) (k : BoundaryKind) : Device :=
  d.setPart 0 { d.part 0 with boundary := some { kind := k, since := 0 } }

theorem test_hyp_partitionQuiesced :
    (let d := atBoundary (loaded [] []) (.activate 0 1)
     (at_ d).isUp ∧ (d.part 0).boundary = some { kind := .activate 0 1, since := 0 } ∧ d.sameBoundary (.activate 0 1) = [0]
       ∧ d.quiet 0 = true ∧ d.slotsQuiet (d.withPlan [0] 1) 0 = true)
    ∧ (let d := atBoundary (planned [] []) .repair
       (d.part 0).boundary = some { kind := .repair, since := 0 } ∧ d.quiet 0 = true) := by
  refine ⟨⟨rfl, ?_⟩, ?_⟩ <;> decide +kernel

theorem test_hyp_partitionSet :
    (let s := cmd running 0x0105 partRecord
     s.accepts 0 0 0x0105 ∧ partOk (seen s) ((seen s).params 0 % 2 ^ 256) = true ∧ partsApart [(seen s).params 0 % 2 ^ 256] = true
       ∧ ((List.range 8).filterMap fun i => if i ≠ 0 ∧ ((seen s).part i).active.isSome then ((seen s).part i).record else none) = []
       ∧ PartRec.part ((seen s).params 0 % 2 ^ 256) = 0 ∧ (seen s).changing 0 = false ∧ ((seen s).part 0).active = none) := by
  refine ⟨accepts_of ?_, ?_⟩ <;> decide +kernel

theorem test_hyp_outputs :
    (let s := cmd running 0x0106 1
     s.accepts 0 0 0x0106 ∧ bitAt (imageAt (s.dev.drawer 0).copy 16 8) 0 = true ∧ bitAt ((seen s).params 0) 0 = true
       ∧ s.dev.bur.win.planFault = false ∧ s.dev.bur.win.sigFault = false ∧ s.dev.bur.win.checkerFault = false
       ∧ s.dev.bur.win.lecternFault = false ∧ (seen s).inProgress 0 [0x0101, 0x0102, 0x0105] = false
       ∧ (seen s).ceStopping = false)
    ∧ (let s := cmd running 0x0106 0
       s.accepts 0 0 0x0106 ∧ bitAt (imageAt (s.dev.drawer 0).copy 16 8) 0 = false ∧ bitAt ((seen s).params 0) 0 = false) := by
  refine ⟨⟨accepts_of ?_, ?_⟩, accepts_of ?_, ?_⟩ <;> decide +kernel

/-- Job 7, a Finisher job, and job 9, a job of the Control Engine. -/
def twoJobs : Device := planned [jobRec 7 1 1 0 [], jobRec 9 0 5 0 []] []

theorem test_hyp_jobStart :
    (let s := cmd twoJobs 0x0201 7
     s.accepts 0 0 0x0201 ∧ ((seen s).job 7).map (·.engine) = some 1 ∧ (seen s).enteringStandby = none ∧ (seen s).run 7 = none)
    ∧ (let s := cmd (twoJobs.setRun 7 started) 0x0201 7
       s.accepts 0 0 0x0201 ∧ (seen s).enteringStandby = none ∧ (seen s).run 7 = some started ∧ started.stopping = false
         ∧ started.barred = false)
    ∧ (let s := cmd { twoJobs with bur := { twoJobs.bur with win := { twoJobs.bur.win with outputsEnabled := true } } } 0x0201 9
       s.accepts 0 0 0x0201 ∧ ((seen s).job 9).map (·.engine) = some 5 ∧ s.dev.bur.win.outputsEnabled = true
         ∧ (seen s).run 9 = none) := by
  refine ⟨⟨accepts_of ?_, ?_⟩, ⟨accepts_of ?_, ?_⟩, accepts_of ?_, ?_⟩ <;> decide +kernel

theorem test_hyp_jobStop :
    (let s := cmd twoJobs 0x0202 7
     s.accepts 0 0 0x0202 ∧ ((seen s).job 7).isSome = true ∧ (seen s).run 7 = none)
    ∧ (let s := cmd (twoJobs.setRun 7 started) 0x0202 7
       s.accepts 0 0 0x0202 ∧ ((seen s).job 7).isSome = true ∧ (seen s).run 7 = some started) := by
  refine ⟨⟨accepts_of ?_, ?_⟩, accepts_of ?_, ?_⟩ <;> decide +kernel

theorem test_hyp_modeChange :
    (let s := cmd twoJobs 0x0203 (1 + 65535 * 2 ^ 16)
     s.accepts 0 0 0x0203 ∧ ((List.range 8).filter fun i => bitAt (fld ((seen s).params 0) 7 0) i) = [0]
       ∧ ((seen s).part 0).record.isSome = true ∧ ((seen s).part 0).epoch ≠ BitVec.ofNat 16 (fld ((seen s).params 0) 31 16)
       ∧ ((seen s).part 0).mode = none) := by
  refine ⟨accepts_of ?_, ?_⟩ <;> decide +kernel

/-! ### Streams, KV streams and state slots -/

/-- A stream descriptor of 16 × 2 samples for port 11, VC 15 and a tag, whose destination is record 0. -/
def streamDesc (dec dt tag : Nat) : Nat :=
  mkImage [(0, 4, 1), (8, 4, 11), (16, 5, 15), (24, 6, dt), (32, 16, tag), (48, 4, dec), (58, 4, 1), (64, 16, 16), (80, 16, 2),
    (128, 32, 4096), (160, 32, 1000), (200, 4, 9), (224, 16, 16), (240, 16, 2), (288, 16, 1), (304, 16, 1)]

/-- An ingest destination record of job 7 with 4 slots and the Hooks 10 and 11. -/
def destRec : Bytes :=
  natLE (mkImage [(0, 4, 1), (4, 2, 1), (8, 8, 4), (16, 16, 7), (32, 16, 10), (48, 16, 11), (64, 32, 4096), (128, 48, 65536),
    (176, 32, 4096), (208, 48, 131072)]) 64

/-- A Plan with a perception job 7 and a destination record. -/
def ingesting : Device := planned [jobRec 7 2 1 0 []] [(8, [destRec])]

/-- The device with a stream. -/
def withStream (d : Device) (tag : Nat) (x : Stream) : Device :=
  { d with ing := { d.ing with streams := d.ing.streams.put tag x } }

/-- A stream with this descriptor in force. -/
def boundStream (desc : Nat) : Stream := { Stream.fresh with desc := some desc }

theorem test_hyp_bindFeedback :
    (let s := cmd running 0x0301 (mkImage [(0, 4, 1), (8, 4, 11), (16, 5, 15), (24, 6, 0x33), (32, 16, 4095)])
     let x := (seen s).params 0 % 2 ^ 640
     s.accepts 0 0 0x0301 ∧ StreamDesc.dt x = 0x33 ∧ x / 2 ^ 4 % 2 ^ 4 + x / 2 ^ 48 = 0 ∧ StreamDesc.port x ≤ 11
       ∧ StreamDesc.tag x ≤ 4095 ∧ StreamDesc.vc x ≤ 15 ∧ (seen s).boundElsewhere x = false ∧ (seen s).inboundCount < 4096) := by
  refine ⟨accepts_of ?_, ?_⟩ <;> decide +kernel

theorem test_hyp_bindStream :
    (let s := cmd ingesting 0x0301 (streamDesc 0 0x2A 4095)
     let x := (seen s).params 0 % 2 ^ 640
     s.accepts 0 0 0x0301 ∧ StreamDesc.dt x ≠ 0x33 ∧ StreamDesc.dt x ≠ 0x34
       ∧ decoderDt (StreamDesc.decoder x) = some (StreamDesc.dt x) ∧ StreamDesc.rangesOk x = true ∧ StreamDesc.sizesOk x = true
       ∧ StreamDesc.fieldsOk x = true ∧ (seen s).boundElsewhere x = false ∧ StreamDesc.testLines x = false
       ∧ ((seen s).streamDest x).map (fun r => destFits x r.2) = some true ∧ (seen s).inboundCount < 4096
       ∧ (seen s).stream (BitVec.ofNat 12 (StreamDesc.tag x)) = none) := by
  refine ⟨accepts_of ?_, ?_⟩ <;> decide +kernel

theorem test_hyp_streamUnbind :
    (let s := cmd running 0x0302 (4095 + 2 ^ 16)
     s.accepts 0 0 0x0302 ∧ bitAt ((seen s).params 0) 16 = true)
    ∧ (let s := cmd { running with ing := { running.ing with feedback := [(5, 0)] } } 0x0302 5
       s.accepts 0 0 0x0302 ∧ bitAt ((seen s).params 0) 16 = false ∧ ((seen s).ing.feedback.find 5).isSome = true)
    ∧ (let s := cmd (withStream running 5 (boundStream 0)) 0x0302 5
       s.accepts 0 0 0x0302 ∧ (seen s).ing.feedback.find 5 = none ∧ (seen s).ing.streams.find 5 = some (boundStream 0)
         ∧ (boundStream 0).desc.isSome = true)
    ∧ (let s := cmd (withStream running 5 { Stream.fresh with pending := some (some 0) }) 0x0302 5
       s.accepts 0 0 0x0302 ∧ (seen s).ing.feedback.find 5 = none
         ∧ ((seen s).ing.streams.find 5).map (·.desc) = some none)
    ∧ (let s := cmd running 0x0302 5
       s.accepts 0 0 0x0302 ∧ (seen s).ing.feedback.find 5 = none ∧ (seen s).ing.streams.find 5 = none) := by
  refine ⟨⟨accepts_of ?_, ?_⟩, ⟨accepts_of ?_, ?_⟩, ⟨accepts_of ?_, ?_⟩, ⟨accepts_of ?_, ?_⟩, accepts_of ?_, ?_⟩ <;> decide +kernel

theorem test_hyp_outBind :
    (let s := cmd running 0x0303 (mkImage [(0, 16, 4095), (16, 2, 3), (18, 5, 15), (24, 6, 0x33)])
     let p := (seen s).params 0
     s.accepts 0 0 0x0303 ∧ fld p 15 0 ≤ 4095 ∧ fld p 22 18 ≤ 15 ∧ 0x30 ≤ fld p 29 24 ∧ fld p 29 24 ≤ 0x33
       ∧ (({ seen s with ports := { (seen s).ports with outBinds := (seen s).ports.outBinds.put 4095 (3, 15, 0x33) } }
          : Device)).outboundOk = true) := by
  refine ⟨accepts_of ?_, ?_⟩ <;> decide +kernel

theorem test_hyp_groupSet :
    (let s := cmd running 0x0304 1
     s.accepts 0 0 0x0304 ∧ GroupRec.members ((seen s).params 0 % 2 ^ 128) = 0)
    ∧ (let s := cmd running 0x0304 (mkImage [(0, 4, 1), (8, 8, 3), (16, 4, 11), (32, 16, 1), (48, 16, 16383), (64, 48, 256)])
       let x := (seen s).params 0 % 2 ^ 128
       s.accepts 0 0 0x0304 ∧ GroupRec.members x ≠ 0 ∧ GroupRec.refPort x ≤ 11 ∧ GroupRec.window x ≠ 0
         ∧ GroupRec.ring x % 256 = 0 ∧ GroupRec.hook x < 16384) := by
  refine ⟨⟨accepts_of ?_, ?_⟩, accepts_of ?_, ?_⟩ <;> decide +kernel

/-- The KV stream record with the last 128 × 1,024 entries of the page table. -/
def kvRecord : Nat := mkImage [(0, 18, 131072), (18, 11, 1024), (29, 8, 128)]

/-- KV stream 4095 is open. -/
def kvOpened : Device :=
  { planned [] [] with seq := { (planned [] []).seq with streams := [(4095, { record := kvRecord, part := 0 })] } }

theorem test_hyp_kvOpen :
    (let s := cmd (planned [] []) 0x0401 (4095 + kvRecord * 2 ^ 64)
     let p := (seen s).params 0
     s.accepts 0 0 0x0401 ∧ fld p 15 0 ≤ 4095 ∧ (seen s).kvStream (fld p 15 0) = none ∧ KvRec.ppl (fld p 127 64) = 1024
       ∧ KvRec.layers (fld p 127 64) = 128 ∧ KvRec.length (fld p 127 64) = 0
       ∧ KvRec.base (fld p 127 64) + 131072 = 262144 ∧ ((seen s).part 0).record.isSome = true ∧ (seen s).seq.streams = []) := by
  refine ⟨accepts_of ?_, ?_⟩ <;> decide +kernel

/-- A step in progress uses stream 4095. -/
def kvBusy : Device :=
  { kvOpened with seq := { kvOpened.seq with steps :=
      [(7, { runs := [{ bucket := 0, batch := 1, rows := [(4095, 0, 0)] }], current := 0, removed := [] })] } }

theorem test_hyp_kvReads :
    (let s := cmd kvOpened 0x0402 4095
     s.accepts 0 0 0x0402 ∧ ((seen s).kvStream 4095).isSome = true ∧ (seen s).streamBusy 4095 = false)
    ∧ (cmd kvOpened 0x0403 4095).accepts 0 0 0x0403
    ∧ (let s := cmd running 0x0404 (mkImage [(0, 18, 253952), (18, 14, 8192)])
       s.accepts 0 0 0x0404 ∧ fld ((seen s).params 0) 31 18 = 8192 ∧ fld ((seen s).params 0) 17 0 = 253952) := by
  refine ⟨⟨accepts_of ?_, ?_⟩, accepts_of ?_, accepts_of ?_, ?_⟩ <;> decide +kernel

theorem test_hyp_kvCloseBusy :
    (let s := cmd kvBusy 0x0402 4095
     s.accepts 0 0 0x0402 ∧ ((seen s).kvStream 4095).isSome = true ∧ (seen s).streamBusy 4095 = true) := by
  refine ⟨accepts_of ?_, ?_⟩ <;> decide +kernel

/-- State slot 4095 of job 7 in a phase with a queue. -/
def slotted (ph : SlotPhase) (q : List SlotReq) (busy : Option (Fin 64)) : Device :=
  let d := planned [jobRec 7 2 1 0 []] [(0x11, [natLE (mkImage [(0, 12, 4095), (16, 16, 7), (32, 48, 256)]) 16])]
  { d with seq := { d.seq with slots := [(4095, { phase := ph, queue := q, busyFor := busy, skip := 0, removed := [] })] } }

/-- The slot of a command's Drawer, when the chunks queued at its job's Hook have joined its queue. -/
def slotSeen (s : State) : Option StateSlot := ((seen s).slotRec 4095).map fun p => ((seen s).syncChunks p.1).stSlot 4095

theorem test_hyp_slotSwapOut :
    (let s := cmd (slotted .swapped [] none) 0x0405 4095
     s.accepts 0 0 0x0405 ∧ fld ((seen s).params 0) 11 0 = 4095
       ∧ (slotSeen s).map (fun x => (x.phase, x.queue)) = some (.swapped, []))
    ∧ (let s := cmd (slotted .held [.swapOut 1] none) 0x0405 4095
       s.accepts 0 0 0x0405 ∧ (slotSeen s).map (·.phase) = some .held) := by
  refine ⟨⟨accepts_of ?_, ?_⟩, accepts_of ?_, ?_⟩ <;> decide +kernel

theorem test_hyp_slotSwapIn :
    (let s := cmd (slotted .resident [] none) 0x0406 4095
     s.accepts 0 0 0x0406 ∧ (slotSeen s).map (fun x => (x.phase, x.queue)) = some (.resident, []))
    ∧ (let s := cmd (slotted .swappingOut [] (some 1)) 0x0406 4095
       s.accepts 0 0 0x0406 ∧ (slotSeen s).map (·.phase) = some .swappingOut)
    ∧ (let s := cmd (slotted .resident [.chunk 1 2 3 false, .swapOut 1] none) 0x0407 4095
       s.accepts 0 0 0x0407 ∧ (slotSeen s).isSome = true) := by
  refine ⟨⟨accepts_of ?_, ?_⟩, ⟨accepts_of ?_, ?_⟩, accepts_of ?_, ?_⟩ <;> decide +kernel

theorem test_hyp_swapDone :
    (at_ (slotted .swappingOut [] none)).isUp ∧ ((slotted .swappingOut [] none).stSlot (4095 : Fin 4096)).phase = .swappingOut
    ∧ ((slotted .swappingOut [] none).slotRec (4095 : Fin 4096)).isSome = true
    ∧ ((slotted .swappingIn [] (some 1)).stSlot (4095 : Fin 4096)) =
      { phase := .swappingIn, queue := [], busyFor := some 1, skip := 0, removed := [] }
    ∧ ((slotted .swappingIn [.chunk 1 2 3 true] none).stSlot (4095 : Fin 4096)).busyFor = none := by
  refine ⟨rfl, ?_⟩
  · decide +kernel

theorem test_hyp_swapInReads (c : Nat) : ((slotted .swappingIn [] (some 1)).hubRead 0 256 c).2 = false :=
  Device.hubRead_clean _ _ _ _ rfl

/-! ### Bulk transfers, reports and settings -/

/-- A Solver job 7 with one instance and the smallest structure: one variable, no rows. -/
def solverDesc (inCount : Nat) : Bytes :=
  natLE (mkImage [(0, 4, 1), (48, 16, 5), (64, 8, inCount), (72, 8, 2), (80, 16, 6), (144, 16, 16), (160, 32, 100)]) 96

def structRec : Bytes :=
  natLE (mkImage [(0, 4, 1), (16, 16, 1), (64, 32, 1)]) 64
    ++ [0, 1, 0, 0].flatMap (fun n => natLE n 4) ++ List.replicate 8 0

/-- The Solver's state of the job. -/
def solverState : SolverJob :=
  { inst := 0, vals := [[0x3F800000], [0], [], [], []], queue := [], nextSlot := 0, results := 0, prev := none, reload := false,
    reloaded := false, solve := none }

def solving (inCount : Nat) (x : SolverJob) : Device :=
  let d := planned [jobRec 7 2 4 0 []] [(0xE, [structRec]), (0xF, [solverDesc inCount])]
  { d with eng := { d.eng with solv := [(7, x)] } }

/-- A Shelf with the smallest tree is in force. -/
def shelved : Device := { running with eng := { running.eng with shelf := { running.eng.shelf with desc := some 0 } } }

theorem test_hyp_bulkCommands :
    (let s := cmd shelved 0x0501 (bulkRef 1572896)
     s.accepts 0 0 0x0501 ∧ (seen s).eng.shelf.desc.isSome = true ∧ (seen s).bulkFits (fld ((seen s).params 0) 255 0) 1572896)
    ∧ (let s := cmd (solving 0 solverState) 0x0502 (7 + bulkRef 4194336 * 2 ^ 128)
       s.accepts 0 0 0x0502 ∧ ((seen s).solver 7).isSome = true
         ∧ (seen s).bulkFits (fld ((seen s).params 0) 383 128) 4194336)
    ∧ (let s := cmd (planned [] []) 0x0504 ((2 ^ 30 - 256) * 2 ^ 64 + bulkRef 256 * 2 ^ 128)
       s.accepts 0 0 0x0504 ∧ ((seen s).part 0).record = some partRecord ∧ ((seen s).part 0).active.isSome = true
         ∧ fld ((seen s).params 0) 111 64 % 256 = 0
         ∧ (seen s).bulkFits (fld ((seen s).params 0) 383 128) (PartRec.memGib partRecord * 2 ^ 30 - fld ((seen s).params 0) 111 64))
    ∧ (let s := cmd running 0x0801 (bulkRef (2 ^ 28) * 2 ^ 128)
       s.accepts 0 0 0x0801 ∧ (seen s).inProgress 0 [0x0801] = false
         ∧ (seen s).bulkFits (fld ((seen s).params 0) 383 128) (2 ^ 28)) := by
  unfold Device.bulkFits
  refine ⟨⟨accepts_of ?_, ?_⟩, ⟨accepts_of ?_, ?_⟩, ⟨accepts_of ?_, ?_⟩, accepts_of ?_, ?_⟩ <;> decide +kernel

/-- A transfer of 4 bytes is armed for Drawer 0 on port 11, VC 0, tag 4095, SEQ 3, and has two of them. -/
def armedBulk : Device :=
  { running with bur := { running.bur with bulk :=
      [{ drawer := 0, port := 11, vc := 0, tag := 4095, seq := 3, length := 4, timeoutMs := 1, crc := 0, got := [1, 2], last := 0,
         dest := none }] } }

/-- A bulk packet of the transfer. -/
def bulkPkt (isPart : Nat) (bs : Bytes) : Pkt :=
  { port := 11, vc := 0, dt := 0x37, ecc := .ok, crcOk := true, portTime := 0,
    payload := natLE (mkImage [(0, 12, 4095), (16, 8, 0x50), (26, 1, isPart), (32, 32, 3)]) 16 ++ natLE 2 16 ++ bs }

/-- What a data packet with a stream header finds on arrival. -/
def header? (a : Arrival) : Option Image :=
  match a with
  | .ok h => some h
  | _ => none

theorem test_hyp_bulkPacket (isPart : Nat) (bs : Bytes) (h : (isPart = 1 ∧ bs = [3]) ∨ (isPart = 1 ∧ bs = [3, 4])
      ∨ (isPart = 0 ∧ bs = [3, 4])) :
    let p := bulkPkt isPart bs
    let a := armedBulk.arrive p
    (at_ armedBulk).isUp ∧ p.dt = 0x37 ∧ header? a.2 = some (imageAt p.payload 0 16)
      ∧ (a.1.bur.bulk.find? fun b => b.port == p.port.val && b.vc == p.vc.toNat && b.tag == StrHdr.tag (imageAt p.payload 0 16)
          && b.seq == StrHdr.seq (imageAt p.payload 0 16)).map (fun b => (b.got.length, b.length)) = some (2, 4)
      ∧ fld (imageAt p.payload 16 16) 47 0 = 2 ∧ p.payload.drop 32 = bs ∧ fld (imageAt p.payload 16 16) 127 48 = 0
      ∧ StrHdr.isPartial (imageAt p.payload 0 16) = (isPart == 1) := by
  refine ⟨rfl, ?_⟩
  obtain ⟨rfl, rfl⟩ | ⟨rfl, rfl⟩ | ⟨rfl, rfl⟩ := h <;> decide +kernel

theorem test_hyp_bulkTimeout : (armedBulk.bur.bulk.find? fun b => b.drawer == 0).isSome = true
    ∧ reached (advance 1200000 armedBulk).hub (addT 0 (1200000 * 1)) = true := by decide +kernel

theorem test_hyp_reports :
    (cmd running 0x0505 (mkImage [(0, 8, 0x23), (8, 11, 1024)])).accepts 0 0 0x0505 ∧ isDomain 0x23 = true
    ∧ (cmd running 0x0506 (mkImage [(0, 8, 0x10), (8, 8, 0x1B)])).accepts 0 0 0x0506 ∧ isDomain 0x10 = true ∧ isDomain 0x1B = true
    ∧ (cmd (solving 0 solverState) 0x0503 7).accepts 0 0 0x0503
    ∧ (cmd running 0x0601 (mkImage [(0, 4, 5), (16, 16, 4095), (32, 16, 1)])).accepts 0 0 0x0601 ∧ 4095 + 1 ≤ calLimit 5
    ∧ (cmd running 0x0606 (mkImage [(0, 12, 4095), (12, 12, 2048)])).accepts 0 0 0x0606
    ∧ (cmd running 0x0704 (3 + 16)).accepts 0 0 0x0704 ∧ (cmd running 0x0704 (4 + 16)).accepts 0 0 0x0704
    ∧ (cmd running 0x0705 (mkImage [(0, 13, 4159), (13, 13, 1)])).accepts 0 0 0x0705
    ∧ (cmd running 0x0703 (3 + 16)).accepts 0 0 0x0703 ∧ (cmd running 0x0803 0).accepts 0 0 0x0803
    ∧ (cmd running 0x0802 1).accepts 0 0 0x0802
    ∧ (seen (cmd running 0x0802 1)).inProgress 0 [0x0101, 0x0102, 0x0103, 0x0105, 0x0602, 0x0804] = false := by
  refine ⟨accepts_of ?_, ?_, accepts_of ?_, ?_, ?_, accepts_of ?_, accepts_of ?_, ?_, accepts_of ?_, accepts_of ?_, accepts_of ?_,
    accepts_of ?_, accepts_of ?_, accepts_of ?_, accepts_of ?_, ?_⟩ <;> decide +kernel

theorem test_hyp_calWrite :
    (let s := cmd running 0x0602 (mkImage [(0, 4, 3), (4, 1, 1), (16, 16, 143), (32, 16, 1), (320, 8, 143)])
     let x := leNat (slice ((seen s).paramBytes 0) 40 8)
     s.accepts 0 0 0x0602 ∧ fld ((seen s).params 0) 3 0 = 3 ∧ fld ((seen s).params 0) 31 16 + fld ((seen s).params 0) 47 32 ≤ calLimit 3
       ∧ bitAt ((seen s).params 0) 4 = true ∧ x = 143 ∧ rsvdZero x (calRsvd 3) = true ∧ calRangeOk 3 143 x = true)
    ∧ (let s := cmd running 0x0602 (mkImage [(0, 4, 1), (32, 16, 256)] + bulkRef 2048 * 2 ^ 64)
       s.accepts 0 0 0x0602 ∧ fld ((seen s).params 0) 31 16 + fld ((seen s).params 0) 47 32 = calLimit 1
         ∧ bitAt ((seen s).params 0) 4 = false
         ∧ BulkRef.length (fld ((seen s).params 0) 319 64) = fld ((seen s).params 0) 47 32 * calSize 1
         ∧ (seen s).bulkFits (fld ((seen s).params 0) 319 64) 4194304) := by
  unfold Device.bulkFits
  refine ⟨⟨accepts_of ?_, ?_⟩, accepts_of ?_, ?_⟩ <;> decide +kernel

theorem test_hyp_settings :
    (let s := cmd running 0x0603 (mkImage [(0, 4, 1), (8, 5, 24), (16, 8, 1), (32, 16, 65535), (64, 32, 60), (96, 32, 86400), (128, 8, 100),
       (136, 4, 15), (140, 4, 1)])
     s.accepts 0 0 0x0603 ∧ (PolRec.policy ((seen s).params 0 % 2 ^ 256)).ok = true ∧ (seen s).startedJobs = [])
    ∧ (let s := cmd running 0x0701 (mkImage [(0, 4, 1), (8, 8, 105), (16, 16, 280), (32, 16, 500), (48, 8, 20), (64, 16, 300)])
       s.accepts 0 0 0x0701 ∧ limitsOk ((seen s).params 0 % 2 ^ 256) = true)
    ∧ (cmd running 0x0702 0).accepts 0 0 0x0702
    ∧ (let s := cmd running 0x0707 7
       s.accepts 0 0 0x0707 ∧ (seen s).bur.nv.persistCurrent.isSome = true) := by
  refine ⟨⟨accepts_of ?_, ?_⟩, ⟨accepts_of ?_, ?_⟩, accepts_of ?_, accepts_of ?_, ?_⟩ <;> decide +kernel

/-- Two usable key slots: 0, with which the image was verified, and 1. -/
def twoKeys : Device :=
  let img := natLE 0 128 ++ testModulus ++ testModulus ++ List.replicate 768 0
  { running with bur := { running.bur with
      fwImage := img, nv := { testStore with keyHash := [sha256 testModulus, sha256 testModulus, [], []], revoked := [0, 0, 3, 0] } } }

theorem test_hyp_keyRevoke :
    (let s := cmd twoKeys 0x0804 2
     s.accepts 0 0 0x0804 ∧ nth (seen s).bur.nv.revoked 2 0 ≠ 0)
    ∧ (let s := cmd twoKeys 0x0804 1
       s.accepts 0 0 0x0804 ∧ nth (seen s).bur.nv.revoked 1 0 = 0 ∧ FwHdr.keySlot (fwHdr (seen s).bur.fwImage) = 0
         ∧ (seen s).bur.nv.usable (seen s).bur.fwImage 0 ≠ ((0 : Nat) == 1)) := by
  refine ⟨⟨accepts_of ?_, ?_⟩, accepts_of ?_, ?_⟩ <;> decide +kernel

theorem test_hyp_safeCommands : (cmd running 0x0604 0).accepts 0 0 0x0604 ∧ (cmd releasable 0x0605 0).accepts 0 0 0x0605
    ∧ releasable.lect.safe = true ∧ (seen (cmd releasable 0x0605 0)).blocking = 0
    ∧ (cmd released 0x0605 0).accepts 0 0 0x0605 ∧ released.lect.safe = false
    ∧ (cmd running 0x0605 0).accepts 0 0 0x0605 ∧ running.lect.safe = true ∧ (seen (cmd running 0x0605 0)).blocking ≠ 0 := by
  refine ⟨accepts_of ?_, accepts_of ?_, ?_, ?_, accepts_of ?_, ?_, accepts_of ?_, ?_, ?_⟩ <;> decide +kernel

/-! ### I3C, ports and Ingest -/

/-- The target 0 has a dynamic address, and so has target 4; bridge 1 is BUSY with a read. -/
def addressed : Device :=
  { running with bur := { running.bur with i3c := { running.bur.i3c with
      addrs := [some 9, none, none, none, some 10]
      bridges := setAt running.bur.i3c.bridges 1 { Bridge.reset with state := .busy, op := some (.read 0x7D 255) } } } }

theorem test_hyp_i3c : running.pow.phase ≠ .off ∧ (1 : BitVec 8).getLsbD 0 = true ∧ running.bur.i3c.reaches none = true
    ∧ addressed.bur.i3c.reaches (some 0) = true ∧ addressed.bur.i3c.reaches (some 4) = true
    ∧ (bridgeAt addressed 0).state ≠ .busy ∧ (0x7D : BitVec 7).toNat ≤ 0x7D ∧ (List.replicate 255 (0 : Byte)).length ≤ 255
    ∧ (3 : Byte).toNat ≤ 3 ∧ (bridgeAt addressed 1).state = .busy ∧ (bridgeAt addressed 1).op = some (.read 0x7D 255)
    ∧ addressed.pow.phase = .up ∧ ({ running.pow with phase := .held } : Power).phase = .held := by
  decide +kernel

/-- The read address. -/
def readingAt (a : BitVec 16) : Device :=
  { running with bur := { running.bur with win := { running.bur.win with readAddr := a } } }

/-- A private read of STATUS and of the window's last eight bytes captures its aligned group; EVT_HEAD is captured whole (R693). -/
theorem test_hyp_privateRead :
    (readingAt 0x20).readSpan 0x20 = (0x20, 8) ∧ (readingAt 0xFFF8).readSpan 0xFFF8 = (0xFFF8, 8)
    ∧ (readingAt 0x90).readSpan 0x90 = (0x80, 32)
    ∧ (let d := (readingAt 0x20).beginRead.readBytes 3
       d.bur.win.readOver = false ∧ d.bur.win.readAddr = 0x23
         ∧ d.bur.win.capture.map (fun c => (c.1, c.2.length)) = some (0x20, 8))
    ∧ ((readingAt 0xFFFF).beginRead.readBytes 2).bur.win.readOver = true
    ∧ ((readingAt 0xFFFF).beginRead.readBytes 2).bur.win.sent = [0] := by decide +kernel

/-- A short packet at port 11. -/
def shortPkt (dt : BitVec 6) (ecc : Ecc) : ShortPkt := { port := 11, vc := 15, dt, ecc, data := 0, portTime := 0 }

/-- A burst is on the wire of output port 0. -/
def sending : Device :=
  { running with ports := { running.ports with outs := setAt running.ports.outs 0 { nthOut running 0 with wire := [.frameStart 0 1] } } }

theorem test_hyp_portEvents : (at_ running).isUp ∧ running.inPowered (11 : Fin 12) = true ∧ (shortPkt 0 .ok).dt = 0
    ∧ (shortPkt 1 .ok).dt = 1 ∧ (shortPkt 2 .bad).ecc = .bad ∧ running.domOn (0x2C + (3 : Fin 4)) = true
    ∧ ({ running.bur.win with outputsEnabled := true } : Window).outputsEnabled = true ∧ (nthOut running 3).wire = []
    ∧ (nthOut running 3).queue = [] ∧ (nthOut sending (0 : Fin 4)).wire ≠ [] := by
  refine ⟨rfl, ?_⟩
  · decide +kernel

/-- A sample that is arriving. -/
def sampleOf (desc : Nat) (stage : SampleStage) (whole : Bool) : Sample :=
  { seq := 1, fsTime := 0, desc, epoch := 0, stage, bytes := [], rows := [], points := [], pointsSeen := 0, header := 0,
    packets := 0, whole, dims := (16, 2), parts := [], regions := [], augMissing := false, aug := 0, withhold := false,
    testLine := none, grouped := false, lateMember := false }

/-- A RAW stream with tag 5 on port 11, VC 15, whose sample arrives. -/
def rawStream : Device :=
  withStream running 5 { boundStream (streamDesc 0 0x2A 5) with samples := [sampleOf (streamDesc 0 0x2A 5) .gathering false] }

/-- The same with its lines tested. -/
def testedStream : Device :=
  let x := streamDesc 0 0x2A 5 + 2 ^ 63
  withStream running 5 { boundStream x with samples := [sampleOf x .gathering false] }

/-- A JPEG stream and a point stream with tag 5. -/
def userStreamOf (dec dt : Nat) : Device := withStream running 5 (boundStream (streamDesc dec dt 5))

/-- A long packet at port 11, VC 15. -/
def longPkt (dt : BitVec 6) (crcOk : Bool) (payload : Bytes) : Pkt :=
  { port := 11, vc := 15, dt, ecc := .ok, crcOk, payload, portTime := 0 }

/-- A stream header. -/
def strHdr (tag kind seq isPart : Nat) : Bytes := natLE (mkImage [(0, 12, tag), (16, 8, kind), (26, 1, isPart), (32, 32, seq)]) 16

def badCrc? (a : Arrival) : Bool :=
  match a with
  | .badCrc => true
  | _ => false

theorem test_hyp_imageLines :
    otherDt 0x2A = false
    ∧ (rawStream.streamsOn 11 15 fun x => StreamDesc.isFrame x && StreamDesc.dt x == 0x2A) = [5]
    ∧ (running.streamsOn 11 15 fun x => StreamDesc.isFrame x && StreamDesc.dt x == 0x2A) = []
    ∧ (∀ c ∈ [true, false], (((rawStream.arrive (longPkt 0x2A c [7])).1.stream 5).bind fun x => x.desc).isSome = true)
    ∧ (∀ d ∈ [rawStream, running], header? (d.arrive (longPkt 0x2A true (List.replicate 16 7))).2 = some 0)
    ∧ badCrc? (rawStream.arrive (longPkt 0x2A false [7])).2 = true
    ∧ (∀ c ∈ [true, false], (((rawStream.arrive (longPkt 0x2A c [7])).1.stream 5).bind Stream.arriving).isSome = true) := by
  decide +kernel

theorem test_hyp_embedded :
    (let a := testedStream.arrive (longPkt 0x12 true [7])
     header? a.2 = some 0 ∧ a.1.streamsOn 11 15 StreamDesc.isFrame = [5]
       ∧ ((a.1.stream 5).bind Stream.arriving).map (fun y => (StreamDesc.testLines y.desc, y.testLine)) = some (true, none)) := by
  decide +kernel

theorem test_hyp_userPackets :
    (let p := longPkt 0x36 true (strHdr 5 0x61 1 1 ++ [0xFF, 0xD8])
     let a := (userStreamOf 8 0x36).arrive p
     ∃ h, header? a.2 = some h ∧ a.1.userStream p h = some 5 ∧ (a.1.packetSample 5 h p.port p.portTime).2 = some 1)
    ∧ (let p := longPkt 0x35 true (strHdr 5 0x60 1 1 ++ List.replicate 32 0)
       let a := (userStreamOf 0xA 0x35).arrive p
       ∃ h, header? a.2 = some h ∧ a.1.userStream p h = some 5 ∧ (a.1.packetSample 5 h p.port p.portTime).2 = some 1) := by
  refine ⟨⟨imageAt (strHdr 5 0x61 1 1) 0 16, ?_⟩, ⟨imageAt (strHdr 5 0x60 1 1) 0 16, ?_⟩⟩ <;> decide +kernel

/-- A feedback binding of tag 5 on port 11, VC 15, and Fusion at work. -/
def fedBack (dt : Nat) : Device :=
  { running with
    ing := { running.ing with feedback := [(5, mkImage [(0, 4, 1), (8, 4, 11), (16, 5, 15), (24, 6, dt), (32, 16, 5)])] }
    eng := { running.eng with fus := { running.eng.fus with running := true } } }

/-- What the clauses on feedback ask: data type, KIND, size of a record, whether the payload is whole. -/
def feedbackOk (d : Device) (dt : BitVec 6) (kind size : Nat) (bs : Bytes) (isPart : Nat) (bound whole : Bool) : Bool :=
  let p := longPkt dt true (strHdr 5 kind 1 isPart ++ bs)
  let a := d.arrive p
  match header? a.2 with
  | some h => StrHdr.kind h == kind && StrHdr.tag h == 5 && a.1.feedbackBound p (StrHdr.tag h) == bound
      && ((bs.length % size == 0 && !StrHdr.isPartial h) == whole)
      && (List.range (bs.length / size)).all fun i => rsvdZero (imageAt bs (24 * i) 24) [(31, 16), (191, 160)]
  | none => false

theorem test_hyp_feedback :
    feedbackOk (fedBack 0x34) 0x34 0x12 24 (List.replicate 48 0) 0 true true = true
    ∧ feedbackOk (fedBack 0x34) 0x34 0x13 24 [] 0 true true = true
    ∧ feedbackOk (fedBack 0x34) 0x34 0x12 24 (List.replicate 25 0) 0 true false = true
    ∧ feedbackOk (fedBack 0x34) 0x34 0x12 24 (List.replicate 24 0) 1 true false = true
    ∧ feedbackOk (fedBack 0x34) 0x34 0x11 32 (List.replicate 32 0) 0 true true = true
    ∧ feedbackOk (fedBack 0x33) 0x33 0x01 8 (List.replicate 16 0) 0 true true = true
    ∧ feedbackOk (fedBack 0x33) 0x33 0x01 8 (List.replicate 9 0) 0 true false = true
    ∧ feedbackOk running 0x33 0x01 8 [] 0 false true = true ∧ feedbackOk running 0x34 0x12 24 [] 0 false true = true
    ∧ feedbackOk running 0x34 0x10 32 [] 0 false true = true ∧ (fedBack 0x34).eng.fus.running = true := by decide +kernel

/-- A stream with tag 5 whose sample 1 is being decoded; a second waits for a decoder. -/
def decodingStream (dec dt : Nat) : Device :=
  let d := withStream running 5 { boundStream (streamDesc dec dt 5) with
    samples := [sampleOf (streamDesc dec dt 5) .decoding true] }
  { d with ing := { d.ing with queue := [(5, 2)], decoders := [some (5, 1), none] } }

theorem test_hyp_decoders :
    (decodingStream 8 0x36).ing.queue = [(5, 2)] ∧ nth (decodingStream 8 0x36).ing.decoders (1 : Fin 2) none = none
    ∧ (decodingStream 8 0x36).engineFree (.decoder 1) = true
    ∧ ((decodingStream 8 0x36).stream 5).bind (fun x => (x.live 1).map fun y => (y.stage, y.whole, x.cap y.desc))
        = some (.decoding, true, 1000)
    ∧ StreamDesc.isList (streamDesc 0xA 0x35 5) = true ∧ StreamDesc.isList (streamDesc 8 0x36 5) = false := by decide +kernel

/-- A batch of stream 5 with sample 1. -/
def batchOf (closed : Bool) : Batch :=
  { opened := 0, desc := streamDesc 0 0x2A 5, taken := 1, members := [1], descs := [], errors := [], windowExpired := false, closed,
    closeTime := 0 }

def batching (closed : Bool) : Device :=
  withStream ingesting 5 { boundStream (streamDesc 0 0x2A 5) with batches := [batchOf closed] }

/-- Group 7 has an instance that is closed with no member and one that is open; its Hook 20 belongs to job 7. -/
def grouping : Device :=
  let g : Group := { record := mkImage [(0, 4, 1), (4, 3, 7), (8, 8, 1), (32, 16, 1), (48, 16, 20), (64, 48, 256)], seq := 0,
                     instances := [{ t0 := 0, members := [], closed := true, expired := false },
                                   { t0 := 0, members := [], closed := false, expired := false }] }
  let d := ingesting
  { d with ing := { d.ing with groups := [(7, g)] }, hooks := { d.hooks with alloc := [(20, { plan := 1, job := some 7, init := 0 })] } }

theorem test_hyp_records :
    (let d := batching true
     let x := (d.stream 5).getD Stream.fresh
     x.batches.find? (·.closed) = some (batchOf true)
       ∧ ((d.setStream 5 (x.dropBatch (batchOf true))).streamDest (batchOf true).desc).isSome = true)
    ∧ (let x := ((batching false).stream 5).getD Stream.fresh
       x.batches = [batchOf false] ∧ (batchOf false).closed = false
         ∧ reached (advance 1200 (batching false)).hub (addT 0 (1200 * StreamDesc.batchWindow (batchOf false).desc)) = true)
    ∧ ((grouping.ing.groups.find (7 : Fin 8)).bind fun g => g.instances.find? fun i => i.closed && grouping.membersPosted i).isSome
        = true
    ∧ grouping.hookPart 20 = some 0 := by decide +kernel

theorem test_hyp_testFrame : (boundStream 0).desc = some 0 ∧ ∀ p : Fin 16, testCrc 0 p.val + 1 ≠ testCrc 0 p.val :=
  ⟨rfl, fun p => by generalize testCrc 0 p.val = c; bv_omega⟩

/-! ### Finisher, Fusion, Shelf, Planner and Solver -/

/-- Job 7 runs its period. -/
def working (d : Device) : Device := d.setRun 7 { started with phase := .running, period := some onePeriod }

/-- Job 7 is a Finisher job with one level, and its IN_HOOK 20 counts 1. -/
def finishing : Device :=
  let lvl := natLE (mkImage [(0, 16, 1), (16, 16, 1), (32, 8, 1), (40, 5, 1)]) 16
  let f := natLE (mkImage [(0, 4, 1), (16, 4, 1), (20, 4, 10), (32, 16, 1), (48, 16, 1), (64, 32, 1), (448, 16, 20)]) 64
  let t := natLE (mkImage [(0, 4, 10), (4, 1, 1), (64, 48, 4096), (112, 32, 256)]) 32
  (working (planned [jobRec 7 2 1 0 []] [(4, [t]), (9, [f ++ lvl ++ natLE 0 8])])).setHook 20 { Hook.fresh with count := 1 }

theorem test_hyp_finisherFrame :
    (finishing.working 7).map (fun w => (w.1.engine, w.1.desc.map FinDesc.levels, w.2.2)) = some (engFinisher, some 1, onePeriod)
    ∧ finishing.engineFree .fusion = true ∧ (finishing.finJob 7).held = none
    ∧ (finishing.working 7).map (fun w => (finishing.frameAhead w.1 w.2.2, w.1.desc.map (finishing.tagInView w.1)))
        = some (false, some true)
    ∧ ((finishing.working 7).bind fun w => w.1.desc.map (finishing.frameEpoch w.1)) = some 0
    ∧ (finishing.takeHook (.job 7) 20 1).2 = true := by decide +kernel

/-- The counter of port 0 has just been captured. -/
def counting : Device := { running with clk := { running.clk with counters := [(0x10, 0)] } }

theorem test_hyp_correspondence : (advance 0 counting).hub = 0 ∧ (0 : Time).toNat % 12000 = 0
    ∧ counting.clk.counters.find 0x10 = some 0 ∧ (timeDiff (1 : Time) 0).natAbs ≤ 1 ∧ (timeDiff (0 - 1 : Time) 0).natAbs ≤ 1
    ∧ counting.domOn 0x3B = true ∧ (counting.samples 0x10).head?.map (·.1) ≠ some 0 := by decide +kernel

/-- The Fusion job 7 at work on its descriptor: MEAS_HOOK 20, measurement ring at 0; an OBJECT sensor 0. -/
def fusDesc : Nat := mkImage [(0, 4, 1), (32, 32, 100), (64, 16, 20), (80, 16, 30), (224, 16, 20), (400, 16, 4)]

def fusing (cycles : List FusionCycle) : Device :=
  let d := (planned [jobRec 7 2 2 0 []] [(0xA, [natLE fusDesc 64])]).setHook 20 { Hook.fresh with count := 1 }
  { d with eng := { d.eng with fus := { d.eng.fus with
      job := some 7, desc := some fusDesc, running := true, cycles, sensors := [(0, 2 * 2 ^ 32)] } } }

/-- A cycle of Fusion that closes at time 0 and emits at time 0. -/
def cycleOf (closed : Bool) : FusionCycle :=
  { number := 0, tau := 0, closeAt := 0, emitAt := 0, closed, epoch := 0, conflict := false, full := false, ego := none,
    tracks := [], energyNj := 0 }

/-- The same with the period locked to pin 3, and an edge that waits for its cycle. -/
def edgeWaits : Device :=
  (fusing []).fus fun x => { x with desc := some (fusDesc + 2 ^ 11 + 3 * 2 ^ 8), due := [0] }

theorem test_hyp_fusion : ((fusing []).fusionJob).map (fun r => (r.1.id, r.1.part, r.2)) = some (7, 0, fusDesc)
    ∧ (fusing []).eng.fus.running = true ∧ ((fusing []).takeHook (.job 7) 20 1).2 = true
    ∧ (fusing []).engineOk .fusion = true ∧ (fusing []).inBoundary 0 = false
    ∧ FusDesc.lockEn fusDesc = false ∧ (fusing []).eng.fus.first = true ∧ reached (fusing []).hub (fusing []).eng.fus.last = true
    ∧ reached (advance 120000 (fusing [])).hub (addT 0 (usHub (FusDesc.period fusDesc))) = true
    ∧ edgeWaits.fusionJob.map (fun r => FusDesc.lockEn r.2) = some true ∧ edgeWaits.eng.fus.due.head? = some 0
    ∧ edgeWaits.eng.fus.running = true ∧ reached edgeWaits.hub 0 = true
    ∧ (fusing [cycleOf false]).eng.fus.cycles.find? (fun c => !c.closed) = some (cycleOf false)
    ∧ reached (fusing [cycleOf false]).hub (cycleOf false).closeAt = true
    ∧ (fusing [cycleOf true]).eng.fus.cycles = [cycleOf true] ∧ (cycleOf true).closed = true := by decide +kernel

/-- A Shelf whose UPDATE_HOOK 20 counts 1, with a batch in its queue. -/
def shelfWork (n : Nat) : Device :=
  let d := shelved.setHook 20 { Hook.fresh with count := 1 }
  { d with eng := { d.eng with shelf := { d.eng.shelf with
      desc := some (mkImage [(0, 4, 1), (4, 5, 4), (16, 16, 100), (128, 16, 20), (160, 8, 2), (224, 16, 1)])
      queue := List.replicate n { drawer := some 0, slot := 0, bytes := [] } } } }

theorem test_hyp_shelf : (shelfWork 15).eng.shelf.desc.isSome = true ∧ (shelfWork 15).eng.shelf.queue.length < 16
    ∧ ((shelfWork 15).takeHook .shelf 20 1).2 = true
    ∧ (let q := (shelfWork 1).eng.shelf.queue
       q = [{ drawer := some 0, slot := 0, bytes := [] }]
         ∧ ∀ b ∈ q, ((shelfWork 1).mapBytes 0 b).2 = ([], false)) := by decide +kernel

/-- A search of the Planner job 7 in instance 0: a robot with one joint, from 0 to 0. -/
def search : PlanRun :=
  { inst := 0, query := 0, start := [0], startTime := 0, snapshot := 1, mapVersion := 1, pinned := true, rounds := 0, repaired := false,
    pieces := [], guess := [], checks := 0, holdFrom := none, holdHit := none, startBad := false, goalBad := false }

def planning : Device :=
  let robot := natLE (mkImage [(0, 4, 1), (8, 8, 1)]) 16 ++ natLE (mkImage [(224, 32, 0xBF800000), (256, 32, 0x3F800000)]) 64
  let desc := natLE (mkImage [(0, 4, 1), (32, 16, 64), (128, 32, 0x3F800000), (416, 32, 100)]) 96
  let d := working (planned [jobRec 7 2 3 0 []] [(0xC, [robot]), (0xD, [desc])])
  { d with eng := { d.eng with plan := [(7, { PlannerJob.fresh with run := some search })] } }

def candidate : Candidate := { spans := [{ path := [[0], [0]], before := [], vertices := [], edges := [], steps := 2 }], checks := 1, corrected := 0, bad := [] }

theorem test_hyp_planner :
    (planning.searching 7).map (fun w => (PlanDesc.budget w.2.1, w.2.2.1, w.2.2.2)) = some (100, onePeriod, search)
    ∧ reached planning.hub (addT 0 (usHub 100)) = false
    ∧ reached (advance 120000 planning).hub (addT 0 (usHub 100)) = true
    ∧ (let e := planning.spoilShelf 7 (planning.pinned 0) candidate
       (planning.searching 7).map fun w =>
         ((e.world w.1 w.2.1 search.query (e.pinned 0)).found e.eng.shelf (e.planJob 7).roadmap search candidate).map (·.2))
        = some (some [[0], [0]]) := by decide +kernel

/-- A solve of the Solver job 7; IN_HOOK 5 of its descriptor counts 1. -/
def solveOf (inCount : Nat) (applied : Bool) : Device :=
  let v : Solve := { applied, iters := 0, cur := none, best := none, cold := true, warmStatus := stOk, scale := [] }
  let d := (working (solving inCount { solverState with solve := some v })).setHook 5 { Hook.fresh with count := 1 }
  d.setHook 6 { Hook.fresh with count := 1 }

theorem test_hyp_solver : ((solving 0 solverState).solvJob 7).map (·.solve) = some none
    ∧ ((solving 0 solverState).solver 7).map (fun w => (SDesc.updateHook w.2.1, w.2.2.2.queue.length)) = some (6, 0)
    ∧ ((solveOf 0 false).takeHook (.job 7) 6 1).2 = true
    ∧ (∀ c ∈ [0, 1], ∀ a ∈ [false, true], ((solveOf c a).solving 7).map (fun w =>
        (SDesc.inst w.2.1, SDesc.inCount w.2.1, SDesc.inHook w.2.1, SDesc.budget w.2.1, w.2.2.2.2.1.applied, w.2.2.2.2.2))
          = some (0, c, 5, 100, a, onePeriod))
    ∧ (solveOf 0 false).engineFree (.solver 0) = true ∧ ((solveOf 1 false).takeHook (.job 7) 5 1).2 = true
    ∧ (solveOf 0 true).served 0 = some 7
    ∧ reached (solveOf 0 false).hub (addT 0 (usHub 100)) = false ∧ timeDiff (solveOf 0 true).hub (addT 0 (usHub 100)) ≤ 0
    ∧ reached (advance 120000 (solveOf 0 false)).hub (addT 0 (usHub 100)) = true := by decide +kernel

/-! ### Control Engine, edges and dispatcher -/

/-- Job 9 has one loop in slot `k`: class 0 SAFETY or 1 CONTROL, locked to pin 7 or free-running. The Control Engine's counter
stands at 2,000. -/
def loopDesc (k lock : Nat) : Nat :=
  mkImage [(0, 4, 1), (8, 8, k), (64, 3, 7), (67, 1, lock), (96, 32, 1000), (128, 32, 100), (160, 32, 500), (224, 16, 9)]

def looping (cls k lock : Nat) (x : CeSlot) : Device :=
  let d := planned [jobRec 9 cls 5 0 []] [(0x10, [natLE (loopDesc k lock) 64])]
  { d with ce := { d.ce with slots := [(k, x)] }, clk := { d.clk with counters := [(1, 2000)] } }

/-- A loop between two periods, or at a stage of one. -/
def loopAt (stage : Nat) : CeSlot := { CeSlot.idle with running := true, stage, gen := { Generator.start 0 with first := false } }

def vectors (y : Int) : CeVectors := { y := [y], x := [], z := [], w := [] }

/-- The computed loop: its result and the twin's. -/
def computed (stage : Nat) (a b : Int) : CeSlot := { loopAt stage with out := some (vectors a), out2 := some (vectors b) }

theorem test_hyp_slots :
    (let d := looping 0 127 0 (loopAt 3)
     (at_ d).isUp ∧ d.ceDesc (127 : Fin 256) = some (loopDesc 127 0) ∧ (d.slot 127).running = true ∧ (d.slot 127).stage = 3
       ∧ d.slotServed (loopDesc 127 0) = true ∧ CeDesc.lockEn (loopDesc 127 0) = false
       ∧ reached d.ceNow (addT (d.slot 127).gen.last (CeDesc.period (loopDesc 127 0))) = true)
    ∧ (let d := looping 1 255 1 { loopAt 3 with gen := { Generator.start 0 with due := some 2000 } }
       d.ceDesc (255 : Fin 256) = some (loopDesc 255 1) ∧ (d.slot 255).stage = 3 ∧ d.slotServed (loopDesc 255 1) = true
         ∧ CeDesc.lockEn (loopDesc 255 1) = true ∧ (d.slot 255).gen.due = some 2000 ∧ reached d.ceNow 2000 = true)
    ∧ (let d := looping 0 127 0 (loopAt 0)
       (d.slot 127).stage = 0 ∧ reached d.ceNow (addT (d.slot 127).gen.last (CeDesc.latchPhase (loopDesc 127 0))) = true)
    ∧ (let d := looping 0 127 0 (computed 1 5 5)
       (d.slot 127).stage = 1 ∧ (d.slot 127).out = some (vectors 5) ∧ (d.slot 127).out2 = some (vectors 5))
    ∧ (vectors 5).y ≠ (vectors 6).y := by
  refine ⟨⟨rfl, ?_⟩, ?_⟩ <;> decide +kernel

theorem test_hyp_outputWrite : ∀ f ∈ [ScrubFinding.clean, .corrected, .uncorrectable],
    (let d := looping 0 127 0 { computed 2 5 5 with compared := true }
     d.slotSafety (loopDesc 127 0) = true ∧ (d.slot 127).stage = 2
       ∧ reached d.ceNow (addT (d.slot 127).gen.last (CeDesc.outPhase (loopDesc 127 0))) = true
       ∧ d.lowerSlotDue 127 (addT (d.slot 127).gen.last (CeDesc.outPhase (loopDesc 127 0))) = false
       ∧ ((d.writeSlot 127 (loopDesc 127 0) f).job 9).isSome = true)
    ∧ (let d := looping 1 255 0 (computed 1 5 5)
       d.slotSafety (loopDesc 255 0) = false ∧ (d.slot 255).stage = 1
         ∧ ((d.writeSlot 255 (loopDesc 255 0) f).job 9).isSome = true) := by decide +kernel

/-- Fusion locked to pin 7. -/
def fusionLocked : Device :=
  let f := fusDesc + 2 ^ 11 + 7 * 2 ^ 8
  let d := planned [jobRec 7 2 2 0 []] [(0xA, [natLE f 64])]
  { d with eng := { d.eng with fus := { d.eng.fus with job := some 7, desc := some f, running := true } } }

/-- The job 7, a Finisher job locked to pin 7 with 100 µs periods, runs since time 0. -/
def jobLocked : Device := (planned [jobRec 7 2 1 0 [(14, 3, 7), (17, 1, 1), (64, 32, 100)]] []).setRun 7 started

theorem test_hyp_edges : fusionLocked.ceDescs = [] ∧ (∀ r ∈ fusionLocked.activeJobs, JobRec.pin r.image ≠ (7 : Fin 8).val)
    ∧ fusionLocked.fusionJob.map (fun r => (FusDesc.lockEn r.2, FusDesc.pin r.2)) = some (true, 7)
    ∧ fusionLocked.eng.fus.running = true
    ∧ (let d := looping 1 255 1 (loopAt 3)
       d.ceDesc (255 : Fin 256) = some (loopDesc 255 1) ∧ (d.slot 255).running = true ∧ (d.slot 255).gen.due = none
         ∧ CeDesc.lockEn (loopDesc 255 1) = true ∧ d.slotServed (loopDesc 255 1) = true
         ∧ reached d.ceNow ((d.slot 255).gen.windowEnd (CeDesc.period (loopDesc 255 1))) = true)
    ∧ (let d := advance 135000 jobLocked
       ((d.job 7).bind fun r => (d.lockedRun r).map fun x => (x.gen.due, reached d.hub (x.gen.windowEnd (lockPeriod r))))
         = some (none, true)) := by decide +kernel

/-- The job 7: class, engine, trigger, with a Hook 20 that counts 3. -/
def idleJob (cls trigger : Nat) (x : JobRun) : Device :=
  ((planned [jobRec 7 cls 1 trigger [(64, 32, 100), (96, 32, 100), (128, 16, 20)]] []).setRun 7 x).setHook 20
    { Hook.fresh with count := 3 }

theorem test_hyp_periodStart :
    (∀ cls ∈ [2, 3], ((idleJob cls 0 started).job 7).map (fun r => (r.background, (idleJob cls 0 started).nextDue r,
        ((idleJob cls 0 started).openPeriod r.id).isNone)) = some (cls == 3, some 0, true)
      ∧ (idleJob cls 0 started).run 7 = some started ∧ (idleJob cls 0 started).inBoundary 0 = false)
    ∧ started.idle = true ∧ reached (0 : Time) 0 = true ∧ (idleJob 3 0 started).pow.gov.barred = false
    ∧ (∀ cls ∈ [2, 3], ((idleJob cls 1 started).job 7).map (fun r => (r.background, JobRec.trigger r.image,
        (idleJob cls 1 started).unitInSlice r, ((idleJob cls 1 started).hook (JobRec.triggerHook r.image)).count))
          = some (cls == 3, 1, false, 3)) := by
  refine ⟨?_, ?_, ?_, ?_, ?_⟩ <;> decide +kernel

/-- A job that waits for its grant. -/
def waiting : JobRun := { started with phase := .waiting }

theorem test_hyp_grant : ((idleJob 3 1 waiting).job 7).map (fun r => (decide (r.engine = engTrestle),
    (idleJob 3 1 waiting).budgetOk r waiting 0, ((idleJob 3 1 waiting).variantTiles r 0).all (idleJob 3 1 waiting).tileFree))
      = some (false, true, true) := by decide +kernel

/-- A Trestle job 7 in class BACKGROUND with one variant on tile 5. -/
def tileJob (x : JobRun) : Device :=
  let p := natLE 1 32 ++ natLE (mkImage [(0, 16, 5), (32, 32, 1), (64, 32, 64)]) 16 ++ natLE 0 16 ++ natLE 0x10F 16
  (planned [jobRec 7 3 0 0 [(64, 32, 100), (96, 32, 100), (208, 48, 65536), (528, 13, 1)]] [(3, [p])]).setRun 7 x

/-- Its period on tile 5 in a phase. -/
def tilePeriod (ph : RunPhase) : JobRun := { started with phase := ph, period := some { onePeriod with left := [5] } }

def endedPeriod (cause done : Option (Status × Time)) : Device :=
  idleJob 2 0 { started with phase := .running, period := some { onePeriod with cause, done } }

/-- Tile 5 saves for job 7. -/
def saving : Device :=
  let d := tileJob { tilePeriod .saving with stopWait := [5] }
  let x := d.tile 5
  d.setTile 5 { x with t := { x.t with phase := .saving, job := some 7 } }

/-- Background work is barred by the governor. -/
def barredJob : Device := (tileJob (tilePeriod .running)).gov fun g => { g with barred := true }

theorem test_hyp_periodEnd :
    ((advance 120000 (endedPeriod none none)).openPeriod 7).map (fun o =>
        ((advance 120000 (endedPeriod none none)).isLate o.1 o.2.2, (o.1.deadline o.2.2).isSome)) = some (true, true)
    ∧ ((endedPeriod (some (stLate, 0)) none).openPeriod 7).map (fun o => o.2.2.cause.isSome) = some true
    ∧ ((endedPeriod none (some (stOk, 0))).openPeriod 7).map (fun o =>
        (o.2.2.cause, o.2.2.done, (endedPeriod none (some (stOk, 0))).isLate o.1 o.2.2)) = some (none, some (stOk, 0), false)
    ∧ (endedPeriod none (some (stOk, 0))).hookPending 7 = false := by
  refine ⟨?_, ?_, ?_, ?_⟩ <;> decide +kernel

theorem test_hyp_save :
    (barredJob.openPeriod 7).map (fun o => (o.1.background, o.1.engine, o.2.1.phase)) = some (true, engTrestle, .running)
    ∧ (barredJob.openPeriod 7).map (fun o => (o.2.2.cause, o.2.2.done)) = some (none, none) ∧ barredJob.pow.gov.barred = true
    ∧ (saving.openPeriod 7).map (fun o => o.2.1.phase) = some .saving ∧ saving.tileJob 5 = some 7
    ∧ (saving.tile (5 : Fin 4160)).t.phase = .saving
    ∧ ((tileJob (tilePeriod .saved)).openPeriod 7).map (fun o => (o.2.1.phase, o.2.2.left.all (tileJob (tilePeriod .saved)).tileFree,
        (tileJob (tilePeriod .saved)).budgetOk o.1 o.2.1 o.2.2.variant)) = some (.saved, true, true)
    ∧ (tileJob (tilePeriod .saved)).inBoundary 0 = false := by
  refine ⟨?_, ?_, ?_, ?_, ?_, ?_, ?_, ?_⟩ <;> decide +kernel

theorem test_hyp_saveErrors : (saving.storeRead 5 { corrected := 1, bad := [] } [(0, saveStore)]).2 = false
    ∧ (saving.storeRead 5 { corrected := 0, bad := [131071] } [(0, saveStore)]).2 = true
    ∧ (({ saving with saved := [(7 * 8192 + 5, saving.tile 5)] } : Device).saved.find (7 * 8192 + 5)).isSome = true := by
  decide +kernel
/-! ### Tiles -/

/-- A program image of one segment, and the segment in the command buffer. -/
def testCode : CodeImage := { part := 0, base := 0, segments := 1 }
def testSegment (prog : List Nat) : Segment :=
  { image := testCode, number := 0, words := prog.map fun w => some (BitVec.ofNat 128 w) }

/-- Job 7's tile 5 runs this program, changed by `f`; Hook 20 belongs to the job. -/
def tiled (prog : List Nat) (f : TileState → TileState) : Device :=
  let d := tileJob (tilePeriod .running)
  let x := d.tile 5
  let x := { x with t := { x.t with phase := .running, job := some 7, program := some testCode, nextId := 1 }
                    r := { x.r with segments := [testSegment prog] } }
  { d.setTile 5 (f x) with hooks := { d.hooks with alloc := [(20, { plan := 1, job := some 7, init := 0 })] } }

/-- A command of program order 0. -/
def entry (w : Nat) : QEntry := { id := 0, word := BitVec.ofNat 128 w, advance := 0, iter := 0, far := 0 }

/-- The tile with a command at the head of queue `k`. -/
def queued (k w : Nat) (f : TileState → TileState) : Device :=
  tiled [] fun x => let x := x.setQueue k [entry w]
                    f x

/-- HOOK_WAIT, HOOK_SIGNAL, HOOK_WAIT with TRY, LOOP, BRANCH_EPOCH with COND 0 and 1 on epoch 0, END. -/
theorem test_hyp_sequencer : ∀ w ∈ [mkImage [(0, 8, 7), (16, 16, 20), (32, 24, 1), (56, 4, 15)],
      mkImage [(0, 8, 8), (16, 16, 20), (32, 24, 1), (56, 4, 15)], mkImage [(0, 8, 7), (16, 16, 20), (32, 24, 1), (60, 1, 1)],
      mkImage [(0, 8, 9), (16, 16, 65535), (32, 9, 256)], mkImage [(0, 8, 10), (16, 1, 0)], mkImage [(0, 8, 10), (16, 1, 1)],
      mkImage [(0, 8, 15)]],
    ((tiled [w] id).tile 5).t.phase = .running ∧ ((tiled [w] id).tile 5).current = some (BitVec.ofNat 128 w)
      ∧ (((tiled [w] id).tile 5).placeAll (BitVec.ofNat 128 w)).isSome = true
      ∧ ((tiled [w] id).tile 5).t.epoch = 0 ∧ ((tiled [w] id).tile 5).allDone = true ∧ (tiled [w] id).tileJob 5 = some 7 := by
  decide +kernel

/-- A SEND's flight to tile 6, and a DMA's outward or inward. -/
def sendFlight : SendFlight := { cmd := entry 4, dest := 6, packets := [(0, [1])], span := [], hook := 20, count := 1 }
def dmaFlight (inbound : Bool) : DmaFlight :=
  { cmd := entry 5, inbound, runs := [], bad := [], pol := 0, span := [], hook := 20, count := 1 }

theorem test_hyp_tileControl :
    (let d := tiled [] fun x => { x with t := { x.t with phase := .starting } }
     (d.tile 5).t.phase = .starting ∧ ((d.tileJob (5 : Fin 4160)).bind d.openPeriod).isSome = true ∧ d.domOn (groupOf 5) = true
       ∧ ((d.tile 5).segment 0).isSome = true)
    ∧ ((tiled [] id).tile 5).t.program = some testCode
    ∧ (let m : WaitMark := { id := 0, units := 1, hook := 20, count := 1, sent := true, released := true }
       let d := tiled [] fun x => { x with r := { x.r with waits := [m] } }
       (d.tile 5).t.phase = .running ∧ (d.tile 5).r.waits.find? (·.released) = some m)
    ∧ (let d := tiled [] fun x => { x with t := { x.t with phase := .stopping } }
       (d.tile 5).t.phase = .stopping ∧ (d.tile 5).r.sends = [] ∧ (d.tile 5).r.dmas = [] ∧ d.signalsGone 5 = true
         ∧ (d.tile 5).t.job = some 7 ∧ (d.run 7).isSome = true)
    ∧ (let d := tiled [] fun x => { x with r := { x.r with sends := [sendFlight] } }
       (d.tile 5).r.sends[0]? = some sendFlight ∧ (d.tile 5).live = true ∧ (d.serving sendFlight.dest).isSome = true)
    ∧ (∀ i ∈ [true, false], ((tiled [] fun x => { x with r := { x.r with dmas := [dmaFlight i] } }).tile 5).flightOf i
        = some (dmaFlight i))
    ∧ (((tiled [] id).tileJob (5 : Fin 4160)).bind (tiled [] id).job).isSome = true := by decide +kernel

/-- The store errors of a clean read. -/
def noErrors : StoreErrors := { corrected := 0, bad := [] }

/-- PASS of one vector at 0, DIR 1. -/
def passWord : Nat := mkImage [(0, 8, 2), (16, 1, 1), (18, 4, 10), (22, 4, 10), (26, 6, 1)]

theorem test_hyp_arrayUnits :
    (let d := queued 0 (mkImage [(0, 8, 1), (40, 4, 10)]) id
     d.unitHead 5 0 0x01 = some (entry (mkImage [(0, 8, 1), (40, 4, 10)])))
    ∧ (let d := queued 0 passWord id
       d.unitHead 5 0 0x02 = some (entry passWord) ∧ (d.tile 5).r.closing.length < 2
         ∧ (d.storeRead 5 noErrors ((d.tile 5).touch (entry passWord)).reads).2 = false ∧ (d.tile 5).usedBad = false)
    ∧ (let d := queued 0 passWord fun x => { x with t := { x.t with poison := [0] } }
       d.unitHead 5 0 0x02 = some (entry passWord)
         ∧ (d.storeRead 5 noErrors ((d.tile 5).touch (entry passWord)).reads).2 = true) := by decide +kernel

/-- GATE of one beat from the drain (SRC 1) or the store (SRC 0). -/
def gateWord (src : Nat) : Nat := mkImage [(0, 8, 3), (16, 1, src), (20, 4, 10), (24, 4, 10), (64, 12, 1)]

theorem test_hyp_gateUnits :
    (let d := queued 1 (gateWord 1) fun x => { x with r := { x.r with closing := [([0], false)] } }
     (d.tile 5).r.drains = [] ∧ ((d.tile 5).queue 1).any (fun e => e.op == 0x03 && Gate.src e.w) = true
       ∧ (d.tile 5).r.closing = [([0], false)])
    ∧ (let c : PassCheck := { id := 0, sums := [(.fin false 1 0, .fin false 1 0), (.nan, .inf true)] }
       let d := tiled [] fun x => { x with r := { x.r with checks := [c] } }
       (d.tile 5).r.checks = [c] ∧ c.agrees [] = true ∧ c.agrees [(0, .off 1 (-40))] = false ∧ c.agrees [(0, .nonfinite)] = false)
    ∧ (let d := queued 1 (gateWord 0) id
       (d.tile 5).gateNext false = some (entry (gateWord 0)) ∧ d.mayRun 5 (entry (gateWord 0)) = true)
    ∧ (let d := queued 1 (gateWord 1) fun x => { x with r := { x.r with drains := [([0], false)] } }
       (d.tile 5).gateNext true = some (entry (gateWord 1)) ∧ d.mayRun 5 (entry (gateWord 1)) = true ∧ (d.tile 5).r.drains ≠ []) := by
  decide +kernel

/-- SEND of one word to a tile. -/
def sendWord (dest : Nat) : Nat := mkImage [(0, 8, 4), (32, 16, dest), (60, 13, 1), (73, 16, 20), (89, 8, 1)]

theorem test_hyp_send :
    (let d := queued 2 (sendWord 6) id
     d.unitHead 5 2 0x04 = some (entry (sendWord 6)) ∧ Send.srcQ (sendWord 6) = false ∧ (d.serving 6).isSome = true
       ∧ (d.storeRead 5 noErrors ((d.tile 5).touch (entry (sendWord 6))).reads).2 = false)
    ∧ (let d := queued 2 (sendWord 4096) id
       d.unitHead 5 2 0x04 = some (entry (sendWord 4096)) ∧ d.serving 4096 = none) := by decide +kernel

/-- A DMA descriptor of one row at 0x1000 in the store, and a DMA command that names it. -/
def dmaDesc (addr rows : Nat) : Nat := mkImage [(0, 48, addr), (48, 4, 10), (64, 16, 256), (80, 16, rows)]
def dmaWord (op : Nat) : Nat := mkImage [(0, 8, op), (16, 12, 128), (40, 16, 20), (56, 8, 1)]
def dmaReady (op addr rows : Nat) : Device := queued 3 (dmaWord op) fun x => x.putStore 0x1000 (natLE (dmaDesc addr rows) 32)

/-- An address of the KV window (R218). -/
def kvAddr : Nat := 0xF00000000000

theorem test_hyp_dma :
    (∀ r ∈ [0, 1], (dmaReady 5 256 r).unitHead 5 3 0x05 = some (entry (dmaWord 5)) ∧ (dmaReady 5 256 r).tileJob 5 = some 7
      ∧ dmaDescOk (((dmaReady 5 256 r).tile 5).desc (entry (dmaWord 5))) (entry (dmaWord 5)) false = (r == 1)
      ∧ kvRows (((dmaReady 5 256 r).tile 5).desc (entry (dmaWord 5))) (entry (dmaWord 5)) = false)
    ∧ (let d := dmaReady 5 kvAddr 1
       dmaDescOk ((d.tile 5).desc (entry (dmaWord 5))) (entry (dmaWord 5)) false = true
         ∧ kvRows ((d.tile 5).desc (entry (dmaWord 5))) (entry (dmaWord 5)) = true)
    ∧ (let d := dmaReady 6 256 1
       d.unitHead 5 3 0x06 = some (entry (dmaWord 6))
         ∧ dmaDescOk ((d.tile 5).desc (entry (dmaWord 6))) (entry (dmaWord 6)) true = true
         ∧ (let f := d.storeRead 5 noErrors [((entry (dmaWord 6)).addr (Dma.desc (dmaWord 6)), 32)]
            f.2 = false ∧ (f.1.storeRead 5 noErrors ((d.tile 5).touch (entry (dmaWord 6))).reads).2 = false))
    ∧ (let e := entry (dmaWord 5)
       ((dmaReady 5 256 1).storeRead 5 noErrors [(e.addr (Dma.desc e.w), 32)]).2 = false
         ∧ ((dmaReady 5 256 1).storeRead 5 { corrected := 0, bad := [0x1000] } [(e.addr (Dma.desc e.w), 32)]).2 = true)
    ∧ ((dmaReady 5 256 1).job 7).isSome = true := by decide +kernel

/-! ### Hook array -/

/-- A request is in flight; Hook 20 counts 3, with waiters of its job. -/
def requested (o : HookOp) (waiters : Nat) : Device :=
  let d := (tiled [] id).setHook 20 { count := 3, waiters := List.replicate waiters ⟨.tile 5, 9⟩, retry := [(⟨.tile 5, 1⟩, 0)], granted := [] }
  { d with hooks := { d.hooks with flight := [o] } }

theorem test_hyp_hookSignal : (at_ (requested (.signal (.tile 5) 7 20 1) 0)).isUp
    ∧ (requested (.signal (.tile 5) 7 20 1) 0).hooks.next 0 = some (.signal (.tile 5) 7 20 1)
    ∧ (requested (.signal (.tile 5) 7 20 1) 0).hookMine 7 20 = true ∧ (requested (.signal (.tile 5) 7 21 1) 0).hookMine 7 21 = false := by
  refine ⟨rfl, ?_⟩
  · decide +kernel

theorem test_hyp_hookWait : (∀ w ∈ [0, 31, 32], ∀ n ∈ [3, 4],
      (requested (.wait (.tile 5) 20 n) w).hooks.next 0 = some (.wait (.tile 5) 20 n)
        ∧ ((requested (.wait (.tile 5) 20 n) w).landed 0).hookAllowed (.tile 5) 20 = true
        ∧ ((requested (.wait (.tile 5) 20 n) w).hook 20).waiters.length = w ∧ ((requested (.wait (.tile 5) 20 n) w).hook 20).count = 3)
    ∧ (requested (.try (.tile 5) 20 1) 0).hooks.next 0 = some (.try (.tile 5) 20 1)
    ∧ ((requested (.try (.tile 5) 20 1) 0).landed 0).hookAllowed (.tile 5) 20 = true
    ∧ (tiled [] id).mayReset (255 : Fin 16384) = true
    ∧ (let d := tiled [] id
       ({ d with hooks := { d.hooks with alloc := [(256, { plan := 1, job := some 7, init := 0 })] } } : Device).mayReset 256 = false)
    ∧ ((requested (.wait (.tile 5) 20 1) 0).hook (20 : Fin 16384)).retry[0]? = some (⟨.tile 5, 1⟩, 0) := by decide +kernel

/-! ### Governor, power domains and memory errors -/

/-- Sensor 0 is calibrated to its raw reading. -/
def calibrated : Device :=
  let c : CalCopy := { seq := 9, complete := true, recs := [(calKey 3 0, natLE (mkImage [(32, 16, 32768)]) 8)] }
  { running with bur := { running.bur with nv := { running.bur.nv with calA := c } } }

/-- The sensors in use with their corrected readings. -/
def readings (d : Device) (raw : List (BitVec 16)) : List (Nat × Int) :=
  let rs := (raw.take 144).zipIdx.map fun (e : BitVec 16 × Nat) => d.corrected e.2 e.1.toInt
  (rs.zipIdx.map fun (e : Int × Nat) => (e.2, e.1)).filter fun e => d.pow.gov.inUse e.1

theorem test_hyp_junctionSensors : readings calibrated [6719] = [(0, 6719)] ∧ (∀ e ∈ readings calibrated [6719], e.2 < 6720)
    ∧ readings calibrated [7040] = [(0, 7040)] ∧ (∃ e ∈ readings calibrated [7040], 7040 ≤ e.2) := by decide +kernel

/-- A group is hot, die 1 has cooled, the power is over the limit, and a limit is held back, all since time 0. -/
def strained : Device := running.gov fun g =>
  { g with hotSince := [(143, 0)], heat := [⟨false, none⟩, ⟨true, some 0⟩, ⟨false, none⟩], overSince := some 0, limitSince := some 0 }

theorem test_hyp_governor :
    (let d := advance (1200 * 100000) strained
     d.pow.gov.hotSince.find? (fun e => reached d.hub (addT e.2 (usHub 100000))) = some (143, 0))
    ∧ (let d := advance (1200 * 1000) strained
       nth d.pow.gov.heat 1 ⟨false, none⟩ = ⟨true, some 0⟩ ∧ reached d.hub (addT 0 (usHub 1000)) = true)
    ∧ (let d := advance (1200 * 50) strained
       d.pow.gov.overSince = some 0 ∧ reached d.hub (addT 0 (usHub 50)) = true)
    ∧ (let d := advance (1200 * 10000) strained
       d.pow.gov.limitRaised = false ∧ d.pow.gov.limitSince = some 0 ∧ reached d.hub (addT 0 (usHub 10000)) = true) := by
  decide +kernel

/-- Domain 67, the last memory set, in a state; every other domain is off, but for what an entry to standby keeps. -/
def domain (x : DomState) : Device :=
  { running with pow := { running.pow with doms := List.replicate 67 .off ++ [x] } }

/-- The Drawer 0 enters standby. -/
def entering (d : Device) : Device :=
  let w := { Drawer.reset with state := .busy, copy := area 0x0706 1, going := true }
  { d with bur := { d.bur with drawers := setAt d.bur.drawers 0 w } }

/-- The domain is off, and its state lost. -/
def gone (d : Device) : Device := (d.setDom (67 : Fin 68) .off).loseDomain (67 : Fin 68)

theorem test_hyp_domains :
    (let d := advance (1200 * 1000) (domain (.on (some 0)))
     d.dom (67 : Fin 68) = .on (some 0) ∧ d.needed (67 : Fin 68) = false
       ∧ reached d.hub (addT 0 (usHub (idleUs (67 : Fin 68)))) = true)
    ∧ (domain (.goingOff 0 false)).dom (67 : Fin 68) = .goingOff 0 false
    ∧ (gone (domain (.goingOff 0 false))).enteringStandby = none ∧ (gone (domain (.goingOff 0 false))).needed 67 = false
    ∧ (gone (entering (domain (.goingOff 0 false)))).enteringStandby = some 0
    ∧ (gone (entering (domain (.goingOff 0 false)))).allOff = true
    ∧ (gone (entering (domain (.goingOff 0 false)))).pow.wake = none
    ∧ (gone (entering running)).allOff = false
    ∧ (domain (.goingOn 0)).dom (67 : Fin 68) = .goingOn 0 := by decide +kernel

/-- Memory set 3 has a line to scrub, and the persistent record is due. -/
def scrubbing : Device :=
  let d := running.setMemSet 3 { running.memSet 3 with demand := [5] }
  { d with bur := { d.bur with persistDue := some 0 } }

theorem test_hyp_scrubs : scrubbing.domOn (setDomain (3 : Fin 4)) = true ∧ (scrubbing.memSet (3 : Fin 4)).excluded = false
    ∧ (scrubbing.memSet (3 : Fin 4)).demand = [5] ∧ scrubbing.bur.persistDue.isSome = true := by decide +kernel

/-! ### Lectern and self-test -/

theorem test_hyp_lecternChecks : (at_ running).isAwake ∧ 1000 < (1001 : Int).natAbs ∧ (-1000 : Int).natAbs ≤ 1000
    ∧ (true ≠ running.lect.pinA) ∧ false = running.lect.pinA ∧ false = running.lect.pinB := by
  refine ⟨.inl rfl, ?_⟩
  · decide +kernel

/-- The watchdog was last kicked at time 0 with number 4. -/
def kicked : Device := running.lectern fun l => { l with wdSeq := 4, wdLast := some 0 }

theorem test_hyp_watchdog : kicked.lect.wdLast = some 0 ∧ ¬ (timeDiff (advance 3000000 kicked).hub 0 < kicked.lect.policy.window / 4)
    ∧ timeDiff (advance 2999999 kicked).hub 0 < kicked.lect.policy.window / 4 ∧ ¬ ((5 : BitVec 16) ≠ kicked.lect.wdSeq + 1)
    ∧ (6 : BitVec 16) ≠ kicked.lect.wdSeq + 1
    ∧ reached (advance 12000000 kicked).hub (addT 0 kicked.lect.policy.window) = true := by decide +kernel

/-- Slot 127 is monitored and runs; job 7's entry has an open check point at time 0 and stands behind RESULT_MISSING. Tokens and
a notification are on their way. -/
def slotEntry : MonEntry := monEntry (.slot 127) 0 0 false 1000 0
def jobEntry : MonEntry := { monEntry (.job 7) 1 1 false 0 100 with checks := [(0, false)], behind := true }

def monitored (n : Note) : Device := (looping 0 127 0 (loopAt 3)).lectern fun l =>
  { l with table := [jobEntry, slotEntry], tokens := [.start (.slot 127) 0, .result (.job 7) 1 0 stOk 0], inbox := [n] }

def note (st : Status) : Note := { status := st, kind := 1, source := 7, time := 0, again := false }

theorem test_hyp_monitor :
    ((monitored (note stLate)).takeToken true).map (fun a => (a.1, a.2.monEntryOf (.slot 127), a.2.monStarted (.slot 127)))
      = some (.start (.slot 127) 0, some slotEntry, true)
    ∧ ((monitored (note stLate)).takeToken false).map (fun a => (a.1, (a.2.lapse (.job 7) (a.2.hub - 1)).monEntryOf (.job 7)))
      = some (.result (.job 7) 1 0 stOk 0, some jobEntry)
    ∧ notPresent stOk = false ∧ jobEntry.checks.any (fun c => !c.2) = true
    ∧ (monitored (note stLate)).monEntryOf (.job 7) = some jobEntry ∧ reached (monitored (note stLate)).hub 0 = true
    ∧ jobEntry.startBy = none ∧ jobEntry.behind = true := by
  refine ⟨?_, ?_, ?_, ?_, ?_, ?_, ?_, ?_⟩ <;> decide +kernel

/-- The Lectern after it has taken and logged the notification. -/
def logged (st : Status) : Device := ((monitored (note st)).lectern fun l => { l with inbox := [] }).lectLog st 1 7

theorem test_hyp_notification : (monitored (note stLoopMismatch)).lect.inbox = [note stLoopMismatch] ∧ stLoopMismatch ≠ stThermal
    ∧ stPowerLimit ≠ stThermal := by decide +kernel

theorem test_hyp_notificationOnly : (logged stPowerLimit).noteCause (note stPowerLimit) = none := by decide +kernel

theorem test_hyp_notificationCause : (logged stLoopMismatch).noteCause (note stLoopMismatch) = some .loopMismatch := by decide +kernel

/-- Tile 4159 and the Fusion engine have tests: slices passed, in progress or not. -/
def tested (passed : Nat) (slice : Option Time) : Device :=
  let t (u : TestUnit) : UnitTest := { unit := u, passed, slice, lastPass := 0, lastSched := 0, overdue := false, failed := false }
  { running with tests := [t (.tile 4159), t (.engine .fusion)] }

theorem test_hyp_leakSample :
    reached (advance (1200000000 * 3600) running).hub (addT running.leakAt (usHub (1000000 * running.lect.policy.leakS))) = true := by
  decide +kernel

theorem test_hyp_selfTestStart : ∀ u ∈ [TestUnit.tile 4159, .engine .fusion], ((tested 1 none).test u).slice = none
    ∧ ((tested 1 none).test u).failed = false ∧ 0 < ((tested 1 none).test u).passed ∧ (tested 1 none).testable u = true
    ∧ (tested 1 none).sliceFits u = true := by decide +kernel

theorem test_hyp_selfTestDue : ((tested 0 none).test (.engine .fusion)).passed = 0
    ∧ reached (advance (1200000000 * 900) (tested 0 none)).hub (addT 0 (usHub (250000 * (tested 0 none).dtiS (.engine .fusion)))) = true
    ∧ ((tested 0 none).test (.engine .fusion)).overdue = false
    ∧ reached (advance (1200000000 * 3600) (tested 0 none)).hub
        (addT 0 (usHub (1000000 * (tested 0 none).dtiS (.engine .fusion)))) = true := by
  decide +kernel

theorem test_hyp_selfTestSlice : ((tested 2 (some 0)).test (.engine .fusion)).slice = some 0
    ∧ ((tested 2 (some 0)).test (.engine .fusion)).passed + 1 < slicesOf (.engine .fusion)
    ∧ ((tested 7 (some 0)).test (.tile 4159)).slice = some 0 ∧ slicesOf (.tile 4159) ≤ ((tested 7 (some 0)).test (.tile 4159)).passed + 1
    ∧ ((tested 7 (some 0)).test (.tile 4159)).overdue = false := by
  decide +kernel
end Sys2Proof.Tests
end

section
/-!
PROOF. The commands of one tile (O51, O52): the shells of a tile's rows, what their guards read after an earlier part of the
same command has written the tile, and from these the rows themselves.
-/

namespace Sys2Proof.Machine

/-! ### The shells of a tile's rows -/

theorem State.timed_eq_withDev {s : State} {now : Time} {d : Device} (hd : advance now s.dev = d) (g : Device → Device) :
    s.timed now g = s.withDev (g d) := by
  subst hd; rfl

/-- A row that acts while the Bureau runs answers what its effect makes of the device that time has brought to `now`. -/
theorem State.onUp_answers {s : State} {now : Time} {d e : Device} (up : s.isUp) (hd : advance now s.dev = d)
    (f : Device → Device) (hf : f d = e) : s.onUp now f = .next (s.withDev e) := by
  subst hd hf; exact State.onUp_up up now f

/-- A row of a running tile acts on the tile, and then the tile settles. -/
theorem State.onTile_answers {s : State} {now : Time} {t : Fin 4160} {d e : Device} {x : TileState} (up : s.isUp)
    (hd : advance now s.dev = d) (hx : d.tile t = x) (running : x.t.phase = .running) {f : Device → TileState → Device}
    (hf : f d x = e) : s.onTile now t f = .next (s.withDev (e.settleTile t)) := by
  subst hx
  exact State.onUp_answers up hd _ (by rw [if_pos running, hf])

/-! ### What one part of a command leaves for the next -/

/-- Errors of the system cache are counted and heal or spoil main memory; the tiles stay as they are (R626). -/
theorem Device.cacheErrors_tiles (d : Device) (ce : ChipErrors) : (d.cacheErrors ce).tiles = d.tiles := by
  unfold Device.cacheErrors
  refine List.foldlRecOn (motive := fun e : Device => e.tiles = d.tiles) _ _ rfl fun e he b _ => ?_
  dsimp only
  split
  · exact he
  · split <;> exact he

@[simp] theorem Device.cacheErrors_tile (d : Device) (ce : ChipErrors) (t : Nat) : (d.cacheErrors ce).tile t = d.tile t := by
  rw [Device.tile, Device.cacheErrors_tiles, Device.tile]

/-- Who serves an exposed id is read from what the tiles hold beside their run (R125): a change of the run of one of them leaves
it. -/
theorem Device.serving_setTile {d : Device} {t : Nat} {x : TileState} (hx : x.t = (d.tile t).t) (id : Nat) :
    (d.setTile t x).serving id = d.serving id := by
  have same (u : Nat) : ((d.setTile t x).tile u).t = (d.tile u).t := by
    rw [Device.tile_setTile]
    split
    · subst u; exact hx
    · rfl
  simp only [Device.serving, same]

@[simp] theorem Device.run_setTile (d : Device) (t : Nat) (x : TileState) (j : BitVec 16) : (d.setTile t x).run j = d.run j := rfl

/-- The oldest closing group becomes the only one that drains (R85). -/
theorem TileState.runDrain_cons {x : TileState} {g : List F32 × Bool} {rest : List (List F32 × Bool)} (idle : x.r.drains = [])
    (closing : x.r.closing = g :: rest) :
    x.runDrain =
      let half := if rest.isEmpty then !x.t.regs.half else x.t.regs.half
      { t := { x.t with regs := { x.t.regs with
          acc := (List.range g.1.length).foldl (fun (t : Tbl F32) i => t.put (accIndex half i) 0) x.t.regs.acc } }
        r := { x.r with closing := rest, drains := [g] } } := by
  simp [TileState.runDrain, closing, idle]

/-- While a group is open, or fewer than two wait to drain, a PASS does not wait for the half that it uses (R87). -/
theorem TileState.pass_has_half {x : TileState} (room : x.r.groupOpen = true ∨ x.r.closing.length < 2) :
    ¬ (x.r.groupOpen = false ∧ 2 ≤ x.r.closing.length) := by
  rintro ⟨shut, full⟩
  rcases room with opened | few
  · simp [opened] at shut
  · omega

/-- Without faults in the array's adders the sums themselves are compared (R660). -/
theorem PassCheck.agrees_nil (c : PassCheck) : c.agrees [] = c.sums.all fun p => sumsMatch p.1 p.2 := by
  have sums : c.sums = c.sums.zipIdx.map Prod.fst := by simp
  conv_rhs => rw [sums, List.all_map]
  rfl

/-! ### The rows -/

/-- Settles O51: each row's guards are decided by the conditions of its clause, and what is left is the row's effect. The TRYs
that a START carries over are the reading of log 63. -/
theorem tileControlRowsComplete : Obligations.TileControlRowsComplete := by
  intro s now t up d x
  have hd : advance now s.dev = d := rfl
  have hx : d.tile t = x := rfl
  clear_value x d
  simp -zeta only [State.timed_eq_withDev hd]
  refine ⟨?start, ?waitDone, ?refill, ?stopped, ?scrub, ?sendAck, ?visible⟩
  case start =>
    intro r y p starting period on loaded
    have loaded : (x.segment 0).isNone = false := by simpa using loaded
    refine State.onUp_answers up hd (·.acceptStart t) ?_
    simp only [Device.acceptStart, hx, starting, period, on, loaded]
    rfl
  case waitDone =>
    intro m running found
    show execHookWaitDone now t s = _
    exact State.onTile_answers up hd hx running (by rw [found])
  case refill =>
    intro me ce c program
    refine State.onUp_answers up hd (fun d => (d.cacheErrors ce).refill t me) ?_
    simp only [Device.refill, Device.cacheErrors_tile, hx, program] <;> rfl
  case stopped =>
    intro j y stopping sends dmas gone job run
    refine State.onUp_answers up hd (·.tileStopped t) ?_
    simp [Device.tileStopped, hx, stopping, sends, dmas, gone, job, run]
  case scrub =>
    intro on word
    refine ⟨?clean, ?corrected, ?uncorrectable⟩
    case clean =>
      show execTileScrub now t word .clean s = _
      exact State.onUp_answers up hd _ (by simp [on])
    case corrected =>
      show execTileScrub now t word .corrected s = _
      exact State.onUp_answers up hd _ (by simp [on, hx])
    case uncorrectable =>
      show execTileScrub now t word .uncorrectable s = _
      exact State.onUp_answers up hd _ (by simp [on, hx])
  case sendAck =>
    intro i f u sent first live serves
    have clear : (x.r.sends.take i).any (fun g => g.dest == f.dest) = false := by simpa using first
    have serves : (d.setTile t { x with r := { x.r with sends := x.r.sends.eraseIdx i } }).serving f.dest = some u := by
      rw [Device.serving_setTile (by rw [hx]), serves]
    refine State.onUp_answers up hd (·.sendAck t i) ?_
    simp only [Device.sendAck, hx, sent, live, clear, serves]
    rfl
  case visible =>
    intro f r live flight job
    refine State.onUp_answers up hd (·.dmaVisible t) ?_
    simp only [Device.dmaVisible, hx, flight, job, live] <;> rfl

/-- Settles O52: each unit's guards are decided by the conditions of its clause, and what is left is the unit's work. -/
theorem tileUnitRowsComplete : Obligations.TileUnitRowsComplete := by
  intro s now t up d x running
  have hd : advance now s.dev = d := rfl
  have hx : d.tile t = x := rfl
  clear_value x d
  simp -zeta only [State.timed_eq_withDev hd]
  refine ⟨?load, ?pass, ?poisoned, ?drain, ?compare, PassCheck.agrees_nil, ?gate⟩
  case load =>
    intro se e head
    show execLoadW now t se s = _
    exact State.onTile_answers up hd hx running (by rw [head])
  case pass =>
    intro se e f head room read good
    show execArrayPass now t se s = _
    exact State.onTile_answers up hd hx running (by simp [head, TileState.pass_has_half room, read, good])
  case poisoned =>
    intro se e f bad head room read poison
    have poison : bad = true ∨ x.usedBad = true := by simpa using poison
    show execArrayPass now t se s = _
    exact State.onTile_answers up hd hx running (by simp [head, TileState.pass_has_half room, read, poison])
  case drain =>
    intro g rest idle wanted closing
    show execDrain now t s = _
    exact State.onTile_answers up hd hx running (by simp [idle, wanted, TileState.runDrain_cons idle closing])
  case compare =>
    intro c rest oldest
    refine ⟨fun fs agrees => ?_, fun fs differs => ?_⟩
    · show execChecksumCompare now t fs s = _
      exact State.onTile_answers up hd hx running (by simp [oldest, agrees])
    · show execChecksumCompare now t fs s = _
      exact State.onTile_answers up hd hx running (by simp [oldest, differs])
  case gate =>
    intro drained se e next free values
    have ready : ¬ (drained = true ∧ x.r.drains = []) := fun ⟨fromDrain, empty⟩ => values fromDrain empty
    show execGateChain now t drained se s = _
    exact State.onTile_answers up hd hx running (by simp [next, free, ready])

end Sys2Proof.Machine
end

section
/-!
PROOF. A SIGNAL on one Hook (O14, O15): which waiters it releases, and what it withholds where the count would pass its limit.
-/

namespace Sys2Proof.Machine

/-! ### The release of waiters -/

/-- A count that covers the head of the wait list releases it and goes on with what is left (R182). -/
theorem releaseWaiters_of_covered {c : Nat} {w : Waiter} (covered : w.n ≤ c) (ws : List Waiter) :
    releaseWaiters c (w :: ws) =
      ((releaseWaiters (c - w.n) ws).1, w :: (releaseWaiters (c - w.n) ws).2.1, (releaseWaiters (c - w.n) ws).2.2) := by
  simp [releaseWaiters, covered]

/-- A head that the count does not cover keeps the whole list waiting (R182). -/
theorem releaseWaiters_of_uncovered {c : Nat} {w : Waiter} (short : c < w.n) (ws : List Waiter) :
    releaseWaiters c (w :: ws) = (c, [], w :: ws) := by
  simp [releaseWaiters, Nat.not_le.mpr short]

/-- The released waiters stand before the others in the list, each is paid from the count, and the count left does not cover the
new head (R182). -/
theorem releaseWaiters_spec (ws : List Waiter) : ∀ {c c' : Nat} {gone rest : List Waiter},
    releaseWaiters c ws = (c', gone, rest) →
      gone ++ rest = ws ∧ c' + (gone.map (·.n)).sum = c ∧ ∀ w, rest.head? = some w → c' < w.n := by
  induction ws with
  | nil =>
    rintro c c' gone rest ⟨⟩
    simp
  | cons w ws ih =>
    intro c c' gone rest released
    by_cases covered : w.n ≤ c
    · rw [releaseWaiters_of_covered covered] at released
      obtain ⟨rfl, rfl, rfl⟩ := by simpa only [Prod.mk.injEq] using released
      obtain ⟨split, paid, short⟩ := ih (c := c - w.n) rfl
      refine ⟨by rw [List.cons_append, split], ?_, short⟩
      rw [List.map_cons, List.sum_cons, Nat.add_left_comm, paid, Nat.add_sub_cancel' covered]
    · have short : c < w.n := Nat.not_le.mp covered
      rw [releaseWaiters_of_uncovered short] at released
      obtain ⟨rfl, rfl, rfl⟩ := by simpa only [Prod.mk.injEq] using released
      simpa using short

/-- A SIGNAL within the limit adds to the count and releases waiters (R182). -/
theorem Hook.signal_of_fits {h : Hook} {n : Nat} (fits : h.count + n ≤ maxCount) :
    h.signal n =
      let r := releaseWaiters (h.count + n) h.waiters
      some ({ h with count := r.1, waiters := r.2.2 }, r.2.1) := by
  simp [Hook.signal, Nat.not_lt.mpr fits]

/-- A SIGNAL that would take the count above its limit is refused (R183). -/
theorem Hook.signal_of_overflow {h : Hook} {n : Nat} (exceeds : maxCount < h.count + n) : h.signal n = none := by
  simp [Hook.signal, exceeds]

/-- Settles O14: a SIGNAL that is not refused is a run of `releaseWaiters`. -/
theorem signalReleasesInOrder : Obligations.SignalReleasesInOrder := by
  intro h h' n gone signalled
  by_cases exceeds : maxCount < h.count + n
  · rw [Hook.signal_of_overflow exceeds] at signalled
    contradiction
  · rw [Hook.signal_of_fits (Nat.not_lt.mp exceeds)] at signalled
    obtain ⟨rfl, rfl⟩ := by simpa only [Option.some.injEq, Prod.mk.injEq] using signalled
    obtain ⟨split, paid, short⟩ := releaseWaiters_spec h.waiters (c := h.count + n) rfl
    exact ⟨split, paid, short, rfl⟩

/-! ### What the cancelling of a period leaves alone -/

theorem Tbl.find_mapVals {α : Type} (t : Tbl α) (f : Nat → α → α) (i : Nat) : (t.mapVals f).find i = (t.find i).map (f i) := by
  induction t with
  | nil => rfl
  | cons e r ih =>
    obtain ⟨k, v⟩ := e
    by_cases here : i = k
    · subst here; simp [Tbl.mapVals, Tbl.find]
    · simpa [Tbl.mapVals, Tbl.find, here] using ih

/-- A requester that waits no longer leaves every Hook's count. -/
theorem HookArray.forgetWaits_count (a : HookArray) (who : Requester) (h : Nat) :
    ((a.forgetWaits who).hooks.getD h Hook.fresh).count = (a.hooks.getD h Hook.fresh).count := by
  simp only [HookArray.forgetWaits, Tbl.getD, Tbl.find_mapVals]
  cases a.hooks.find h <;> rfl

/-- The cancelling of a tile leaves the Hooks' counts, the jobs and the clocks (R165). -/
theorem Device.cancelTile_rest (d : Device) (t : Fin 4160) :
    (∀ h, ((d.cancelTile t).hook h).count = (d.hook h).count) ∧ (d.cancelTile t).jobs = d.jobs
      ∧ (d.cancelTile t).clk = d.clk := by
  unfold Device.cancelTile
  dsimp only
  split
  · exact ⟨fun _ => rfl, rfl, rfl⟩
  · exact ⟨fun h => HookArray.forgetWaits_count d.hooks (.tile t) h, rfl, rfl⟩

/-- As `Device.cancelTile_rest`, for all tiles of a job. -/
theorem Device.cancelTiles_rest (d : Device) (ts : List (Fin 4160)) :
    (∀ h, ((ts.foldl Device.cancelTile d).hook h).count = (d.hook h).count) ∧ (ts.foldl Device.cancelTile d).jobs = d.jobs
      ∧ (ts.foldl Device.cancelTile d).clk = d.clk := by
  refine List.foldlRecOn (motive := fun e : Device =>
    (∀ h, (e.hook h).count = (d.hook h).count) ∧ e.jobs = d.jobs ∧ e.clk = d.clk) ts _ ⟨fun _ => rfl, rfl, rfl⟩ ?_
  rintro e ⟨counts, jobs, clk⟩ t -
  obtain ⟨counts', jobs', clk'⟩ := e.cancelTile_rest t
  exact ⟨fun h => (counts' h).trans (counts h), jobs'.trans jobs, clk'.trans clk⟩

@[simp] theorem Device.hook_setRun (d : Device) (j : BitVec 16) (x : JobRun) (h : Nat) : (d.setRun j x).hook h = d.hook h := rfl

/-- A job's run reads as it was written. -/
@[simp] theorem Device.run_setRun (d : Device) (j : BitVec 16) (x : JobRun) : (d.setRun j x).run j = some x :=
  Tbl.find_put_self ..

/-- The cancelling of a period leaves the Hooks' counts (R550). -/
theorem Device.cancelPeriod_hook_count (d : Device) (j : BitVec 16) (st : Status) (h : Nat) :
    ((d.cancelPeriod j st).hook h).count = (d.hook h).count := by
  unfold Device.cancelPeriod
  split
  · rfl
  · split
    · rfl
    · exact (d.cancelTiles_rest _).1 h

theorem Device.withholdStop_hook_count (d : Device) (j : BitVec 16) (st : Status) (h : Nat) :
    ((d.withholdStop j st).hook h).count = (d.hook h).count := by
  have count := d.cancelPeriod_hook_count j st h
  unfold Device.withholdStop
  dsimp only
  split
  · exact count
  · exact count

/-- A job's open period is withheld with the cause, unless an earlier one stands (R820), and the job is stopped (R552). -/
theorem Device.run_withholdStop {d : Device} {j : BitVec 16} {r : JobRun} {p : Period} (run : d.run j = some r)
    (period : r.period = some p) (st : Status) :
    (d.withholdStop j st).run j =
      some { r with period := some { p with cause := some (laterCause p.cause st d.hub) }
                    phase := .cleaning, stopWait := d.jobTiles j, barred := true } := by
  have hub : ((d.jobTiles j).foldl Device.cancelTile d).hub = d.hub :=
    congrArg Clocks.hub (d.cancelTiles_rest (d.jobTiles j)).2.2
  simp only [Device.withholdStop, Device.cancelPeriod, run, period, hub, Device.run_setRun]

/-! ### The SIGNAL over the limit -/

/-- A SIGNAL that would take the count above its limit only withholds the period of the signaller's job, where it has one: with
ST_HOOK_OVERFLOW, or ST_ACCESS on a Hook that the job may not use (R183, R185). -/
theorem Device.signalHook_of_overflow {d : Device} {h n : Nat} (exceeds : maxCount < (d.hook h).count + n) (nonzero : n ≠ 0)
    (who : Requester) :
    d.signalHook who h n = match d.requesterJob who with
      | some j => d.withholdStop j (if d.hookAllowed who h then stHookOverflow else stAccess)
      | none => d := by
  unfold Device.signalHook
  rw [if_neg nonzero, Hook.signal_of_overflow exceeds]
  cases allowed : d.hookAllowed who h <;> rfl

/-- Settles O15: an overflowing SIGNAL is a `withholdStop` of the signaller's job, which leaves the counts. -/
theorem signalOverflowIsRefused : Obligations.SignalOverflowIsRefused := by
  intro d who h n exceeds nonzero
  have refused := Device.signalHook_of_overflow exceeds nonzero who
  refine ⟨?_, fun j r p allowed signaller run period => ?_⟩
  · rw [refused]
    split
    · exact d.withholdStop_hook_count ..
    · rfl
  · simp only [refused, signaller, allowed, if_true]
    exact ⟨_, _, Device.run_withholdStop run period stHookOverflow, rfl, rfl, rfl⟩

end Sys2Proof.Machine
end

section
/-!
PROOF. The rows of the Hook array (O54): what a WAIT does with a Hook, what the landing of an operation leaves alone, and from
these the rows.
-/

namespace Sys2Proof.Machine

/-! ### A WAIT on one Hook -/

/-- A WAIT that nobody stands before and that the count covers is done (R181). -/
theorem Hook.wait_of_covered {h : Hook} {w : Waiter} (empty : h.waiters = []) (covered : w.n ≤ h.count) :
    h.wait w = ({ h with count := h.count - w.n }, .done) := by
  simp [Hook.wait, empty, covered]

/-- A WAIT that may not be done joins the tail of a list with room (R181). -/
theorem Hook.wait_of_blocked {h : Hook} {w : Waiter} (blocked : h.waiters ≠ [] ∨ h.count < w.n)
    (room : h.waiters.length < 32) : h.wait w = ({ h with waiters := h.waiters ++ [w] }, .queued) := by
  have waits : ¬ (h.waiters.isEmpty = true ∧ w.n ≤ h.count) := by
    rintro ⟨empty, covered⟩
    rcases blocked with someone | short
    · exact someone (List.isEmpty_iff.mp empty)
    · exact Nat.not_le.mpr short covered
  rw [Hook.wait, if_neg waits, if_pos room]

/-- A WAIT on a Hook with 32 waiters is refused (R184). -/
theorem Hook.wait_of_full {h : Hook} {w : Waiter} (full : h.waiters.length = 32) : h.wait w = (h, .refused) := by
  have waits : ¬ (h.waiters.isEmpty = true ∧ w.n ≤ h.count) := by
    rintro ⟨empty, -⟩
    simp [List.isEmpty_iff.mp empty] at full
  rw [Hook.wait, if_neg waits, if_neg (by omega)]

/-! ### What the landing of an operation leaves alone -/

@[simp] theorem Device.landed_hook (d : Device) (i h : Nat) : (d.landed i).hook h = d.hook h := rfl
@[simp] theorem Device.landed_hub (d : Device) (i : Nat) : (d.landed i).hub = d.hub := rfl
@[simp] theorem Device.landed_hookMine (d : Device) (i : Nat) (j : BitVec 16) (h : Nat) :
    (d.landed i).hookMine j h = d.hookMine j h := rfl

/-! ### The rows -/

/-- Settles O54: each row's operation is the one in flight that the row names, and what it does is the Hook's own answer. That an
uncorrectable entry is not applied is the reading of log 34. -/
theorem hookArrayRowsComplete : Obligations.HookArrayRowsComplete := by
  intro s now i up d
  have hd : advance now s.dev = d := rfl
  clear_value d
  simp -zeta only [State.timed_eq_withDev hd]
  refine ⟨?signal, ?wait, ?attempt, ?reset, ?retry⟩
  case signal =>
    intro w j h n next
    refine ⟨fun mine => ?_, fun foreign => ?_, ?_⟩
    · show execHookArraySignal now i .clean s = _
      exact State.onUp_answers up hd _ (by simp [Device.applySignal, next, mine])
    · show execHookArraySignal now i .clean s = _
      exact State.onUp_answers up hd _ (by simp [Device.applySignal, next, foreign])
    · show execHookArraySignal now i .uncorrectable s = _
      exact State.onUp_answers up hd _ (by rw [next])
  case wait =>
    intro w h n next allowed
    refine ⟨fun empty covered => ?_, fun blocked room => ?_, fun full => ?_⟩
    all_goals
      show execHookArrayWait now i s = _
      refine State.onUp_answers up hd _ ?_
      simp only [next, Device.waitHook, allowed, Device.landed_hook]
    · simp [Hook.wait_of_covered (w := ⟨w, n⟩) empty covered]
    · simp [Hook.wait_of_blocked (w := ⟨w, n⟩) blocked room]
    · simp [Hook.wait_of_full full]
  case attempt =>
    intro t h n next allowed
    show execHookTry now i s = _
    exact State.onUp_answers up hd _ (by simp [Device.applyTry, next, allowed])
  case reset =>
    intro h
    refine ⟨fun may => ?_, fun mayNot => ?_⟩
    · show execHookArrayReset now h s = _
      exact State.onUp_answers up hd _ (by simp [may, Device.resetHook])
    · show execHookArrayReset now h s = _
      exact State.onUp_answers up hd _ (by simp [mayNot])
  case retry =>
    intro h w t refused due
    show execWaitRetry now h i s = _
    exact State.onUp_answers up hd _ (by simp [refused, due])

end Sys2Proof.Machine
end

section
/-!
PROOF. The rows of a tile's sequencer (O50) and of its Send and DMA units (O53).
-/

namespace Sys2Proof.Machine

/-! ### The sequencer -/

/-- The command unit at a command of the row's opcode does what the row makes of the tile. -/
theorem Device.atCommand_of_current {d : Device} {t : Fin 4160} {op : Nat} {f : TileState → BitVec 128 → Option TileState}
    {x y : TileState} {w : BitVec 128} (hx : d.tile t = x) (current : x.current = some w) (code : Cmd.op w.toNat = op)
    (acts : f x w = some y) : d.atCommand t op f = d.setTile t y := by
  subst hx
  simp only [Device.atCommand, current, code, acts, if_true]

/-- A command's entry carries its number, inside a loop or not (R160). -/
@[simp] theorem TileState.entryOf_id (x : TileState) (w : BitVec 128) : (x.entryOf w).id = x.t.nextId := by
  unfold TileState.entryOf
  split <;> rfl

/-- Settles O50: the tile is at the command of the row, so that the row makes of the tile what its clause says. That END does not
wait for a TRY is the reading of log 63. -/
theorem tileSequencerRowsComplete : Obligations.TileSequencerRowsComplete := by
  intro s now t w up d x running current
  have hd : advance now s.dev = d := rfl
  have hx : d.tile t = x := rfl
  clear_value x d
  simp -zeta only [State.timed_eq_withDev hd]
  refine ⟨?wait, ?signal, ?attempt, ?loop, ?branch, ?finish⟩
  case wait =>
    intro y code notTry placed
    show execHookWait now t s = _
    exact State.onTile_answers up hd hx running (Device.atCommand_of_current hx current code (by simp [notTry, placed]))
  case signal =>
    intro y code placed
    show execHookSignal now t s = _
    exact State.onTile_answers up hd hx running (Device.atCommand_of_current hx current code (by simp [placed]))
  case attempt =>
    intro code isTry
    show execHookWaitTry now t s = _
    exact State.onTile_answers up hd hx running (Device.atCommand_of_current hx current code (by simp [isTry]))
  case loop =>
    intro code
    show execLoopBody now t s = _
    exact State.onTile_answers up hd hx running (Device.atCommand_of_current hx current code rfl)
  case branch =>
    intro code
    refine ⟨fun taken => ?_, fun passed => ?_⟩
    · show execBranchEpoch now t s = _
      exact State.onTile_answers up hd hx running (Device.atCommand_of_current hx current code (by simp [taken]))
    · show execBranchEpoch now t s = _
      exact State.onTile_answers up hd hx running (Device.atCommand_of_current hx current code (by simp [passed]))
  case finish =>
    intro j code finished job
    show execEndProgram now t s = _
    exact State.onTile_answers up hd hx running (by simp [Device.tileEnd, hx, current, job, code, finished])

/-! ### Send and DMA -/

/-- A SEND from the queue that holds its words, or from the store, does not wait for its data (R149). -/
theorem TileState.send_has_data {x : TileState} {e : QEntry}
    (ready : Send.srcQ e.w = true → 32 * Send.words e.w ≤ x.r.sendQ.length) :
    ¬ (Send.srcQ e.w = true ∧ x.r.sendQ.length < 32 * Send.words e.w) :=
  fun ⟨fromQueue, few⟩ => Nat.not_le.mpr few (ready fromQueue)

/-- Settles O53: each unit's guards are decided by the conditions of its clause, and what is left is the transfer. A SEND to a tile
that nothing serves ends with ST_TILE_FENCED (R151), a descriptor that breaks the rules with ST_ACCESS (R822). -/
theorem tileTransferRowsComplete : Obligations.TileTransferRowsComplete := by
  intro s now t up d x running
  have hd : advance now s.dev = d := rfl
  have hx : d.tile t = x := rfl
  clear_value x d
  simp -zeta only [State.timed_eq_withDev hd]
  refine ⟨?send, ?fenced, ?dmaIn, ?dmaOut, ?landed⟩
  case send =>
    intro se e f head ready served read
    have served : (d.serving (Send.dest e.w)).isNone = false := by simpa using served
    show execMeshSend now t se s = _
    exact State.onTile_answers up hd hx running (by simp [head, TileState.send_has_data ready, served, read])
  case fenced =>
    intro se e head ready unserved
    show execMeshSend now t se s = _
    exact State.onTile_answers up hd hx running (by simp [head, TileState.send_has_data ready, unserved])
  case dmaIn =>
    intro se me ce e r f head job
    refine ⟨fun poisoned => ?_, fun read => ⟨fun ok direct => ?_, fun ok kv clean => ?_, fun broken => ?_⟩⟩
    all_goals
      show execDmaIn now t ⟨se, me⟩ ce s = _
      refine State.onTile_answers up hd hx running ?_
      simp only [head, job, Device.readDesc]
    · simp [poisoned]
    · simp [read, ok, direct]
    · simp [read, ok, kv, clean]
    · simp [read, broken]
  case dmaOut =>
    intro se e r g f head job ok descriptor data
    show execDmaOut now t se s = _
    exact State.onTile_answers up hd hx running (by simp [head, job, Device.readDesc, descriptor, ok, data])
  case landed =>
    intro f flight
    show execDmaInLanded now t s = _
    exact State.onTile_answers up hd hx running (by simp [flight])

end Sys2Proof.Machine
end

section
/-!
PROOF. The rows of KV streams (O29) and of state slots (O30): what each operation does where its conditions hold, and from these
the rows.
-/

namespace Sys2Proof.Machine

/-! ### The shell of a Drawer command -/

/-- An accepted row serves its Drawer with any effect that agrees with the row's own on the device from which the command has been
taken. -/
theorem State.drawerCommand_serves {s : State} {now : Time} {n : Fin 64} {op : Nat} {d : Device} (accepted : s.accepts now n op)
    (hd : (advance now s.dev).taken n = d) {f g : Device → Device} (same : f d = g d) :
    s.drawerCommand now n op f = .next (s.served now n g) := by
  subst hd
  rw [State.drawerCommand_accepted accepted, same]
  rfl

/-! ### KV streams -/

/-- A range of page-table entries that every stream's range lies before or behind clashes with none (R212). -/
theorem not_clash_of_free {streams : Tbl KvStream} {base count : Nat}
    (free : ∀ e ∈ streams, base + count ≤ KvRec.base e.2.record ∨ KvRec.base e.2.record + e.2.entries ≤ base) :
    (streams.any fun e => decide (KvRec.base e.2.record < base + count
      ∧ base < KvRec.base e.2.record + e.2.entries)) = false := by
  rw [List.any_eq_false]
  intro e mem overlap
  have overlap := of_decide_eq_true overlap
  have apart := free e mem
  omega

/-- KV_CLOSE of an open stream that no step uses takes it away (R713). -/
theorem Device.kvClose_of_idle {d : Device} {n : Fin 64} (opened : (d.kvStream (fld (d.params n) 15 0)).isSome = true)
    (idle : d.streamBusy (fld (d.params n) 15 0) = false) :
    d.kvClose n = (d.closeStream (fld (d.params n) 15 0)).reply n stOk [] := by
  simp [Device.kvClose, Option.isSome_iff_ne_none.mp opened, idle]

/-- KV_CLOSE of a stream that a step uses goes on, with its Drawer BUSY (R223). -/
theorem Device.kvClose_of_busy {d : Device} {n : Fin 64} (opened : (d.kvStream (fld (d.params n) 15 0)).isSome = true)
    (used : d.streamBusy (fld (d.params n) 15 0) = true) : d.kvClose n = d.goOn n := by
  simp [Device.kvClose, Option.isSome_iff_ne_none.mp opened, used]

/-- Settles O29: each command's checks are decided by the conditions of its clause, and what is left is the command's effect. -/
theorem kvRowsComplete : Obligations.KvRowsComplete := by
  intro s now n d p
  have hd : (advance now s.dev).taken n = d := rfl
  refine ⟨?opens, ?closes, ?busy, ?reads, ?pages⟩
  case opens =>
    intro accepted x inRange unused ppl₁ ppl₂ layers₁ layers₂ empty fits recorded free
    refine State.drawerCommand_serves accepted hd (if_neg ?_)
    rintro (bad | bad | bad | bad | bad | bad | bad | bad | clash | bad)
    · exact Nat.not_lt.mpr inRange bad
    · rw [unused] at bad; contradiction
    · exact Nat.ne_of_gt ppl₁ bad
    · exact Nat.not_lt.mpr ppl₂ bad
    · exact Nat.ne_of_gt layers₁ bad
    · exact Nat.not_lt.mpr layers₂ bad
    · exact bad empty
    · exact Nat.not_lt.mpr fits bad
    · exact Bool.false_ne_true ((not_clash_of_free free).symm.trans clash)
    · rw [Option.isNone_iff_eq_none] at bad; rw [bad] at recorded; contradiction
  case closes =>
    intro accepted opened idle
    exact State.drawerCommand_serves accepted hd (Device.kvClose_of_idle opened idle)
  case busy =>
    intro accepted opened used
    exact State.drawerCommand_serves accepted hd (Device.kvClose_of_busy opened used)
  case reads =>
    intro x accepted opened
    have opened : d.kvStream (fld (d.params n) 15 0) = some x := opened
    exact State.drawerCommand_serves accepted hd (by simp only [Device.kvRead, opened])
  case pages =>
    intro accepted least most fits
    refine State.drawerCommand_serves accepted hd (if_neg ?_)
    show ¬ (fld p 31 18 = 0 ∨ 8192 < fld p 31 18 ∨ 262144 < fld p 17 0 + fld p 31 18)
    omega

/-! ### State slots: the commands -/

section Commands

variable {d : Device} {n : Fin 64} {k : Nat} {r : JobRef} {rec' : Image} {x : StateSlot}
variable (hk : fld (d.params n) 11 0 = k) (slot : d.slotRec k = some (r, rec')) (hx : (d.syncChunks r).stSlot k = x)
include hk slot hx

/-- SLOT_SWAP_OUT of a slot whose contents are not in the tile stores, with nothing queued, replies at once (R249). -/
theorem Device.slotSwapOut_of_there (there : (x.phase = .swapped ∨ x.phase = .free) ∧ x.queue = []) :
    d.slotSwapOut n = (d.syncChunks r).reply n stOk [] := by
  subst hk hx
  simp only [Device.slotSwapOut, slot]
  exact if_pos there

/-- Another SLOT_SWAP_OUT waits in the slot's queue (R244). -/
theorem Device.slotSwapOut_of_waits (waits : ¬ ((x.phase = .swapped ∨ x.phase = .free) ∧ x.queue = [])) :
    d.slotSwapOut n =
      (((d.syncChunks r).goOn n).setStSlot k { x with queue := x.queue ++ [.swapOut n] }).runSlot k := by
  subst hk hx
  simp only [Device.slotSwapOut, slot]
  exact if_neg waits

/-- SLOT_SWAP_IN of a slot whose contents are in the tile stores, with no swap-out queued, replies at once (R249). -/
theorem Device.slotSwapIn_of_there (there : x.phase = .resident ∨ x.phase = .held ∨ x.phase = .free)
    (noOut : ∀ m, SlotReq.swapOut m ∉ x.queue) : d.slotSwapIn n = (d.syncChunks r).reply n stOk [] := by
  subst hk hx
  simp only [Device.slotSwapIn, slot]
  refine if_pos ⟨there, ?_⟩
  rw [Bool.not_eq_true', List.any_eq_false]
  intro q mem
  cases q with
  | swapOut m => exact absurd mem (noOut m)
  | swapIn | chunk => exact Bool.false_ne_true

/-- Another SLOT_SWAP_IN waits in the slot's queue (R244). -/
theorem Device.slotSwapIn_of_waits (waits : x.phase = .swapped ∨ x.phase = .swappingOut ∨ x.phase = .swappingIn
      ∨ ∃ m, SlotReq.swapOut m ∈ x.queue) :
    d.slotSwapIn n =
      (((d.syncChunks r).goOn n).setStSlot k { x with queue := x.queue ++ [.swapIn n] }).runSlot k := by
  subst hk hx
  simp only [Device.slotSwapIn, slot]
  refine if_neg ?_
  rintro ⟨there, noOut⟩
  rw [Bool.not_eq_true', List.any_eq_false] at noOut
  obtain away | away | away | ⟨m, mem⟩ := waits
  · simp [away] at there
  · simp [away] at there
  · simp [away] at there
  · exact noOut _ mem rfl

end Commands

/-! ### State slots: the ends of swaps -/

@[simp] theorem advance_stSlot (now : Time) (d : Device) (k : Nat) : (advance now d).stSlot k = d.stSlot k := by
  simp [Device.stSlot]

/-- Which Plans are active is read from the jobs' state alone. -/
@[simp] theorem advance_slotRec (now : Time) (d : Device) (k : Nat) : (advance now d).slotRec k = d.slotRec k := by
  rw [advance_eq]; rfl

section Swaps

variable {d : Device} {k : Nat} {r : JobRef} {rec' : Image} {x : StateSlot} (hx : d.stSlot k = x)
variable (slot : d.slotRec k = some (r, rec'))
include hx slot

/-- The end of a swap-out: with a poisoned byte among the slices the slot is where it was (log 45), else they stand in the swap
home (R246); a Drawer that asked for it is answered, and the queue goes on. -/
theorem Device.swapOutDone_of_swapping (swapping : x.phase = .swappingOut) {errs : List TileRead} {e : Device} {bs : Bytes}
    {bad : Bool} (read : d.readSlices errs (Config.slotSlices r.plan.bytes k) = (e, bs, bad)) :
    d.swapOutDone k errs =
      let y : StateSlot := { x with busyFor := none }
      let f := if bad = true then e.setStSlot k y.settled
        else (e.writeLines r.part (SlotRec.home rec') bs).setStSlot k { y with phase := .swapped }
      (x.busyFor.elim f fun m => f.reply m (if bad then stUncorrectable else stOk) []).runSlot k := by
  simp only [Device.swapOutDone, hx, swapping, slot, read, beq_self_eq_true]
  cases x.busyFor <;> cases bad <;> rfl

variable {c : Nat} (hc : ((Config.slotSlices r.plan.bytes k).map (·.2.2)).foldl (· + ·) 0 = c) {e : Device}
variable (swapping : x.phase = .swappingIn)
include hc swapping

/-- The end of a swap-in whose home could be read: the slices are back in the tile stores (R247), a Drawer that asked for it is
answered, and the queue goes on. -/
theorem Device.swapInDone_of_read (read : d.hubRead r.part (SlotRec.home rec') c = (e, false)) :
    d.swapInDone k false =
      let back := e.restoreSlices (e.readView r.part (SlotRec.home rec') c) (Config.slotSlices r.plan.bytes k)
      let f := back.setStSlot k ({ x with busyFor := none } : StateSlot).settled
      (x.busyFor.elim f fun m => f.reply m stOk []).runSlot k := by
  simp only [Device.swapInDone, hx, swapping, slot, hc, read, beq_self_eq_true]
  cases x.busyFor <;> rfl

variable {bad ue : Bool} (read : d.hubRead r.part (SlotRec.home rec') c = (e, bad)) (failed : (bad || ue) = true)
include read failed

/-- The end of a swap-in for a Drawer, whose home could not be read: the slot stays SWAPPED and the Drawer is told (R250). -/
theorem Device.swapInDone_of_unread_asked {m : Fin 64} (asked : x.busyFor = some m) :
    d.swapInDone k ue =
      ((e.setStSlot k { x with phase := .swapped, busyFor := none }).reply m stUncorrectable []).runSlot k := by
  simp only [Device.swapInDone, hx, swapping, slot, hc, read, failed, asked, beq_self_eq_true, if_true]

/-- The end of a swap-in for a chunk, whose home could not be read: the slot stays SWAPPED, and the chunk at its head is removed
(R250). -/
theorem Device.swapInDone_of_unread_chunk (unasked : x.busyFor = none) :
    d.swapInDone k ue =
      let f := if x.queue.head?.any isChunk then e.modPeriod r.id fun p => { p with removed := p.removed + 1 } else e
      let next := ((e.run r.id).map fun u => u.nextSeq).getD 0
      let gone : StateSlot := { x with phase := .swapped, busyFor := none }
      ((f.setStSlot k (gone.dropHead stUncorrectable next)).dropUnits r).runSlot k := by
  simp only [Device.swapInDone, hx, swapping, slot, hc, read, failed, unasked, beq_self_eq_true, if_true]

end Swaps

/-! ### State slots: the rows -/

/-- While the Bureau runs, the end of a swap-out lets jobs start that waited for it. -/
theorem exec_swapOutDone_of_up {s : State} {now : Time} {j : Fin 4096} {errs : List TileRead} {e : Device} (up : s.isUp)
    (he : (advance now s.dev).swapOutDone j errs = e) :
    exec (.swapOutDone now ⟨j, errs⟩) s = .next (s.withDev e.settleStarts) :=
  State.onUp_answers up rfl (fun d => (d.swapOutDone j errs).settleStarts) (congrArg Device.settleStarts he)

/-- While the Bureau runs, the end of a swap-in lets jobs start that waited for it. -/
theorem exec_swapInDone_of_up {s : State} {now : Time} {j : Fin 4096} {ue : Bool} {e : Device} (up : s.isUp)
    (he : (advance now s.dev).swapInDone j ue = e) :
    exec (.swapInDone now j ue) s = .next (s.withDev e.settleStarts) :=
  State.onUp_answers up rfl (fun d => (d.swapInDone j ue).settleStarts) (congrArg Device.settleStarts he)

/-- Settles O30: a command's clause says where its slot stands once the chunks at the Hook have joined its queue (log 45), and the
clause of a swap's end whether the bytes could be read and whether a Drawer waits for the swap. -/
theorem stateSlotRowsComplete : Obligations.StateSlotRowsComplete := by
  intro s now n d k
  have hd : (advance now s.dev).taken n = d := rfl
  have hk : fld (d.params n) 11 0 = k := rfl
  clear_value k d
  refine ⟨?swapOut, ?swapIn, ?withdraw, ?outDone, ?inDone⟩
  case swapOut =>
    intro r rec' accepted slot x
    refine ⟨fun away empty => ?_, fun waits => ?_⟩
    · exact State.drawerCommand_serves accepted hd (Device.slotSwapOut_of_there hk slot rfl ⟨away, empty⟩)
    · exact State.drawerCommand_serves accepted hd (Device.slotSwapOut_of_waits hk slot rfl waits)
  case swapIn =>
    intro r rec' accepted slot x
    refine ⟨fun there noOut => ?_, fun waits => ?_⟩
    · exact State.drawerCommand_serves accepted hd (Device.slotSwapIn_of_there hk slot rfl there noOut)
    · exact State.drawerCommand_serves accepted hd (Device.slotSwapIn_of_waits hk slot rfl waits)
  case withdraw =>
    intro r rec' accepted slot x
    refine State.drawerCommand_serves accepted hd ?_
    simp only [Device.slotWithdraw, hk, slot]
    rfl
  case outDone =>
    intro j r rec' errs e bs bad up swapping slot read y f
    have done := Device.swapOutDone_of_swapping (advance_stSlot now s.dev j) ((advance_slotRec ..).trans slot) swapping read
    refine ⟨fun m asked => ?_, fun unasked => ?_⟩
    · rw [asked] at done
      exact exec_swapOutDone_of_up up done
    · rw [unasked] at done
      exact exec_swapOutDone_of_up up done
  case inDone =>
    intro j r rec' up swapping slot c g x back gone here
    have hx : (advance now s.dev).stSlot j = x := advance_stSlot ..
    have slot : (advance now s.dev).slotRec j = some (r, rec') := (advance_slotRec ..).trans slot
    refine ⟨fun m ue asked failed => ?_, fun m asked read => ?_, fun ue unasked failed => ?_, fun unasked read => ?_⟩
    · exact exec_swapInDone_of_up up (Device.swapInDone_of_unread_asked hx slot rfl swapping rfl failed asked)
    · have done := Device.swapInDone_of_read hx slot rfl swapping (Prod.ext rfl read)
      rw [asked] at done
      exact exec_swapInDone_of_up up done
    · exact exec_swapInDone_of_up up (Device.swapInDone_of_unread_chunk hx slot rfl swapping rfl failed unasked)
    · have done := Device.swapInDone_of_read hx slot rfl swapping (Prod.ext rfl read)
      rw [unasked] at done
      exact exec_swapInDone_of_up up done

end Sys2Proof.Machine
end

section
/-!
PROOF. The short packets, the skew calibrations and the output events of the CSI-2 ports (O37).
-/

namespace Sys2Proof.Machine

/-! ### The shell of an event -/

/-- While the Bureau runs, an event has any effect that agrees with the row's own on the device that time has brought to `now`. -/
theorem State.onUp_timed {s : State} {now : Time} {d : Device} (up : s.isUp) (hd : advance now s.dev = d) {f g : Device → Device}
    (same : f d = g d) : s.onUp now f = .next (s.timed now g) :=
  (State.onUp_answers up hd f same).trans (by rw [State.timed_eq_withDev hd])

/-! ### What the time of a port leaves alone -/

@[simp] theorem advance_domOn (now : Time) (d : Device) (k : Nat) : (advance now d).domOn k = d.domOn k := by
  simp [Device.domOn, Device.dom]

@[simp] theorem advance_inPowered (now : Time) (d : Device) (p : Nat) : (advance now d).inPowered p = d.inPowered p :=
  advance_domOn ..

@[simp] theorem advance_nthOut (now : Time) (d : Device) (p : Nat) : nthOut (advance now d) p = nthOut d p := by
  simp [nthOut]

/-- A port's stamp moves its counter, and the ports' registers stay. -/
@[simp] theorem Device.portAt_ports (d : Device) (dom : Nat) (t : Time) : (d.portAt dom t).ports = d.ports := by
  unfold Device.portAt
  split <;> rfl

@[simp] theorem Device.portAt_nthOut (d : Device) (dom : Nat) (t : Time) (p : Nat) : nthOut (d.portAt dom t) p = nthOut d p := by
  simp [nthOut]

/-! ### The check of a packet's header (R259) -/

@[simp] theorem Device.header_ok (d : Device) (port : Fin 12) : d.header port .ok = (d, true) := rfl

/-- A header that cannot be corrected is counted, and its packet goes no further. -/
theorem Device.header_bad (d : Device) (port : Fin 12) :
    d.header port .bad =
      (d.setIn port.val { d.inPort port.val with hdrDropped := sat32 ((d.inPort port.val).hdrDropped + 1) }, false) := rfl

/-! ### The rows -/

/-- Settles O37: the port is powered and the header decides whether the packet goes on; an output port is free for what its row
does. -/
theorem portEventRowsComplete : Obligations.PortEventRowsComplete := by
  refine ⟨?packets, fun s now up => ⟨?input, ?output, ?free⟩⟩
  case packets =>
    intro s now p up powered at_
    have powered : (advance now s.dev).inPowered p.port.val = true := by simpa using powered
    refine ⟨fun good => ⟨fun start => ?_, fun finish => ?_, ?line, ?generic⟩, fun bad c row => ?dropped⟩
    · show execFrameStart now p s = _
      exact State.onUp_timed up rfl (by simp only [powered, start, good, Device.header_ok]; rfl)
    · show execFrameEnd now p s = _
      exact State.onUp_timed up rfl (by simp only [powered, finish, good, Device.header_ok]; rfl)
    case line =>
      show execLineShortPacket now p s = _
      exact State.onUp_timed up rfl (by simp only [powered, good, Device.header_ok]; rfl)
    case generic =>
      show execGenericShortPacket now p s = _
      exact State.onUp_timed up rfl (by simp only [powered, good, Device.header_ok]; rfl)
    case dropped =>
      obtain rfl | rfl : c = .lineShortPacket now p ∨ c = .genericShortPacket now p := by simpa using row
      · show execLineShortPacket now p s = _
        exact State.onUp_timed up rfl (by simp only [powered, bad, Device.header_bad]; rfl)
      · show execGenericShortPacket now p s = _
        exact State.onUp_timed up rfl (by simp only [powered, bad, Device.header_bad]; rfl)
  case input =>
    intro p lanes deskewed powered
    show execInputSkewCalibration now p lanes deskewed s = _
    exact State.onUp_timed up rfl (by simp only [advance_inPowered, powered]; rfl)
  case output =>
    intro p on enabled wire queue
    show execOutputSkewCalibration now p s = _
    exact State.onUp_timed up rfl (if_pos (by simp [on, enabled, wire, queue]))
  case free =>
    intro p t busy
    show execOutputPortFree now p t s = _
    refine State.onUp_timed up rfl (if_neg ?_)
    simpa using busy

end Sys2Proof.Machine
end

section
/-!
PROOF. The packets of samples (O38), the decoders (O40), and the records, windows and test frames (O41).
-/

namespace Sys2Proof.Machine

/-! ### Reading a stream -/

@[simp] theorem advance_stream (now : Time) (d : Device) (tag : BitVec 12) : (advance now d).stream tag = d.stream tag := by
  simp [Device.stream]

/-- A stream reads as it was written. -/
@[simp] theorem Device.stream_setStream (d : Device) (tag : BitVec 12) (x : Stream) : (d.setStream tag x).stream tag = some x :=
  Tbl.find_put_self ..

/-! ### The packets of samples -/

/-- A packet of data type 0x35 or 0x36 that its port accepts goes to the sample of the stream that it names (R267). -/
theorem Device.userPacket_of_ok {d e f : Device} {p : Pkt} {h : Image} {t : BitVec 12} {q : BitVec 32}
    (arrives : d.arrive p = (e, .ok h)) (named : e.userStream p h = some t)
    (sample : e.packetSample t h p.port p.portTime = (f, some q)) (g : Device → BitVec 12 → BitVec 32 → Image → Device) :
    d.userPacket p g = g f t q h := by
  simp only [Device.userPacket, arrives, named, sample]

/-- Settles O38: what the port makes of the packet and which stream it names leave one branch of each row. -/
theorem samplePacketRowsComplete : Obligations.SamplePacketRowsComplete := by
  intro s now p e h up
  generalize hd : advance now s.dev = d
  intro tags
  have htags : d.streamsOn p.port.val p.vc.toNat (fun x => StreamDesc.isFrame x && StreamDesc.dt x == p.dt.toNat) = tags := rfl
  clear_value tags
  refine ⟨?line, ?badCrc, ?unbound, ?embedded, ?jpeg, ?point⟩
  case line =>
    intro t y mine one arrives bound arriving
    show execImageLinePacket now p s = _
    refine State.onUp_answers up hd _ ?_
    simp [mine, arrives, htags, one, Option.isNone_eq_false_iff.mpr bound, arriving]
  case badCrc =>
    intro t y mine one arrives arriving
    show execImageLinePacket now p s = _
    refine State.onUp_answers up hd _ ?_
    simp [mine, arrives, htags, one, arriving, stCorrupt]
  case unbound =>
    intro mine arrives unbound
    show execImageLinePacket now p s = _
    refine State.onUp_answers up hd _ ?_
    have all : (tags.all fun t => ((e.stream t).bind fun x => x.desc).isNone) = true := by simpa using unbound
    simp [mine, arrives, htags, all]
  case embedded =>
    intro t y type arrives one arriving tests first
    show execEmbeddedDataPacket now p s = _
    refine State.onUp_answers up hd _ ?_
    simp [type, arrives, one, arriving, tests, first]
  case jpeg =>
    intro t q f type arrives named sample
    show execJpegPacket now p s = _
    refine State.onUp_answers up hd _ ?_
    simp [type, Device.userPacket_of_ok arrives named sample]
  case point =>
    intro t q f type arrives named sample
    show execPointPacket now p s = _
    refine State.onUp_answers up hd _ ?_
    simp [type, Device.userPacket_of_ok arrives named sample]

/-! ### The decoders -/

/-- Settles O40: the queue and the sample's stage, work and image decide each row. -/
theorem decoderRowsComplete : Obligations.DecoderRowsComplete := by
  intro s now up
  simp -zeta only [← advance_stream now s.dev, ← advance_ing now s.dev]
  generalize hd : advance now s.dev = d
  refine ⟨?take, ?done, ?cap⟩
  case take =>
    intro k tag seq rest queue idle free
    show execDecoderTake now k s = _
    refine State.onUp_timed up hd ?_
    simp [queue, idle, free]
  case done =>
    intro tag seq work x y stream live decoding whole
    refine ⟨fun capped => ?_, fun below list => ?_, fun g below image decoded => ?_⟩
    · show execDecodeDone now tag seq work s = _
      refine State.onUp_timed up hd ?_
      simp [stream, live, decoding, whole, capped, stTimeout]
    · show execDecodeDone now tag seq work s = _
      refine State.onUp_timed up hd ?_
      simp [stream, live, decoding, whole, Nat.not_le.mpr below, list]
    · show execDecodeDone now tag seq work s = _
      refine State.onUp_timed up hd ?_
      simp [stream, live, decoding, whole, Nat.not_le.mpr below, image, decoded]
  case cap =>
    intro tag seq x y stream live decoding
    show execWorkCapReached now tag seq s = _
    refine State.onUp_timed up hd ?_
    simp [stream, live, decoding, stTimeout]

/-! ### Records, windows and test frames -/

/-- Settles O41: the batch, group or test frame that the row finds is the one of its clause. That a batch whose window ends
lists its samples with ST_LATE at stage 3 is the reading of log 64. -/
theorem recordRowsComplete : Obligations.RecordRowsComplete := by
  intro s now up
  simp -zeta only [← advance_stream now s.dev, ← advance_ing now s.dev]
  generalize hd : advance now s.dev = d
  refine ⟨?post, ?batch, ?window, ?group, ?test⟩
  case post =>
    intro tag x b r dest stream closed home
    show execRecordPost now tag s = _
    refine State.onUp_timed up hd ?_
    simp only [Device.postRecord, stream, closed, home] <;> rfl
  case batch =>
    intro tag x b stream due mem isDue
    have someDue : ¬ (!x.batches.any due) = true := by simpa using ⟨b, mem, isDue⟩
    show execBatchWindowExpiry now tag s = _
    refine State.onUp_timed up hd ?_
    simp only [stream]
    exact if_neg someDue
  case window =>
    intro k g group
    show execGroupWindowExpiry now k s = _
    refine State.onUp_timed up hd ?_
    simp only [group]
  case group =>
    intro k g i p group posted next e part
    show execGroupRecordPost now k s = _
    refine State.onUp_timed up hd ?_
    simp only [group, posted]
    have part : Device.hookPart { d with ing := { d.ing with groups := d.ing.groups.put k next } } (GroupRec.hook g.record)
      = some p := part
    rw [part]
  case test =>
    intro tag crc x p desc stream pattern bound
    refine ⟨fun agrees => ?_, fun differs => ?_⟩
    · show execTestFrameCompare now tag crc s = _
      refine State.onUp_timed up hd ?_
      simp [stream, pattern, bound, agrees]
    · show execTestFrameCompare now tag crc s = _
      refine State.onUp_timed up hd ?_
      simp [stream, pattern, bound, differs]

end Sys2Proof.Machine
end

section
/-!
PROOF. The commands that bind streams, outbound tags and aligned groups (O28).
-/

namespace Sys2Proof.Machine

/-! ### STREAM_BIND -/

/-- A binding within the limit of 4,096, or of a tag that is bound already, is not refused for it (R265). -/
theorem Device.not_overLimit {d : Device} {tag : Nat} (room : d.inboundCount < 4096 ∨ d.boundIn tag = true) :
    ¬ (4096 ≤ d.inboundCount ∧ (!d.boundIn tag) = true) := by
  rintro ⟨full, unbound⟩
  rcases room with room | bound
  · exact Nat.not_le.mpr room full
  · simp [bound] at unbound

/-- A binding of a feedback tag that no check refuses is in force at once (R264, R787). -/
theorem Device.bindFeedback_of_fits {d : Device} {n : Fin 64} {x : Image} (rest : x / 2 ^ 4 % 2 ^ 4 + x / 2 ^ 48 = 0)
    (port : StreamDesc.port x ≤ 11) (tag : StreamDesc.tag x ≤ 4095)
    (vc : StreamDesc.vc x ≤ 15 ∨ Config.strapPhy (StreamDesc.port x) = true) (here : d.boundElsewhere x = false)
    (room : d.inboundCount < 4096 ∨ d.boundIn (StreamDesc.tag x) = true) :
    d.bindFeedback n x = (({ d with ing :=
      { d.ing with feedback := d.ing.feedback.put (StreamDesc.tag x) x } }).settleDomains).reply n stOk [] := by
  have channel : ¬ (15 < StreamDesc.vc x ∧ (!Config.strapPhy (StreamDesc.port x)) = true) := by
    rintro ⟨beyond, phy⟩
    rcases vc with within | strapped
    · exact Nat.not_lt.mpr within beyond
    · simp [strapped] at phy
  simp only [Device.bindFeedback, rest, Nat.not_lt.mpr port, Nat.not_lt.mpr tag, channel, here, Device.not_overLimit room,
    ne_eq, not_true_eq_false, Bool.false_eq_true, or_self, if_false]

/-- A binding of a decoded stream that keeps the rules of the descriptor is refused for none of them (R263). -/
theorem Device.descriptor_fits {d : Device} {x : Image} (type : decoderDt (StreamDesc.decoder x) = some (StreamDesc.dt x))
    (ranges : StreamDesc.rangesOk x = true) (sizes : StreamDesc.sizesOk x = true) (fields : StreamDesc.fieldsOk x = true)
    (here : d.boundElsewhere x = false)
    (tests : StreamDesc.testLines x = true → (d.testLine (StreamDesc.tag x)).isSome = true) :
    ¬ (decoderDt (StreamDesc.decoder x) ≠ some (StreamDesc.dt x) ∨ (!StreamDesc.rangesOk x) = true
      ∨ (!StreamDesc.sizesOk x) = true ∨ (!StreamDesc.fieldsOk x) = true ∨ d.boundElsewhere x = true
      ∨ (StreamDesc.testLines x = true ∧ (d.testLine (StreamDesc.tag x)).isNone = true)) := by
  simpa [type, ranges, sizes, fields, here, Option.isSome_iff_ne_none] using tests

/-! ### STREAM_UNBIND, OUT_BIND and GROUP_SET -/

section Unbind

variable {d : Device} {n : Fin 64} {k : Nat} (hk : fld (d.params n) 15 0 = k)
include hk

/-- An outbound tag is unbound at once (R264, R713). -/
theorem Device.streamUnbind_of_outbound (outbound : bitAt (d.params n) 16 = true) :
    d.streamUnbind n =
      (({ d with ports := { d.ports with outBinds := d.ports.outBinds.del k } }).settleDomains).reply n stOk [] := by
  subst hk
  exact if_pos outbound

variable (inbound : bitAt (d.params n) 16 = false)
include inbound

/-- A feedback tag is unbound at once (R264). -/
theorem Device.streamUnbind_of_feedback (bound : (d.ing.feedback.find k).isSome = true) :
    d.streamUnbind n =
      (({ d with ing := { d.ing with feedback := d.ing.feedback.del k } }).settleDomains).reply n stOk [] := by
  subst hk
  simp only [Device.streamUnbind, inbound, bound, Bool.false_eq_true, if_false, if_true]

variable (decoded : d.ing.feedback.find k = none)
include decoded

/-- A decoded stream that is in force is unbound at its next frame or sample (R264). -/
theorem Device.streamUnbind_of_inForce {y : Stream} (stream : d.ing.streams.find k = some y) (bound : y.desc.isSome = true) :
    d.streamUnbind n =
      ({ d with ing := { d.ing with streams := d.ing.streams.put k { y with pending := some none } } }).reply n stOk [] := by
  subst hk
  simp only [Device.streamUnbind, inbound, decoded, stream, bound, Option.isSome_none, Bool.false_eq_true, if_false, if_true]

/-- A binding of a decoded stream that has not taken effect is withdrawn at once (log 64). -/
theorem Device.streamUnbind_of_pending {y : Stream} (stream : d.ing.streams.find k = some y) (waits : y.desc = none) :
    d.streamUnbind n =
      ((({ d with ing := { d.ing with streams := d.ing.streams.put k { y with pending := none } } }).settleStream
        (BitVec.ofNat 12 k)).settleDomains).reply n stOk [] := by
  subst hk
  simp only [Device.streamUnbind, inbound, decoded, stream, waits, Option.isSome_none, Bool.false_eq_true, if_false]

/-- A tag that is not bound stays so. -/
theorem Device.streamUnbind_of_unbound (unbound : d.ing.streams.find k = none) : d.streamUnbind n = d.reply n stOk [] := by
  subst hk
  simp only [Device.streamUnbind, inbound, decoded, unbound, Option.isSome_none, Bool.false_eq_true, if_false]

end Unbind

/-- An outbound binding within its ranges that every producer of its tag can use is made (R778). -/
theorem Device.outBind_of_fits {d e : Device} {n : Fin 64} {b : Fin 4 × BitVec 4 × BitVec 6}
    (tag : fld (d.params n) 15 0 ≤ 4095) (vc : fld (d.params n) 22 18 ≤ 15)
    (least : 0x30 ≤ fld (d.params n) 29 24) (most : fld (d.params n) 29 24 ≤ 0x33)
    (hb : b = (⟨fld (d.params n) 17 16 % 4, Nat.mod_lt _ (by decide)⟩, BitVec.ofNat 4 (fld (d.params n) 22 18),
      BitVec.ofNat 6 (fld (d.params n) 29 24)))
    (he : e = { d with ports := { d.ports with outBinds := d.ports.outBinds.put (fld (d.params n) 15 0) b } })
    (fits : e.outboundOk = true) : d.outBind n = e.settleDomains.reply n stOk [] := by
  subst hb he
  refine (if_neg ?_).trans (if_pos fits)
  omega

/-- GROUP_SET without members takes the group away (R308). -/
theorem Device.groupSet_of_empty {d : Device} {n : Fin 64} {x : Image} (hx : d.params n % 2 ^ 128 = x)
    (empty : GroupRec.members x = 0) :
    d.groupSet n =
      ({ d with ing := { d.ing with groups := d.ing.groups.del (GroupRec.group x) } }).reply n stOk [] := by
  subst hx
  exact if_pos empty

/-- GROUP_SET with members and a record that no check refuses sets the group up afresh (R308; log 28). -/
theorem Device.groupSet_of_members {d : Device} {n : Fin 64} {x : Image} (hx : d.params n % 2 ^ 128 = x)
    (members : GroupRec.members x ≠ 0) (port : GroupRec.refPort x ≤ 11) (window : GroupRec.window x ≠ 0)
    (ring : GroupRec.ring x % 256 = 0) (hook : GroupRec.hook x < 16384) :
    d.groupSet n =
      let g : Group := { record := x, seq := 0, instances := [] }
      ({ d with ing := { d.ing with groups := d.ing.groups.put (GroupRec.group x) g } }).reply n stOk [] := by
  subst hx
  refine (if_neg members).trans (if_neg ?_)
  omega

/-! ### The rows -/

/-- Settles O28: each command's checks are decided by the conditions of its clause, and what is left is the binding. -/
theorem streamCommandsComplete : Obligations.StreamCommandsComplete := by
  refine ⟨fun s now n => ?streams, fun s now n => ?others⟩
  case streams =>
    intro d x tag
    have hd : (advance now s.dev).taken n = d := rfl
    refine ⟨?feedback, ?decoded, ?unbind⟩
    case feedback =>
      intro accepted type rest port inRange vc here room
      refine State.drawerCommand_serves accepted hd ?_
      exact (if_pos type).trans (Device.bindFeedback_of_fits rest port inRange vc here room)
    case decoded =>
      intro r dest accepted type₁ type₂ decoder ranges sizes fields here tests home fits room y settled
      refine State.drawerCommand_serves accepted hd ?_
      have decodedType : ¬ (StreamDesc.dt x = 0x33 ∨ StreamDesc.dt x = 0x34) := by simp [type₁, type₂]
      have fits : ¬ (!destFits x dest) = true := by simp [fits]
      refine (if_neg decodedType).trans ((if_neg (Device.descriptor_fits decoder ranges sizes fields here tests)).trans ?_)
      have home : d.streamDest (d.params n % 2 ^ 640) = some (r, dest) := home
      rw [home]
      refine (if_neg fits).trans ((if_neg (Device.not_overLimit room)).trans ((if_neg settled).trans ?_))
      simp only [← Bool.not_eq_true, Bool.not_eq_true', ite_not]
      rfl
    case unbind =>
      intro accepted p k
      refine ⟨fun outbound => ?_, fun inbound bound => ?_, fun y inbound decoded stream bound => ?_,
        fun y inbound decoded stream waits => ?_, fun inbound decoded unbound => ?_⟩
      all_goals refine State.drawerCommand_serves accepted hd ?_
      · exact Device.streamUnbind_of_outbound rfl outbound
      · exact Device.streamUnbind_of_feedback rfl inbound bound
      · exact Device.streamUnbind_of_inForce rfl inbound decoded stream bound
      · exact Device.streamUnbind_of_pending rfl inbound decoded stream waits
      · exact Device.streamUnbind_of_unbound rfl inbound decoded unbound
  case others =>
    intro d
    have hd : (advance now s.dev).taken n = d := rfl
    refine ⟨fun accepted => ?_, fun accepted => ⟨fun empty => ?_, fun members port window ring hook => ?_⟩⟩
    · intro p b e tag vc least most fits
      exact State.drawerCommand_serves (g := fun _ => e.settleDomains.reply n stOk []) accepted hd
        (Device.outBind_of_fits tag vc least most rfl rfl fits)
    · exact State.drawerCommand_serves accepted hd (Device.groupSet_of_empty rfl empty)
    · exact State.drawerCommand_serves accepted hd (Device.groupSet_of_members rfl members port window ring hook)

end Sys2Proof.Machine
end

section
/-!
PROOF. The frame of the Finisher and the correspondence sample of one domain (O42).
-/

namespace Sys2Proof.Machine

/-! ### FINISHER_FRAME -/

/-- Taking counts of a Hook moves no byte that the hub reads and no view: the frame tag stays in view (R340). -/
theorem Device.takeHook_tagInView (d : Device) (who : Requester) (h n : Nat) (r : JobRef) (f : Image) :
    (d.takeHook who h n).1.tagInView r f = d.tagInView r f := rfl

/-- The frame job whose turn it is, with nothing held and its LEVELS counts taken, runs the frame of its period's epoch
(R336, R572). The row looks for the tag after it has taken the counts. -/
theorem execFinisherFrame_runs {s : State} {now : Time} {d e : Device} {job : BitVec 16} {r : JobRef} {x : JobRun} {p : Period}
    {f : Image} (up : s.isUp) (hd : advance now s.dev = d) (working : d.working job = some (r, x, p))
    (finisher : r.engine = engFinisher) (free : d.engineFree .fusion = true) (first : d.frameAhead r p = false)
    (desc : r.desc = some f) (tag : d.tagInView r f = true) (noneHeld : (d.finJob job).held = none)
    (epoch : BitVec.ofNat 16 (d.frameEpoch r f) = p.epoch)
    (taken : d.takeHook (.job job) (FinDesc.inHook f) (FinDesc.levels f) = (e, true)) :
    execFinisherFrame now job s = .next (s.withDev (e.runFrame r f)) := by
  have tagAfter : e.tagInView r f = true := by
    rw [← tag, ← d.takeHook_tagInView (.job job) (FinDesc.inHook f) (FinDesc.levels f), taken]
  refine State.onUp_answers up hd _ ?_
  simp [working, finisher, free, desc, first, noneHeld, taken, tagAfter, epoch]

/-! ### CORRESPONDENCE_SAMPLE -/

/-- A domain other than HUB counts with the counter that it keeps (R352). -/
theorem Device.counter_of_find {d : Device} {k : Nat} {c : Time} (other : k ≠ 0) (kept : d.clk.counters.find k = some c) :
    d.counter k = c := by
  simp [Device.counter, Tbl.getD, other, kept]

/-- A pair captured at a multiple of 12,000, exact to one cycle of its domain and the first of this time, becomes the newest of
1,024 (R355, R356). -/
theorem execCorrespondenceSample_keepsPair {s : State} {now t c : Time} {d : Device} {k : Byte} (up : s.isUp)
    (hd : advance now s.dev = d) (hub : d.hub = now) (multiple : now.toNat % 12000 = 0) (other : k ≠ 0)
    (fusion : d.domOn 0x3B = true) (kept : d.clk.counters.find k.toNat = some c) (close : (timeDiff t c).natAbs ≤ 1)
    (new : (d.samples k.toNat).head?.map (·.1) ≠ some now) :
    execCorrespondenceSample now [(k, t)] s = .next (s.timed now fun d =>
      { d with clk := { d.clk with samples := d.clk.samples.put k.toNat (((now, t) :: d.samples k.toNat).take 1024) } }) := by
  have domain : k.toNat ≠ 0 := by simpa [← BitVec.toNat_inj] using other
  have taken : ¬ (k.toNat = 0 ∨ (d.clk.counters.find k.toNat).isNone ∨ (timeDiff t (d.counter k.toNat)).natAbs > 1
      ∨ (d.samples k.toNat).head?.map (·.1) = some now) := by
    simp only [Device.counter_of_find domain kept, kept]
    simp [domain, close, new]
  refine State.onUp_timed up hd ?_
  rw [if_neg (by simp [hub, multiple, fusion])]
  exact if_neg taken

/-! ### The rows -/

/-- Settles O42: the frame's job, its tag and its Hook lead the row to the frame, and the captured pair passes every check of its
sample. -/
theorem finisherAndSamplesComplete : Obligations.FinisherAndSamplesComplete := by
  intro s now up
  constructor
  · intro _ _ _ _ _ _
    exact execFinisherFrame_runs up rfl
  · intro _ _ _
    exact execCorrespondenceSample_keepsPair up rfl

end Sys2Proof.Machine
end

section
/-!
PROOF. The feedback, inertial and body-link packets (O39), the rows of Fusion (O43), and the edges of the PERIOD_IN pins with the
ends of their windows (O47).
-/

namespace Sys2Proof.Machine

/-! ### The packets of a feedback tag -/

/-- Settles O39: what the port makes of the packet, its binding and its length leave one branch of each row. -/
theorem feedbackPacketRowsComplete : Obligations.FeedbackPacketRowsComplete := by
  intro s now p e h up
  generalize hd : advance now s.dev = d
  intro arrives body
  have hbody : p.payload.drop 16 = body := rfl
  clear_value body
  refine ⟨?feedback, ?inertial, ?bodyLink, ?unbound⟩
  case feedback =>
    intro type kind bound
    have feeds : ¬ (StrHdr.kind h ≠ 0x12 ∧ StrHdr.kind h ≠ 0x13) := by omega
    refine ⟨fun whole complete reserved => ?_, fun broken => ?_⟩
    · show execFeedbackPacket now p s = _
      refine State.onUp_answers up hd _ ?_
      simp only [type, arrives, bound, hbody]
      rw [if_neg (by decide), if_neg feeds, if_neg (by decide), if_neg (by simpa [whole, complete] using reserved)]
    · show execFeedbackPacket now p s = _
      refine State.onUp_answers up hd _ ?_
      simp only [type, arrives, bound, hbody]
      rw [if_neg (by decide), if_neg feeds, if_neg (by decide), if_pos (broken.imp_right .inl)]
  case inertial =>
    intro type kind bound whole complete running
    have measures : ¬ (StrHdr.kind h ≠ 0x10 ∧ StrHdr.kind h ≠ 0x11) := by omega
    show execInertialPacket now p s = _
    refine State.onUp_answers up hd _ ?_
    simp only [type, arrives, bound, hbody]
    rw [if_neg (by decide), if_neg measures, if_neg (by decide), if_neg (by simp [whole, complete]), if_neg (by simp [running])]
  case bodyLink =>
    intro type bound
    refine ⟨fun whole complete => ?_, fun broken => ?_⟩
    · show execBodyLinkPacket now p s = _
      exact State.onUp_answers up hd _ (by simp [type, arrives, bound, hbody, whole, complete])
    · show execBodyLinkPacket now p s = _
      refine State.onUp_answers up hd _ ?_
      simp only [type, arrives, bound, hbody]
      rw [if_neg (by decide), if_neg (by decide), if_pos broken]
  case unbound =>
    rintro c - unbound (⟨rfl, type⟩ | ⟨rfl, type, kind⟩ | ⟨rfl, type, kind⟩)
    · show execBodyLinkPacket now p s = _
      exact State.onUp_answers up hd _ (by simp [type, arrives, unbound])
    · show execFeedbackPacket now p s = _
      exact State.onUp_answers up hd _ (by simp [type, arrives, kind, unbound])
    · show execInertialPacket now p s = _
      exact State.onUp_answers up hd _ (by simp [type, arrives, kind, unbound])

/-! ### Fusion -/

/-- A signalled record is taken from the ring, whose place moves on, and arrives as a measurement (R366, R367). -/
theorem Device.takeMeasurement_of_signalled {d e : Device} {r : JobRef} {desc : Image} (job : d.fusionJob = some (r, desc))
    (running : d.eng.fus.running = true) (signalled : d.takeHook (.job r.id) (FusDesc.measHook desc) 1 = (e, true)) :
    d.takeMeasurement =
      let a := FusDesc.measRing desc + e.eng.fus.measNext * 64
      let g := (e.fus fun x => { x with measNext := (x.measNext + 1) % max 1 (FusDesc.measRecords desc) }).hubRead r.part a 64
      g.1.receive (ringMeas (leNat (g.1.readView r.part a 64)) g.2 g.1.hub) := by
  simp [Device.takeMeasurement, job, running, signalled]

/-- A tick at `t` opens the next cycle (R370). The start is then counted and told to the Lectern, which leave Fusion as it is
(R568, R682). -/
theorem Device.openCycle_fus (d : Device) (desc : Image) (t : Time) :
    let x := (d.openCycle desc t).eng.fus
    x.cycle = d.eng.fus.cycle + 1 ∧ x.last = t ∧ x.due = d.eng.fus.due.tail ∧ ∃ c, x.cycles = d.eng.fus.cycles ++ [c]
      ∧ c.tau = t ∧ c.number = d.eng.fus.cycle ∧ c.closeAt = addT t (usHub (FusDesc.hold desc))
      ∧ c.emitAt = addT c.closeAt (usHub (FusDesc.emitDelay desc)) := by
  unfold Device.openCycle
  dsimp only
  split
  · exact ⟨rfl, rfl, rfl, _, rfl, rfl, rfl, rfl, rfl⟩
  · split
    · exact ⟨rfl, rfl, rfl, _, rfl, rfl, rfl, rfl, rfl⟩
    · exact ⟨rfl, rfl, rfl, _, rfl, rfl, rfl, rfl, rfl⟩

/-- Settles O43: the job, the instant and the oldest cycle lead each row to its one operation. That a late cycle's
clean-up also moves Fusion's place in the ring past the lost records is deduced from R373 and R551 (log 6). -/
theorem fusionRowsComplete : Obligations.FusionRowsComplete := by
  intro s now up
  simp -zeta only [← advance_eng now s.dev]
  generalize hd : advance now s.dev = d
  intro r desc job
  refine ⟨?take, ?tick, ?close, ?emission⟩
  case take =>
    intro e running signalled
    exact State.onUp_answers up hd Device.takeMeasurement (Device.takeMeasurement_of_signalled job running signalled)
  case tick =>
    intro t running ok noBoundary locked free due
    refine ⟨?_, d.openCycle_fus desc t⟩
    have instant : (if FusDesc.lockEn desc then d.eng.fus.due.head?
        else some (if d.eng.fus.first then d.eng.fus.last else addT d.eng.fus.last (usHub (FusDesc.period desc)))) = some t := by
      cases lock : FusDesc.lockEn desc
      · simp [free lock]
      · simp [locked lock]
    show execFusionTick now s = _
    refine State.onUp_timed up hd ?_
    simp [job, running, ok, instant, due, noBoundary]
  case close =>
    intro c oldest due
    show execFusionClose now s = _
    refine State.onUp_timed up hd ?_
    simp [job, oldest, due]
  case emission =>
    intro c rest oldest closed due
    constructor
    · show execFusionEmission now true s = _
      refine State.onUp_timed up hd ?_
      simp [job, oldest, closed, due]
    · show execFusionEmission now false s = _
      refine State.onUp_timed up hd ?_
      simp [job, oldest, closed, due, stLate]

/-! ### Edges and their windows -/

/-- A running Fusion that is locked to the pin keeps the edge's time as the instant of a tick (R370). -/
theorem Device.fusionEdge_of_locked {d : Device} {r : JobRef} {desc : Image} {pin : Nat} (job : d.fusionJob = some (r, desc))
    (running : d.eng.fus.running = true) (locked : FusDesc.lockEn desc = true) (mine : FusDesc.pin desc = pin) :
    d.fusionEdge pin = d.fus fun x => { x with due := x.due ++ [d.hub] } := by
  simp [Device.fusionEdge, job, running, locked, mine]

/-- The window of a slot that runs and waits for its edge ends: the edge is missed and counted, and a period starts (R519). -/
theorem Device.slotWindow_of_ended {d : Device} {k : Nat} {c : Image} (running : (d.slot k).running = true)
    (between : (d.slot k).stage = 3) (waits : (d.slot k).gen.due = none) (locked : CeDesc.lockEn c = true)
    (served : d.slotServed c = true) (ended : reached d.ceNow ((d.slot k).gen.windowEnd (CeDesc.period c)) = true) :
    d.slotWindow k c =
      let g := (d.slot k).gen.miss (CeDesc.period c)
      let e := (d.setSlot k { d.slot k with gen := g.1 }).slotCount k fun n => { n with missedEdge := sat32 (n.missedEdge + 1) }
      let e := if g.2 then e.notify stPeriodLost srcSlot (BitVec.ofNat 16 k) else e
      e.beginSlotPeriod k c ((d.slot k).gen.windowEnd (CeDesc.period c)) :=
  if_neg (by simp [running, between, waits, locked, served, ended])

/-- The window of a locked job ends without an edge: the edge is missed, and a period is due at the window's end (R519, R543). -/
theorem Device.jobWindow_of_ended {d : Device} {r : JobRef} {x : JobRun} (run : d.lockedRun r = some x)
    (waits : x.gen.due = none) (ended : reached d.hub (x.gen.windowEnd (lockPeriod r)) = true) :
    d.jobWindow r =
      let g := x.gen.miss (lockPeriod r)
      let e := d.setRun r.id { x with gen := g.1 }
      let e := if g.2 then e.notify stPeriodLost srcJob r.id else e
      e.periodicDue r (x.gen.windowEnd (lockPeriod r)) := by
  simp only [Device.jobWindow, run]
  exact if_neg (by simp [waits, ended])

/-- Settles O47: each user of the pin is offered the edge in turn, and the window that ends is that of the slot or the job that the
row names. -/
theorem edgeRowsComplete : Obligations.EdgeRowsComplete := by
  intro s now up
  generalize hd : advance now s.dev = d
  refine ⟨?fusion, ?offer, ?slot, ?job⟩
  case fusion =>
    intro pin noSlots otherPins r desc job running locked mine
    have noJobs : d.activeJobs.filter (fun r => JobRec.pin r.image == pin.val) = [] := by simpa using otherPins
    show execPeriodInEdge now pin s = _
    refine State.onUp_timed up hd ?_
    simp [noSlots, noJobs, Device.fusionEdge_of_locked job running locked mine]
  case offer =>
    intro pin
    show execPeriodInEdge now pin s = _
    refine State.onUp_timed up hd ?_
    simp only [List.foldl_filter, beq_iff_eq]
  case slot =>
    intro k c desc running between waits locked served ended
    show execEdgeWindowExpiry now (.slot k) s = _
    refine State.onUp_timed up hd ?_
    simp only [desc]
    exact Device.slotWindow_of_ended running between waits locked served ended
  case job =>
    intro j r x job run waits ended
    show execEdgeWindowExpiry now (.job j) s = _
    refine State.onUp_timed up hd ?_
    simp only [job]
    exact Device.jobWindow_of_ended run waits ended

end Sys2Proof.Machine
end

section
/-!
PROOF. Bulk data (O31): the commands that arm a transfer, its packets and its time limit.
-/

namespace Sys2Proof.Machine

/-! ### The arming of a transfer (R716, R719) -/

/-- A BULK_REF that no check of R716 and R719 refuses arms its transfer. -/
theorem Device.armBulk_of_fits {d : Device} {ref : Image} {limit : Nat} (fits : d.bulkFits ref limit) (n : Fin 64)
    (dest : Option (Fin 8 × Nat × Nat)) : d.armBulk n ref limit dest = d.armed n ref dest := by
  obtain ⟨port, tag, nonempty, within, noStream, noFeedback, free, room⟩ := fits
  have words : ¬ (BulkRef.port ref > 11 ∨ BulkRef.tag ref > 4095 ∨ BulkRef.length ref = 0) := by omega
  have twin : ¬ (d.bur.bulk.any fun b => b.port == BulkRef.port ref && b.vc == BulkRef.vc ref && b.tag == BulkRef.tag ref
      && b.seq == BulkRef.seq ref) = true := by
    simpa [and_assoc] using free
  unfold Device.armBulk
  dsimp only
  rw [if_neg words, if_neg (Nat.not_lt.mpr within), if_neg (by simp [noStream, noFeedback]), if_neg twin,
    if_neg (Nat.not_le.mpr room)]
  rfl

/-- MEM_WRITE to a line of an active partition arms its transfer, up to the rest of the view (R716). -/
theorem Device.memWrite_of_active {d : Device} {n : Fin 64} {p : Image} (hp : d.params n = p) {r : Image}
    (record : (d.part (fld p 2 0)).record = some r) (active : (d.part (fld p 2 0)).active.isSome = true)
    (line : fld p 111 64 % 256 = 0) :
    d.memWrite n = d.armBulk n (fld p 383 128) (PartRec.memGib r * 2 ^ 30 - fld p 111 64)
      (some (⟨fld p 2 0 % 8, Nat.mod_lt _ (by decide)⟩, fld p 111 64, 0)) := by
  subst hp
  simp only [Device.memWrite, record]
  exact if_neg (by simp [Option.isSome_iff_ne_none.mp active, line])

/-! ### The packets of a transfer (R720) -/

/-- A packet that continues its transfer, within its length, adds its bytes, and the whole lines that have arrived are written
(R720, R722); where it is the last one, it ends the transfer. -/
theorem Device.bulkData_of_continues {d : Device} {b : Bulk} {h : Image} {payload : Bytes}
    (place : fld (imageAt payload 16 16) 47 0 = b.got.length) (bytes : payload.drop 32 ≠ [])
    (reserved : fld (imageAt payload 16 16) 127 48 = 0)
    (within : b.got.length + (payload.drop 32).length ≤ b.length)
    (whole : StrHdr.isPartial h = false → b.length ≤ b.got.length + (payload.drop 32).length) :
    d.bulkData b h payload =
      let w := d.writeArrived { b with got := b.got ++ payload.drop 32, last := d.hub } false
      if StrHdr.isPartial h = true then w.1.setBulk w.2 else (w.1.setBulk w.2).finishBulk w.2 := by
  have length : ¬ (b.length < b.got.length + (payload.drop 32).length
      ∨ (!StrHdr.isPartial h) = true ∧ b.got.length + (payload.drop 32).length < b.length) := by
    rintro (beyond | ⟨last, short⟩)
    · exact Nat.not_lt.mpr within beyond
    · exact Nat.not_lt.mpr (whole (by simpa using last)) short
  unfold Device.bulkData
  dsimp only
  rw [if_neg (by simp [place]), if_neg (by simpa using bytes), if_neg (by simp [reserved]), if_neg length]
  cases StrHdr.isPartial h <;> rfl

/-- A bulk packet that its port accepts goes to the transfer armed for its header (R719). -/
theorem execBulkPacket_of_armed {s : State} {now : Time} {p : Pkt} {d e f : Device} {h : Image} {b : Bulk} (up : s.isUp)
    (hd : advance now s.dev = d) (type : p.dt = 0x37) (arrives : d.arrive p = (e, .ok h))
    (armed : e.bur.bulk.find? (fun b => b.port == p.port.val && b.vc == p.vc.toNat && b.tag == StrHdr.tag h
      && b.seq == StrHdr.seq h) = some b)
    (data : e.bulkData b h p.payload = f) : execBulkPacket now p s = .next (s.withDev f) := by
  refine State.onUp_answers up hd _ ?_
  simp [type, arrives, armed, data]

/-! ### The rows -/

/-- Settles O31: a command's checks leave its BULK_REF to arm, a packet's header leaves its bytes to take, and the time since the
last packet has reached the limit. -/
theorem bulkTransfersComplete : Obligations.BulkTransfersComplete := by
  refine ⟨fun s now n => ?commands, fun s now => ⟨?packet, ?timeout⟩⟩
  case commands =>
    intro d p
    have hd : (advance now s.dev).taken n = d := rfl
    refine ⟨?map, ?solver, ?memory, ?firmware⟩
    case map =>
      intro accepted shelf fits
      refine State.drawerCommand_serves accepted hd ?_
      exact (if_neg (by simpa [Option.isSome_iff_ne_none] using shelf)).trans (Device.armBulk_of_fits fits n _)
    case solver =>
      intro accepted solver fits
      refine State.drawerCommand_serves accepted hd ?_
      exact (if_neg (by simpa [Option.isSome_iff_ne_none] using solver)).trans (Device.armBulk_of_fits fits n _)
    case memory =>
      intro r accepted record active line fits
      refine State.drawerCommand_serves accepted hd ?_
      exact (Device.memWrite_of_active rfl record active line).trans (Device.armBulk_of_fits fits n _)
    case firmware =>
      intro accepted alone fits
      refine State.drawerCommand_serves accepted hd ?_
      exact (if_neg (Bool.eq_false_iff.mp alone)).trans (Device.armBulk_of_fits fits n _)
  case packet =>
    intro p e h b up type arrives armed place bytes reserved w
    refine ⟨fun more within => ?_, fun last whole => ?_⟩
    · refine execBulkPacket_of_armed up rfl type arrives armed ?_
      rw [Device.bulkData_of_continues place bytes reserved within (by simp [more])]
      exact if_pos more
    · refine execBulkPacket_of_armed up rfl type arrives armed ?_
      rw [Device.bulkData_of_continues place bytes reserved whole.le fun _ => whole.ge]
      exact if_neg (Bool.eq_false_iff.mp last)
  case timeout =>
    intro n b up armed due
    have limit : usHub (1000 * b.timeoutMs) = 1200000 * b.timeoutMs := by simp only [usHub]; omega
    show execBulkTimeout now n s = _
    refine State.onUp_timed up rfl ?_
    simp only [advance_bur, armed, limit]
    exact if_pos due

end Sys2Proof.Machine
end

section
/-!
PROOF. The batches of the Shelf, and the candidates and ends of the Planner's searches (O44).
-/

namespace Sys2Proof.Machine

/-! ### The Shelf -/

/-- A signalled ring slot joins a queue that holds fewer than 16 batches, and the ring moves on (R407). -/
theorem Device.admitMap_of_signalled {d e : Device} {desc : Image} (installed : d.eng.shelf.desc = some desc)
    (room : d.eng.shelf.queue.length < 16) (signalled : d.takeHook .shelf (ShelfDesc.updateHook desc) 1 = (e, true)) :
    d.admitMap = e.shelf fun x => { x with
      queue := x.queue ++ [{ drawer := none, slot := x.nextSlot, bytes := [] }]
      nextSlot := (x.nextSlot + 1) % max 1 (ShelfDesc.slots desc) } := by
  simp [Device.admitMap, installed, room, signalled]

/-- The batch at the head of the queue, once it has been read, is committed or refused as a whole and answered, with its version
where it is committed; then waiting ring slots join the queue (R411 to R414). -/
theorem Device.shelfBatch_of_read {d e : Device} {desc : Image} {b : Batch32} {rest : List Batch32} {bs : Bytes}
    (installed : d.eng.shelf.desc = some desc) (head : d.eng.shelf.queue = b :: rest)
    (read : (d.shelf fun x => { x with queue := rest }).mapBytes desc b = (e, bs, false)) :
    d.shelfBatch =
      let c := e.eng.shelf.commit desc bs
      ((e.shelf fun _ => c.1).answerMap b c.2 (if c.2 = stOk then c.1.current.number else 0)).admitMaps := by
  simp only [Device.shelfBatch, installed, head, read, Bool.false_eq_true, if_false]

/-! ### The Planner -/

section Search

variable {s : State} {now : Time} {d : Device} {job : BitVec 16} {r : JobRef} {desc : Image} {p : Period} {u : PlanRun}
variable (up : s.isUp) (hd : advance now s.dev = d) (search : d.searching job = some (r, desc, p, u))
include up hd search

/-- A candidate that the search finds before the end of its budget is checked, with the roadmap that the search leaves (R436,
R439, R440). -/
theorem execCandidateComplete_of_found {cand : Candidate} {e : Device} {m : Roadmap} {ws : List (List F32)}
    (before : reached d.hub (addT p.s (usHub (PlanDesc.budget desc))) = false)
    (spoilt : d.spoilShelf job (d.pinned u.inst) cand = e)
    (found : (e.world r desc u.query (e.pinned u.inst)).found e.eng.shelf (e.planJob job).roadmap u cand = some (m, ws)) :
    execCandidateComplete now job cand s = .next (s.withDev
      (((e.setPlanJob job { e.planJob job with roadmap := m }).candidate r desc p u ws cand.checks).startPlanners)) := by
  refine State.onUp_answers up hd _ ?_
  simp only [search, before, spoilt, found, Bool.false_eq_true, if_false]

/-- The end of the budget ends the search (R445). -/
theorem execPlannerBudgetEnd_of_reached (ended : reached d.hub (addT p.s (usHub (PlanDesc.budget desc))) = true) :
    execPlannerBudgetEnd now job s = .next (s.timed now fun d => (d.failSearch r desc p u).startPlanners) := by
  refine State.onUp_timed up hd ?_
  simp only [search, ended, if_true]

/-- A search that fails ends its period before the budget does (R445). -/
theorem execSearchFails_of_searching :
    execSearchFails now job s = .next (s.timed now fun d => (d.failSearch r desc p u).startPlanners) := by
  refine State.onUp_timed up hd ?_
  simp only [search]

end Search

/-! ### The rows -/

/-- Settles O44: the queue and the ring's signals decide what the Shelf does, the search and its budget what becomes of a Planner's
period. What a candidate brings is the reading of log 7. -/
theorem shelfAndPlannerRowsComplete : Obligations.ShelfAndPlannerRowsComplete := by
  refine ⟨fun s now desc up installed => ?shelf, fun s now job r desc p u up search => ?planner⟩
  case shelf =>
    refine ⟨State.onUp_timed up rfl rfl, fun d e => Device.admitMap_of_signalled, fun b rest e bs head read => ?_⟩
    exact State.onUp_answers up rfl Device.shelfBatch
      (Device.shelfBatch_of_read (by rwa [advance_eng]) (by rwa [advance_eng]) read)
  case planner =>
    refine ⟨fun cand m ws before => ?_, fun ended => ?_, ?_⟩
    · exact execCandidateComplete_of_found up rfl search before rfl
    · exact execPlannerBudgetEnd_of_reached up rfl search ended
    · exact execSearchFails_of_searching up rfl search

end Sys2Proof.Machine
end

section
/-!
PROOF. The Solver's batches of value changes, and the application point, iterations and budget of a solve (O45).
-/

namespace Sys2Proof.Machine

/-! ### The batches (R470, R475) -/

/-- A signalled ring slot joins a queue that holds fewer than 16 batches, and the ring moves on (R470). -/
theorem Device.admitDelta_of_signalled {d e : Device} {job : BitVec 16} {r : JobRef} {desc st : Image} {x : SolverJob}
    (placed : d.solver job = some (r, desc, st, x)) (room : x.queue.length < 16)
    (signalled : d.takeHook (.job job) (SDesc.updateHook desc) 1 = (e, true)) :
    d.admitDelta job = e.setSolv job { x with
      queue := x.queue ++ [{ drawer := none, slot := x.nextSlot, bytes := [] }]
      nextSlot := (x.nextSlot + 1) % max 1 (SDesc.slots desc) } := by
  simp only [Device.admitDelta, placed, signalled, if_neg room.not_ge]

/-- Between solves the head batch is applied for the solve that comes next (R475, R476). -/
theorem execSolverBatchApply_between {s : State} {now : Time} {d : Device} {job : BitVec 16} {x : SolverJob} (up : s.isUp)
    (hd : advance now s.dev = d) (known : d.solvJob job = some x) (between : x.solve = none) :
    execSolverBatchApply now job s = .next (s.timed now fun d => d.applyHead job (d.nextSolve job)) := by
  refine State.onUp_timed up hd ?_
  simp only [known, between, Option.isNone_none, if_true]

/-! ### A solve in progress -/

/-- What the application point does with a device that has yielded the input: it applies `waiting` queued batches for the solve
`seq` and forms iterate 0, and Solver `inst` goes on with the solve that it served, or else chooses one (R477, R497). -/
def Device.passApplication (d : Device) (job : BitVec 16) (seq : BitVec 32) (inst waiting : Nat) : Device :=
  let e := (d.applyQueued job seq waiting).formZero job
  e.serve inst (d.served inst <|> e.chooseSolve inst)

/-- What the end of an iteration does with the job's solve, by what the reads of the Solver's store met (R490, R499, R500). -/
def Device.iterateAfter (d : Device) (job : BitVec 16) (inst : Nat) (x : SolverJob) : ScrubFinding → Device
  | .clean => d.iterate job
  | .corrected => (d.chipCount (2 + inst) 1 0).iterate job
  | .uncorrectable => d.solverStoreError job inst x

section Solve

variable {s : State} {now : Time} {d : Device} {job : BitVec 16} {r : JobRef} {desc st : Image} {x : SolverJob} {v : Solve}
  {p : Period}
variable (up : s.isUp) (hd : advance now s.dev = d) (solve : d.solving job = some (r, desc, st, x, v, p))
include up hd solve

section ApplicationPoint

variable (waits : v.applied = false) (before : reached d.hub (budgetEnd desc p) = false)
  (free : d.engineFree (.solver ⟨SDesc.inst desc % 4, Nat.mod_lt _ (by decide)⟩) = true)
include waits before free

/-- A solve without an input Hook passes its application point at once (R477). -/
theorem execApplicationPoint_of_noInput (noInput : SDesc.inCount desc = 0) :
    execApplicationPoint now job s =
      .next (s.timed now fun d => d.passApplication job p.seq (SDesc.inst desc) x.queue.length) := by
  refine State.onUp_timed up hd ?_
  simp [solve, waits, before, free, noInput, Device.passApplication]

/-- A solve with an input Hook passes its application point once the Hook has yielded the whole count (R477). -/
theorem execApplicationPoint_of_taken {e : Device} (input : SDesc.inCount desc ≠ 0)
    (taken : d.takeHook (.job job) (SDesc.inHook desc) (SDesc.inCount desc) = (e, true)) :
    execApplicationPoint now job s =
      .next (s.withDev (e.passApplication job p.seq (SDesc.inst desc) x.queue.length)) := by
  refine State.onUp_answers up hd _ ?_
  simp [solve, waits, before, free, input, taken, Device.passApplication]

end ApplicationPoint

/-- An iteration that completes within the budget, of the solve that its Solver serves, moves that solve on, and the Solver
chooses again (R490, R497). -/
theorem execIterationComplete_of_served (finding : ScrubFinding) (applied : v.applied = true)
    (within : timeDiff d.hub (budgetEnd desc p) ≤ 0) (served : d.served (SDesc.inst desc) = some job) :
    execIterationComplete now job finding s = .next (s.timed now fun d =>
      let e := d.iterateAfter job (SDesc.inst desc) x finding
      e.serve (SDesc.inst desc) (e.chooseSolve (SDesc.inst desc))) := by
  refine State.onUp_timed up hd ?_
  cases finding <;> simp [solve, applied, within.not_gt, served, Device.iterateAfter]

/-- The end of the budget ends the solve with the best iterate that it has (R490). -/
theorem execSolveBudgetExpiry_of_reached (ended : reached d.hub (budgetEnd desc p) = true) :
    execSolveBudgetExpiry now job s = .next (s.timed now fun d => d.endSolve job stSolveBudget v.best) := by
  refine State.onUp_timed up hd ?_
  simp only [solve, ended, if_true]

end Solve

/-! ### The rows -/

/-- Settles O45: the queue and the ring's signals decide what becomes of batches, and the solve in progress, with its budget, what
becomes of its application point, its iterations and its end. That the lower JOB_ID goes first on an equal START is the reading of
log 8. -/
theorem solverRowsComplete : Obligations.SolverRowsComplete := by
  refine fun s now job up => ⟨?apply, ?signal, ?join, fun r desc st x v p solve => ⟨?noInput, ?input, ?iteration, ?expiry⟩⟩
  case apply => exact fun x => execSolverBatchApply_between up rfl
  case signal =>
    show execSolverUpdateSignal now job s = _
    exact State.onUp_timed up rfl rfl
  case join => exact fun d e r desc st x => Device.admitDelta_of_signalled
  case noInput =>
    intro waits before noInput free
    exact execApplicationPoint_of_noInput up rfl solve waits before free noInput
  case input =>
    intro e waits before input free taken
    exact execApplicationPoint_of_taken up rfl solve waits before free input taken
  case iteration =>
    intro applied within served
    have row (finding : ScrubFinding) := execIterationComplete_of_served up rfl solve finding applied within served
    exact ⟨row .clean, row .corrected, row .uncorrectable⟩
  case expiry => exact execSolveBudgetExpiry_of_reached up rfl solve

end Sys2Proof.Machine
end

section
/-!
PROOF. The commands that start and stop jobs and change a mode (O27).
-/

namespace Sys2Proof.Machine

/-- The outputs are enabled or not as they were before time passed and the Bureau took a command. -/
@[simp] theorem Device.taken_outputsEnabled (now : Time) (d : Device) (n : Fin 64) :
    ((advance now d).taken n).bur.win.outputsEnabled = d.bur.win.outputsEnabled := by
  simp [Device.taken, Device.setDrawer]

/-! ### JOB_START and JOB_STOP -/

/-- A job is not refused for the outputs where they are enabled, or where it does not need them (R729). -/
theorem Device.outputs_allow {d : Device} {r : JobRef} (enabled : r.engine = 5 → d.bur.win.outputsEnabled = true) :
    ¬ (r.engine = engControl ∧ (!d.bur.win.outputsEnabled) = true) := by
  rintro ⟨control, off⟩
  simp [enabled control] at off

section Job

variable {d : Device} {n : Fin 64} {r : JobRef} (job : d.job (BitVec.ofNat 16 (fld (d.params n) 15 0)) = some r)
include job

section Start

variable (staying : d.enteringStandby = none) (enabled : r.engine = 5 → d.bur.win.outputsEnabled = true)
include staying enabled

/-- JOB_START starts a job that has no run, or whose run is in no stop and no period and either is not started or is barred
(R577). -/
theorem Device.jobStart_of_idle (idle : ∀ x, d.run r.id = some x →
    x.stopping = false ∧ x.period = none ∧ (x.started = false ∨ x.barred = true)) :
    d.jobStart n = (d.startJob r).reply n stOk [] := by
  simp only [Device.jobStart, job, staying, Option.isSome_none, Bool.false_eq_true, if_false,
    if_neg (Device.outputs_allow enabled)]
  cases run : d.run r.id with
  | none => rfl
  | some x =>
    obtain ⟨going, closed, stopped⟩ := idle x run
    have notAlready : ¬ (x.started = true ∧ (!x.barred) = true) := by
      rcases stopped with stopped | barred
      · simp [stopped]
      · simp [barred]
    simp only [going, closed, if_neg notAlready, Option.isSome_none, Bool.false_eq_true, if_false]

/-- JOB_START of a job that already runs answers at once (log 21). -/
theorem Device.jobStart_of_started {x : JobRun} (run : d.run r.id = some x) (going : x.stopping = false)
    (started : x.started = true) (admitted : x.barred = false) : d.jobStart n = d.reply n stOk [] := by
  simp only [Device.jobStart, job, staying, Option.isSome_none, Bool.false_eq_true, if_false,
    if_neg (Device.outputs_allow enabled), run, going]
  exact if_pos (by simp [started, admitted])

end Start

/-- JOB_STOP of a job that is not started answers at once (log 21). -/
theorem Device.jobStop_of_stopped (stopped : ∀ x, d.run r.id = some x → x.started = false) :
    d.jobStop n = d.reply n stOk [] := by
  simp only [Device.jobStop, job]
  cases run : d.run r.id with
  | none => rfl
  | some x => simp [stopped x run]

/-- JOB_STOP of a started job keeps its Drawer BUSY and stops the job (R531). -/
theorem Device.jobStop_of_started {x : JobRun} (run : d.run r.id = some x) (started : x.started = true) :
    d.jobStop n = (d.goOn n).stopJob r := by
  simp only [Device.jobStop, job, run, started, if_true]

end Job

/-! ### MODE_CHANGE -/

/-- The device with epoch `e` and a mode change accepted from Drawer `n` in each of the partitions `ps`: the change waits for the
units that work in the old epoch (R569, R570). -/
def Device.beginModes (d : Device) (ps : List Nat) (e : BitVec 16) (n : Fin 64) : Device :=
  let parts := d.jobs.parts.zipIdx.map fun (x : Partition × Nat) =>
    if ps.contains x.2 then { x.1 with epoch := e, mode := some (d.oldUnits x.2 n) } else x.1
  { d with jobs := { d.jobs with parts } }

/-- MODE_CHANGE to an epoch that is new to every partition that it names, where each is in use and in no mode change, keeps its
Drawer BUSY and begins the change (R569). -/
theorem Device.modeChange_of_new {d : Device} {n : Fin 64} {ps : List Nat} {e : BitVec 16}
    (hps : (List.range 8).filter (fun i => bitAt (fld (d.params n) 7 0) i) = ps)
    (he : BitVec.ofNat 16 (fld (d.params n) 31 16) = e) (named : ps ≠ [])
    (new : ∀ p ∈ ps, (d.part p).record.isSome = true ∧ (d.part p).epoch ≠ e ∧ (d.part p).mode = none) :
    d.modeChange n = ((d.goOn n).beginModes ps e n).finishModes := by
  have used : ¬ (ps.isEmpty = true ∨ (ps.any fun p => (d.part p).record.isNone) = true) := by
    simpa [named] using fun p mem => Option.isSome_iff_ne_none.mp (new p mem).1
  have other : ¬ (ps.any fun p => (d.part p).epoch == e) = true := by
    simpa using fun p mem => (new p mem).2.1
  have settled : ¬ (ps.any fun p => (d.part p).mode.isSome) = true := by
    simpa using fun p mem => (new p mem).2.2
  subst hps he
  exact (if_neg used).trans ((if_neg other).trans (if_neg settled))

/-! ### The rows -/

/-- Settles O27: the job's run decides whether JOB_START and JOB_STOP act or answer at once, and the partitions' epochs and modes
let MODE_CHANGE begin. That a command whose job is already so answers at once is the reading of log 21. -/
theorem jobCommandsComplete : Obligations.JobCommandsComplete := by
  intro s now n d
  have hd : (advance now s.dev).taken n = d := rfl
  refine ⟨?start, ?already, ?stop, ?mode⟩
  case start =>
    intro r accepted job staying enabled
    have enabled : r.engine = 5 → d.bur.win.outputsEnabled = true := by simpa [d] using enabled
    exact ⟨fun idle => State.drawerCommand_serves accepted hd (Device.jobStart_of_idle job staying enabled idle),
      fun x run going started admitted =>
        State.drawerCommand_serves accepted hd (Device.jobStart_of_started job staying enabled run going started admitted)⟩
  case already =>
    intro r accepted job stopped
    exact State.drawerCommand_serves accepted hd (Device.jobStop_of_stopped job stopped)
  case stop =>
    intro r x accepted job run started
    exact State.drawerCommand_serves accepted hd (Device.jobStop_of_started job run started)
  case mode =>
    intro accepted ps e named new
    exact State.drawerCommand_serves accepted hd (Device.modeChange_of_new rfl rfl named new)

end Sys2Proof.Machine
end

section
/-!
PROOF. The period of a Control Engine slot: its start, latch, comparison and output write (O46).
-/

namespace Sys2Proof.Machine

/-! ### The comparison of the halves (R527, R528) -/

section Compare

variable {d : Device} {k : Nat} {a b : CeVectors} (first : (d.slot k).out = some a) (second : (d.slot k).out2 = some b)
include first second

/-- Equal results of the halves take the slot on to its output write (R527). -/
theorem Device.compareSlot_of_equal (outputs : a.y = b.y) (states : a.x = b.x) (integrators : a.z = b.z) :
    d.compareSlot k = d.setSlot k { d.slot k with compared := true, badNow := false, stage := 2 } := by
  simp [Device.compareSlot, first, second, outputs, states, integrators]

/-- Results that differ in any vector mark the slot, with its output bad where the outputs differ, and are counted and notified
(R528). -/
theorem Device.compareSlot_of_differ (differ : a.y ≠ b.y ∨ a.x ≠ b.x ∨ a.z ≠ b.z) :
    d.compareSlot k =
      ((d.setSlot k { d.slot k with compared := true, badNow := a.y != b.y, mismatchNext := true, stage := 2 }).slotCount k
        fun n => { n with mismatch := sat32 (n.mismatch + 1) }).notify stLoopMismatch srcSlot (BitVec.ofNat 16 k) := by
  have bad : (a.y != b.y || a.x != b.x || a.z != b.z) = true := by simpa [or_assoc] using differ
  simp only [Device.compareSlot, first, second, bad, Bool.or_true, if_true]

end Compare

/-! ### The rows of a slot -/

section Slot

variable {s : State} {now : Time} {d : Device} {k : Fin 256} {c : Image}
variable (up : s.isUp) (hd : advance now s.dev = d) (desc : d.ceDesc k = some c) (running : (d.slot k).running = true)
include up hd desc running

/-- A slot that waits for its period, in halves that work, begins it at the generator's instant (R518, R520). -/
theorem execSlotPeriodStart_of_due {t : Time} {e : Device} (between : (d.slot k).stage = 3) (served : d.slotServed c = true)
    (instant : (if CeDesc.lockEn c then (d.slot k).gen.due
      else some (if (d.slot k).gen.first then (d.slot k).gen.last else addT (d.slot k).gen.last (CeDesc.period c))) = some t)
    (due : reached d.ceNow t = true) (begun : d.beginSlotPeriod k c t = e) :
    execSlotPeriodStart now k s = .next (s.withDev e) := by
  refine State.onUp_answers up hd _ ?_
  simp [desc, running, between, served, instant, due, begun]

/-- A running slot latches its inputs LATCH_PHASE after the start of its period (R513). -/
theorem execInputLatch_of_due (u : Option Upset) (begun : (d.slot k).stage = 0)
    (due : reached d.ceNow (addT (d.slot k).gen.last (CeDesc.latchPhase c)) = true) :
    execInputLatch now k u s = .next (s.timed now fun d => d.latchSlot k c u) := by
  refine State.onUp_timed up hd ?_
  simp only [desc]
  exact if_pos ⟨running, begun, due⟩

/-- A running slot whose results are ready writes its output OUT_PHASE after the start of its period, once no lower slot is due at
the same instant; a store error that it meets stops its job (R522, R523, R532). -/
theorem execOutputWrite_of_due {r : JobRef} {finding : ScrubFinding}
    (ready : if d.slotSafety c then (d.slot k).stage = 2 else (d.slot k).stage = 1)
    (due : reached d.ceNow (addT (d.slot k).gen.last (CeDesc.outPhase c)) = true)
    (next : d.lowerSlotDue k (addT (d.slot k).gen.last (CeDesc.outPhase c)) = false)
    (job : (d.writeSlot k c finding).job (BitVec.ofNat 16 (CeDesc.jobId c)) = some r) :
    execOutputWrite now k finding s = .next (s.timed now fun d =>
      let e := d.writeSlot k c finding
      ((if finding = .uncorrectable then e.stopJob r else e).settleStop r.id).settleStarts) := by
  refine State.onUp_timed up hd ?_
  simp only [desc]
  refine (if_pos ⟨running, ready, due, by simp [next]⟩).trans ?_
  simp only [job]

end Slot

/-- A comparison finds a slot whose inputs are latched (R527). -/
theorem execLoopCompare_of_latched {s : State} {now : Time} {d e : Device} {k : Fin 256} (up : s.isUp)
    (hd : advance now s.dev = d) (latched : (d.slot k).stage = 1) (compared : d.compareSlot k = e) :
    execLoopCompare now k s = .next (s.withDev e) :=
  State.onUp_answers up hd _ ((if_pos latched).trans compared)

/-- Settles O46: the slot's stage and the instant of its period lead each row to its one operation, and the halves' results decide
the comparison. -/
theorem slotRowsComplete : Obligations.SlotRowsComplete := by
  intro s now k c up
  generalize hd : advance now s.dev = d
  refine ⟨?start, ?latch, ?compare, ?write⟩
  case start =>
    intro t desc running between served instant due
    have instant : (if CeDesc.lockEn c then (d.slot k).gen.due
        else some (if (d.slot k).gen.first then (d.slot k).gen.last else addT (d.slot k).gen.last (CeDesc.period c)))
          = some t := by
      cases lock : CeDesc.lockEn c
      · simp only [lock, Bool.false_eq_true, if_false] at instant ⊢
        rw [instant]
      · simpa [lock] using instant
    subst hd
    exact execSlotPeriodStart_of_due up rfl desc running between served instant due rfl
  case latch =>
    intro u desc running begun due
    exact execInputLatch_of_due up hd desc running u begun due
  case compare =>
    intro a b latched first second
    subst hd
    exact ⟨fun outputs states integrators => execLoopCompare_of_latched up rfl latched
        (Device.compareSlot_of_equal first second outputs states integrators),
      fun differ => execLoopCompare_of_latched up rfl latched (Device.compareSlot_of_differ first second differ)⟩
  case write =>
    intro r finding desc running ready due next job
    exact execOutputWrite_of_due up hd desc running ready due next job

end Sys2Proof.Machine
end

section
/-!
PROOF. The commands that take partitions through their boundary (O25).
-/

namespace Sys2Proof.Machine

@[simp] theorem advance_part (now : Time) (d : Device) (k : Nat) : (advance now d).part k = d.part k := by
  simp [Device.part]

/-- PLAN_ACTIVATE of a loaded Plan in partitions that it names, with no boundary of another command in any of them and no fault to
refuse it, keeps its Drawer BUSY and begins their boundary (R574). -/
theorem Device.planActivate_of_fits {d : Device} {n : Fin 64} {ps : List Nat} {h : BitVec 16} {pl : LoadedPlan}
    (hps : (List.range 8).filter (fun i => bitAt (fld (d.params n) 23 16) i) = ps)
    (hh : BitVec.ofNat 16 (fld (d.params n) 15 0) = h) (loaded : d.plan h = some pl) (named : ps ≠ [])
    (inMask : ∀ i ∈ ps, bitAt (PlanHdr.partMask (planHdr pl.bytes)) i = true) (settled : ∀ i ∈ ps, d.changing i = false)
    (sound : d.activationFault ps h = none) :
    d.planActivate n =
      ps.foldl (fun (d : Device) i => d.beginBoundary i (.activate n h)) ((d.goOn n).stopRemoved (d.withPlan ps h) ps) := by
  have fits : ¬ (ps.isEmpty = true ∨ (ps.any fun i => !bitAt (PlanHdr.partMask (planHdr pl.bytes)) i) = true) := by
    simpa [named] using inMask
  have free : ¬ ps.any d.changing = true := by simpa using settled
  subst hps hh
  simp only [Device.planActivate, loaded, if_neg fits, if_neg free, sound]

/-- Once every partition of an activation is quiet, the activation goes on in all of them together (R574). -/
theorem Device.partitionQuiesced_of_activate {d : Device} {k : Nat} {m : Fin 64} {h : BitVec 16} {since : Time}
    (boundary : (d.part k).boundary = some { kind := .activate m h, since })
    (quiet : ∀ q ∈ d.sameBoundary (.activate m h),
      d.quiet q = true ∧ d.slotsQuiet (d.withPlan (d.sameBoundary (.activate m h)) h) q = true) :
    d.partitionQuiesced k = d.finishActivation m (d.sameBoundary (.activate m h)) h false := by
  simp only [Device.partitionQuiesced, boundary]
  exact if_pos (by simpa using quiet)

/-- A repair boundary runs step 4 and ends once its partition is quiet (R574). -/
theorem Device.partitionQuiesced_of_repair {d : Device} {k : Nat} {since : Time}
    (boundary : (d.part k).boundary = some { kind := .repair, since }) (quiet : d.quiet k = true) :
    d.partitionQuiesced k = (((d.boundaryStep4 k).endBoundary [k]).startPlanners).settleStarts := by
  simp only [Device.partitionQuiesced, boundary, quiet, if_true]

/-- PARTITION_SET of a sound record for a partition without an active Plan keeps the record for the next PLAN_ACTIVATE (log 38). -/
theorem Device.partitionSet_of_inactive {d : Device} {n : Fin 64} {x : Image} {k : Nat} (hx : d.params n % 2 ^ 256 = x)
    (hk : PartRec.part x = k) (ok : partOk d x = true)
    (apart : partsApart (x :: (List.range 8).filterMap fun i =>
      if i ≠ k ∧ (d.part i).active.isSome then (d.part i).record else none) = true)
    (settled : d.changing k = false) (inactive : (d.part k).active = none) :
    d.partitionSet n = (d.setPart k { d.part k with next := some x }).reply n stOk [] := by
  subst hx hk
  simp only [Device.partitionSet, ok, apart, settled, inactive, Bool.not_true, Bool.or_self, Bool.false_eq_true, if_false]

/-- Settles O25: each command's checks are decided by the conditions of its clause, and a quiet boundary goes on by its kind. -/
theorem boundaryRowsComplete : Obligations.BoundaryRowsComplete := by
  intro s now n d
  have hd : (advance now s.dev).taken n = d := rfl
  refine ⟨?activate, ?quiesced, ?repaired, ?set⟩
  case activate =>
    intro accepted pl p h ps loaded named inMask settled sound
    exact State.drawerCommand_serves accepted hd (Device.planActivate_of_fits rfl rfl loaded named inMask settled sound)
  case quiesced =>
    intro k m h since up d boundary ps quiet
    exact State.onUp_timed (f := (·.partitionQuiesced k)) up rfl (Device.partitionQuiesced_of_activate boundary quiet)
  case repaired =>
    intro k since up boundary quiet
    have boundary : ((advance now s.dev).part k).boundary = some { kind := .repair, since } := by simpa using boundary
    exact State.onUp_timed (f := (·.partitionQuiesced k)) up rfl (Device.partitionQuiesced_of_repair boundary quiet)
  case set =>
    intro accepted x k ok apart settled inactive
    exact State.drawerCommand_serves accepted hd (Device.partitionSet_of_inactive rfl rfl ok apart settled inactive)

end Sys2Proof.Machine
end

section
/-!
PROOF. The starts of periods and the grants for background work (O48).
-/

namespace Sys2Proof.Machine

/-- A job without a period in progress has none that is late. -/
theorem Device.lateEnd_of_closed {d : Device} {j : BitVec 16} (closed : d.openPeriod j = none) : d.lateEnd j = d := by
  simp only [Device.lateEnd, closed]

section Start

variable {d : Device} {r : JobRef} {x : JobRun} (run : d.run r.id = some x) (idle : x.idle = true)
  (inside : d.inBoundary r.part = false)
include run idle inside

section Periodic

variable (closed : d.openPeriod r.id = none)
include closed

/-- An idle job starts its period at the instant at which it falls due (R542). -/
theorem Device.periodicDue_of_idle (foreground : r.background = false) (t : Time) : d.periodicDue r t = d.startPeriod r x t := by
  simp [Device.periodicDue, Device.lateEnd_of_closed closed, run, inside, foreground, idle]

/-- A period of background work that falls due waits for its grant where the governor does not bar it (R542, R602). -/
theorem Device.periodicDue_of_background (background : r.background = true) (admitted : d.pow.gov.barred = false) (t : Time) :
    d.periodicDue r t = d.setRun r.id
      { x with phase := .waiting, waitS := some t, gen := { x.gen with last := t, first := false, due := none } } := by
  simp [Device.periodicDue, Device.lateEnd_of_closed closed, run, inside, background, admitted, idle]

end Periodic

section Hook

variable (trigger : JobRec.trigger r.image = 1) (signalled : (d.hook (JobRec.triggerHook r.image)).count ≠ 0)
include trigger signalled

/-- An idle job takes the whole count of its Hook, starts for one unit of it and counts the rest as skipped (R544). -/
theorem Device.hookStart_of_idle (foreground : r.background = false) :
    d.hookStart r =
      let h := JobRec.triggerHook r.image
      ((d.setHook h { d.hook h with count := 0 }).count (clientOf r) 3 ((d.hook h).count - 1)).startPeriod r x d.hub := by
  simp [Device.hookStart, run, idle, signalled, trigger, inside, foreground]

/-- Background work that its Hook starts waits for its grant and leaves the Hook its count (R544, R602). -/
theorem Device.hookStart_of_background (background : r.background = true) :
    d.hookStart r = d.setRun r.id { x with phase := .waiting } := by
  simp [Device.hookStart, run, idle, signalled, trigger, inside, background]

end Hook

end Start

/-- Waiting background work is granted its period where a variant can run within the budget on tiles that are free (R602). -/
theorem Device.considerGrant_of_waiting {d : Device} {r : JobRef} {x : JobRun} {v : Nat} (run : d.run r.id = some x)
    (started : x.started = true) (going : x.stopping = false) (admitted : x.barred = false) (closed : x.period = none)
    (waiting : x.phase = .waiting) (inside : d.inBoundary r.part = false) (untested : d.unitInSlice r = false)
    (variant : (if r.engine = engTrestle then d.chooseVariant r x d.hub else some 0) = some v) (budget : d.budgetOk r x v = true)
    (free : (d.variantTiles r v).all d.tileFree = true) :
    d.considerGrant r = d.startGranted r { x with phase := .idle } := by
  simp [Device.considerGrant, run, started, going, admitted, closed, waiting, inside, untested, variant, budget, free]

/-- A job whose next instant has come takes it (R542). -/
theorem execPeriodicPeriodStart_of_due {s : State} {now : Time} {d : Device} {j : BitVec 16} {r : JobRef} {t : Time} (up : s.isUp)
    (hd : advance now s.dev = d) (job : d.job j = some r) (next : d.nextDue r = some t) (due : reached d.hub t = true)
    {g : Device → Device} (begun : d.periodicDue r t = g d) :
    execPeriodicPeriodStart now j s = .next (s.timed now g) :=
  State.onUp_timed up hd (by simp only [job, next, due, if_true, begun])

/-- A job that its Hook may start looks at the Hook, and then its slots' queues follow it (R244, R544). -/
theorem execHookTriggeredStart_of_job {s : State} {now : Time} {d : Device} {j : BitVec 16} {r : JobRef} (up : s.isUp)
    (hd : advance now s.dev = d) (job : d.job j = some r) {g : Device → Device} (begun : d.hookStart r = g d) :
    execHookTriggeredStart now j s = .next (s.timed now fun d => (g d).syncChunks r) :=
  State.onUp_timed up hd (by simp only [job, begun])

/-- Settles O48: the job's run and its instant or its Hook decide whether a period starts, and the budget and the tiles decide on a
grant. -/
theorem periodStartRowsComplete : Obligations.PeriodStartRowsComplete := by
  intro s now up d
  have hd : advance now s.dev = d := rfl
  refine ⟨?periodic, ?hook, ?grants, ?grant⟩
  case periodic =>
    intro j r x t job next due closed run inside
    refine ⟨fun foreground idle => ?_, fun background idle admitted => ?_⟩
    · exact execPeriodicPeriodStart_of_due up hd job next due (Device.periodicDue_of_idle run idle inside closed foreground t)
    · have admitted : d.pow.gov.barred = false := by simpa [d] using admitted
      exact execPeriodicPeriodStart_of_due up hd job next due
        (Device.periodicDue_of_background run idle inside closed background admitted t)
  case hook =>
    intro j r x job run idle trigger inside signalled h
    exact ⟨fun foreground => execHookTriggeredStart_of_job up hd job
        (Device.hookStart_of_idle run idle inside trigger signalled foreground),
      fun background => execHookTriggeredStart_of_job up hd job
        (Device.hookStart_of_background run idle inside trigger signalled background)⟩
  case grants =>
    show execBackgroundGrant now s = _
    exact State.onUp_timed up hd rfl
  case grant =>
    intro r x v run started going admitted closed waiting inside untested variant budget free
    exact Device.considerGrant_of_waiting run started going admitted closed waiting inside untested variant budget free

end Sys2Proof.Machine
end

section
/-!
PROOF. The ends of periods, and the save and reload of background work (O49).
-/

namespace Sys2Proof.Machine

section Period

variable {d : Device} {j : BitVec 16} {r : JobRef} {x : JobRun} {p : Period} (opened : d.openPeriod j = some (r, x, p))
include opened

/-! ### Deadlines and completion (R549 to R552) -/

/-- A late period is withheld with ST_LATE at its deadline (R550). -/
theorem Device.lateEnd_of_late {e : Time} (late : d.isLate r p = true) (deadline : r.deadline p = some e) :
    d.lateEnd j =
      (((((d.cancelPeriod j stLate).modPeriod j fun q => { q with cause := some (stLate, e) }).dropSaved j).cleanUp
        j).startPlanners).settleStarts := by
  simp only [Device.lateEnd, opened, late, deadline, if_true]

/-- A period that a cause has ended is cleaned up (R552). -/
theorem Device.periodComplete_of_withheld (withheld : p.cause.isSome = true) :
    d.periodComplete j = ((d.cleanUp j).startPlanners).settleStarts := by
  simp only [Device.periodComplete, opened, withheld, if_true]

/-- A period that is done on time is published once no Hook operation that may withhold it is on its way (R549). -/
theorem Device.periodComplete_of_done {st : Status} {t : Time} (kept : p.cause = none) (done : p.done = some (st, t))
    (onTime : d.isLate r p = false) (landed : d.hookPending j = false) : d.periodComplete j = d.publish r p st t := by
  simp [Device.periodComplete, opened, kept, done, onTime, landed]

/-! ### Saving (R554, R555) -/

/-- A running period of background work in Trestle stops its tiles for a save (R554). -/
theorem Device.beginSave_of_running (background : r.background = true) (fabric : r.engine = engTrestle) (running : x.phase = .running)
    (kept : p.cause = none) (undone : p.done = none) :
    d.beginSave j =
      (p.left.foldl (fun (d : Device) (t : Fin 4160) =>
        { d.setTile t (d.tile t).beginSave with hooks := d.hooks.forgetWaits (.tile t) }) d).setRun j
          { x with phase := .saving, stopWait := p.left } := by
  simp only [Device.beginSave, opened]
  exact if_pos ⟨background, fabric, running, by simp [kept], by simp [undone]⟩

section Save

variable {t : Fin 4160} {se : StoreErrors} {f : Device} (mine : d.tileJob t = some j) (tile : (d.tile t).t.phase = .saving)
  (saving : x.phase = .saving)
include mine tile saving

/-- A tile whose store has an uncorrectable error consumes poison, and its job's save is dropped (R112). -/
theorem Device.saveDone_of_poisoned (read : d.storeRead t se [(0, saveStore)] = (f, true)) :
    d.saveDone t se = (f.dropSaved r.id).consumePoison t := by
  simp [Device.saveDone, mine, opened, tile, saving, read]

/-- A tile with a sound store leaves its image and becomes free, and the job is saved with the last one (R555). -/
theorem Device.saveDone_of_sound (read : d.storeRead t se [(0, saveStore)] = (f, false)) :
    d.saveDone t se =
      let y := f.tile t
      let e := f.writeSave r (JobRec.saveBase r.image + saveImage * f.savePos r p t) y
      let e := { e with saved := e.saved.put (r.id.toNat * 8192 + t.val) y }
      let e := e.setTile t { y with t := { y.t with phase := .idle, job := none, queues := [[], [], [], []] }
                                    r := TileRun.fresh }
      let rest := x.stopWait.filter (· != t)
      let e := e.setRun r.id { x with stopWait := rest, phase := if rest.isEmpty then .saved else .saving }
      if rest.isEmpty then e.settleStarts else e := by
  simp [Device.saveDone, mine, opened, tile, saving, read]

end Save

/-! ### Reloading (R556) -/

/-- The device with one more tile reloaded, and the tiles so far whose saved context was lost. -/
def Device.reloadNext (r : JobRef) (p : Period) (a : Device × List (Fin 4160)) (t : Fin 4160) : Device × List (Fin 4160) :=
  ((a.1.reloadTile r p t).1, if (a.1.reloadTile r p t).2 then a.2 ++ [t] else a.2)

/-- A saved job whose tiles are free goes on within its budget, and the tiles that lost their context consume poison (R556,
R112). -/
theorem Device.resumeJob_of_saved {e : Device} {lost : List (Fin 4160)} (saved : x.phase = .saved)
    (free : p.left.all d.tileFree = true) (budget : d.budgetOk r x p.variant = true) (inside : d.inBoundary r.part = false)
    (reloaded : p.left.foldl (Device.reloadNext r p) (d, []) = (e, lost)) :
    d.resumeJob j = lost.foldl Device.consumePoison
      ((e.dropSaved j).setRun j { x with phase := .running, period := some { p with preempted := true } }) := by
  have ready : ¬ (x.phase ≠ .saved ∨ (!p.left.all d.tileFree) = true ∨ (!d.budgetOk r x p.variant) = true
      ∨ d.inBoundary r.part = true) := by
    simp [saved, free, budget, inside]
  unfold Device.reloadNext at reloaded
  simp only [Device.resumeJob, opened, if_neg ready, reloaded]

end Period

/-- A tile with a saved context takes its store from memory, poison included, and goes on with RESUMED set (R556, R632). -/
theorem Device.reloadTile_of_saved {d : Device} {r : JobRef} {p : Period} {t : Fin 4160} {y : TileState}
    (saved : d.saved.find (r.id.toNat * 8192 + t.val) = some y) :
    d.reloadTile r p t =
      let base := JobRec.saveBase r.image + saveImage * d.savePos r p t
      let g := d.dmaRead r.part base saveStore []
      let h := g.1.hubRead r.part (base + saveStore) saveContext
      let z := (({ y with t := { y.t with phase := .running, store := [], poison := [] } } : TileState).putStore 0 g.2.1).setResumed
      (h.1.setTile t { z with t := { z.t with poison := g.2.2 } }, h.2) := by
  simp only [Device.reloadTile, saved]

/-! ### The rows -/

/-- A save begins where another job of Trestle needs the tiles, the governor bars background work or the partition changes its mode
(R554, R557, R570). -/
theorem execSaveBegin_of_needed {s : State} {now : Time} {d : Device} {j : BitVec 16} {r : JobRef} {x : JobRun} {p : Period}
    (up : s.isUp) (hd : advance now s.dev = d) (opened : d.openPeriod j = some (r, x, p))
    (needed : (d.part r.part).mode.isSome = true ∨ d.pow.gov.barred = true
      ∨ d.activeJobs.any (fun q => q.id != j && q.engine == engTrestle && ((d.nextDue q).isSome
          || (d.run q.id).any fun y => y.period.isSome || y.phase == .waiting)
        && (List.range (JobRec.variants q.image)).any fun v => (d.variantTiles q v).any p.left.contains) = true)
    {g : Device → Device} (begun : d.beginSave j = g d) : execSaveBegin now j s = .next (s.timed now g) := by
  refine State.onUp_timed up hd ?_
  simp only [opened]
  refine (if_pos ?_).trans begun
  rcases needed with mode | barred | tiles
  · exact .inr (.inr mode)
  · exact .inr (.inl barred)
  · exact .inl tiles

/-- Settles O49: the job's open period, with its cause, its completion and its phase, leads each row to its one operation. What a
store or a saved context with an uncorrectable error does is the reading of log 23. -/
theorem periodEndRowsComplete : Obligations.PeriodEndRowsComplete := by
  intro s now j r x p up opened d
  have hd : advance now s.dev = d := rfl
  refine ⟨?late, ?withheld, ?done, ?save, ?saved, ?resume, fun t y saved => Device.reloadTile_of_saved saved⟩
  case late =>
    intro e late deadline
    exact State.onUp_timed (f := (·.lateEnd j)) up hd (Device.lateEnd_of_late opened late deadline)
  case withheld =>
    intro withheld
    exact State.onUp_timed (f := (·.periodComplete j)) up hd (Device.periodComplete_of_withheld opened withheld)
  case done =>
    intro st t kept done onTime landed
    exact State.onUp_timed (f := (·.periodComplete j)) up hd (Device.periodComplete_of_done opened kept done onTime landed)
  case save =>
    intro background fabric running kept undone needed
    exact execSaveBegin_of_needed up hd opened needed
      (Device.beginSave_of_running opened background fabric running kept undone)
  case saved =>
    intro t se f mine tile saving
    exact ⟨fun read => State.onUp_answers up hd (·.saveDone t se) (Device.saveDone_of_poisoned opened mine tile saving read),
      fun read => State.onUp_answers up hd (·.saveDone t se) (Device.saveDone_of_sound opened mine tile saving read)⟩
  case resume =>
    intro e lost saved free budget inside back reloaded
    exact State.onUp_answers up hd (·.resumeJob j) (Device.resumeJob_of_saved opened saved free budget inside reloaded)

end Sys2Proof.Machine
end

section
/-!
PROOF. The power governor's intervals, trims, readings and limits (O55).
-/

namespace Sys2Proof.Machine

/-! ### The stop for temperature -/

/-- The watch over STATUS may add an IBI, and leaves the Lectern and the power state as the change left them (R711). -/
@[simp] theorem Device.watchStatus_lect (d : Device) (f : Device → Device) : (d.watchStatus f).lect = (f d).lect := by
  unfold Device.watchStatus
  dsimp only
  split <;> rfl

@[simp] theorem Device.watchStatus_pow (d : Device) (f : Device → Device) : (d.watchStatus f).pow = (f d).pow := by
  unfold Device.watchStatus
  dsimp only
  split <;> rfl

/-- What keeps a held safe state keeps its pins low (R685). -/
theorem Keeps.held {d e : Device} (kept : Keeps d e) (safe : d.lect.safe = true) (a : d.lect.pinA = false)
    (b : d.lect.pinB = false) : e.lect.safe = true ∧ e.lect.pinA = false ∧ e.lect.pinB = false :=
  have held := kept.safe safe
  ⟨held, kept.weak.pins (fun _ => ⟨a, b⟩) held⟩

/-- The stop for temperature ends in the safe state with both pins low and every switchable domain off (R596). -/
theorem Device.thermalStop_stops (d : Device) (sensor : Nat) :
    (d.thermalStop sensor).pow.phase = .shut ∧ (d.thermalStop sensor).lect.safe = true
      ∧ (d.thermalStop sensor).lect.pinA = false ∧ (d.thermalStop sensor).lect.pinB = false := by
  refine ⟨rfl, Keeps.held (d := d.enterSafe .thermal stThermal (BitVec.ofNat 16 sensor)) ?_ ?_ ?_ ?_⟩
  · exact Device.shutdown_keeps (Device.event_keeps (.refl _) ..)
  all_goals rw [Device.enterSafe, Device.watchStatus_lect]

/-! ### The readings of the junction sensors -/

section Readings

variable {d : Device} {raw : List (BitVec 16)} {rs : List Int} {used : List (Nat × Int)}
  (hrs : ((raw.take 144).zipIdx.map fun (e : BitVec 16 × Nat) => d.corrected e.2 e.1.toInt) = rs)
  (hused : ((rs.zipIdx.map fun (e : Int × Nat) => (e.2, e.1)).filter fun e => d.pow.gov.inUse e.1) = used)
include hrs hused

/-- With every sensor in use below 105 °C the readings are stored, and the time for which each die has been cool goes on or ends
(R591, R595). -/
theorem Device.readSensors_of_cool (cool : ∀ e ∈ used, e.2 < 6720) :
    d.readSensors raw = d.gov fun g => { g with
      sensors := rs, hotSince := []
      heat := g.heat.zipIdx.map fun (e : DieHeat × Nat) =>
        { e.1 with coolSince := if (used.filter fun u => sensorDie u.1 == e.2).all
                      (fun u => decide (u.2 < (64 * g.limits.tjTarget : Nat))) then some (e.1.coolSince.getD d.hub) else none } } := by
  have noneHot : (used.filter fun e => decide (6720 ≤ e.2)) = [] := by simpa using cool
  have noStop : (used.find? fun e => decide (7040 ≤ e.2)) = none := by
    simp only [List.find?_eq_none, decide_eq_true_eq]
    intro e he
    have := cool e he
    omega
  simp only [Device.readSensors, hrs, hused, noneHot, noStop, List.foldl_nil]
  rfl

/-- A sensor in use at 110 °C or more stops the module, whatever emergencies the readings begin (R596). -/
theorem Device.readSensors_of_hot (hot : ∃ e ∈ used, 7040 ≤ e.2) :
    ∃ (e : Device) (sensor : Nat), d.readSensors raw = e.thermalStop sensor := by
  obtain ⟨u, found⟩ : ∃ u, (used.find? fun e => decide (7040 ≤ e.2)) = some u := by
    simpa [← Option.isSome_iff_exists] using hot
  simp only [Device.readSensors, hrs, hused, found]
  exact ⟨_, _, rfl⟩

end Readings

/-! ### The rows -/

/-- A die in emergency whose sensors have all read below TJ_TARGET for 1 ms meets the condition of its recovery (R595). -/
theorem Device.dieRecovers_of_cool {d : Device} {k : Nat} {t : Time}
    (emergency : nth d.pow.gov.heat k ⟨false, none⟩ = ⟨true, some t⟩) (passed : reached d.hub (addT t (usHub 1000)) = true) :
    (nth d.pow.gov.heat k ⟨false, none⟩).emergency
      ∧ (nth d.pow.gov.heat k ⟨false, none⟩).coolSince.any fun t => reached d.hub (addT t (usHub 1000)) := by
  rw [emergency]
  exact ⟨rfl, (Option.any_eq_true ..).2 ⟨t, rfl, passed⟩⟩

section Rows

variable {s : State} {now t : Time} {d : Device} (up : s.isUp) (hd : advance now s.dev = d)
include up hd

/-- A sensor that has read 105 °C or more for 100 ms stops the module (R596). -/
theorem execThermalHoldExpiry_of_hot {e : Nat × Time}
    (found : d.pow.gov.hotSince.find? (fun e => reached d.hub (addT e.2 (usHub 100000))) = some e) :
    execThermalHoldExpiry now s = .next (s.timed now (·.thermalStop e.1)) := by
  refine State.onUp_timed up hd ?_
  simp only [found]

/-- The estimate has exceeded the limit for 50 µs with the background tiles at their floor: background work is put aside (R593). -/
theorem execPowerOverrunPreempt_of_over (since : d.pow.gov.overSince = some t)
    (passed : reached d.hub (addT t (usHub 50)) = true) :
    execPowerOverrunPreempt now s = .next (s.timed now Device.overrunPreempt) := by
  refine State.onUp_timed up hd ?_
  simp only [since, passed, if_true]

/-- The estimate has exceeded the limit for 10 ms at the floors: the event is raised, once (R594). -/
theorem execPowerLimitEvent_of_over (unraised : d.pow.gov.limitRaised = false) (since : d.pow.gov.limitSince = some t)
    (passed : reached d.hub (addT t (usHub 10000)) = true) :
    execPowerLimitEvent now s = .next (s.timed now fun d =>
      (d.gov fun g => { g with limitRaised := true }).event stPowerLimit srcNone 0 0) := by
  refine State.onUp_timed up hd (if_pos ⟨?_, (Option.any_eq_true ..).2 ⟨t, since, passed⟩⟩)
  rw [unraised, Bool.not_false]

end Rows

/-- Settles O55: each row's guard is decided by the condition of its clause. Readings below 105 °C find no sensor hot, and one at
110 °C is found whatever emergencies the readings begin. How powers are rounded and classes lowered is the reading of log 24. -/
theorem governorRowsComplete : Obligations.GovernorRowsComplete := by
  intro s now up d g
  have hd : advance now s.dev = d := rfl
  refine ⟨?interval, ?trim, ?sensors, fun e found => execThermalHoldExpiry_of_hot up hd found, ?recovery, ?overrun, ?limit, ?droop⟩
  case interval =>
    intro r
    show execGovernorInterval now r s = _
    exact State.onUp_timed up hd rfl
  case trim =>
    intro m
    show execTrimUpdate now m s = _
    exact State.onUp_timed up hd rfl
  case sensors =>
    intro raw rs used
    refine ⟨fun cool => ?_, fun hot => ?_⟩
    · exact State.onUp_timed (f := (·.readSensors raw)) up hd (Device.readSensors_of_cool rfl rfl cool)
    · obtain ⟨e, sensor, stops⟩ := Device.readSensors_of_hot (d := d) rfl rfl hot
      have stopped := e.thermalStop_stops sensor
      generalize e.thermalStop sensor = f at stops stopped
      exact ⟨s.withDev f, State.onUp_answers up hd (·.readSensors raw) stops, rfl, stopped⟩
  case recovery =>
    intro die t k emergency passed
    have recovers := Device.dieRecovers_of_cool emergency passed
    show execThermalRecovery now die s = _
    refine State.onUp_timed up hd ?_
    cases die <;> exact (if_pos recovers).trans (by rw [emergency])
  case overrun =>
    intro t since passed
    exact execPowerOverrunPreempt_of_over up hd since passed
  case limit =>
    intro t unraised since passed
    exact execPowerLimitEvent_of_over up hd unraised since passed
  case droop =>
    intro die
    show execDroopDetect now die s = _
    exact State.onUp_timed up hd rfl

end Sys2Proof.Machine
end

section
/-!
PROOF. The switching of the power domains, the scrubs of main memory and the persistent record (O56).
-/

namespace Sys2Proof.Machine

/-! ### A domain that has gone off -/

@[simp] theorem Device.reply_pow (d : Device) (n : Fin 64) (st : Status) (bs : Bytes) : (d.reply n st bs).pow = d.pow := rfl

/-- The end of the entry to standby keeps the edge of the wake pin that came meanwhile (R797). -/
theorem Device.inStandby_wake (d : Device) (n : Fin 64) : (d.inStandby n).pow.wake = d.pow.wake := by
  simp only [Device.inStandby, Device.reply_pow, Device.watchStatus_pow, Device.win_rest]

section Off

variable {d e : Device} {k : Nat} {t : Time} {again : Bool} (going : d.dom k = .goingOff t again)
  (off : (d.setDom k .off).loseDomain k = e)
include going off

/-- Outside an entry to standby, a domain that is off goes on again where it is needed, or was meanwhile (R584). -/
theorem Device.domainOff_of_running (running : e.enteringStandby = none) :
    d.domainOff k = if again = true ∨ e.needed k = true then e.setDom k (.goingOn e.hub) else e := by
  simp only [Device.domainOff, going, off, running]

/-- During an entry to standby, a domain that is off stays off while others are still on (R609). -/
theorem Device.domainOff_of_othersOn {n : Fin 64} (entering : e.enteringStandby = some n) (others : e.allOff = false) :
    d.domainOff k = e := by
  simp only [Device.domainOff, going, off, entering, others, Bool.not_false, if_true]

/-- The last domain that goes off completes the entry to standby, in which the module stays where no edge of the wake pin came
meanwhile (R609, R797). -/
theorem Device.domainOff_of_last {n : Fin 64} (entering : e.enteringStandby = some n) (all : e.allOff = true)
    (asleep : e.pow.wake = none) : d.domainOff k = e.inStandby n := by
  simp only [Device.domainOff, going, off, entering, all, Bool.not_true, Bool.false_eq_true, if_false, Device.inStandby_wake, asleep]

end Off

/-! ### The rows -/

section Rows

variable {s : State} {now : Time} {d : Device} (up : s.isUp) (hd : advance now s.dev = d)
include up hd

/-- A domain that is idle and that nothing needs begins to go off at the end of its idle time (R579). -/
theorem execDomainIdleTimeout_of_idle {k : Fin 68} {t : Time} (idle : d.dom k = .on (some t)) (unneeded : d.needed k = false)
    (passed : reached d.hub (addT t (usHub (idleUs k))) = true) :
    execDomainIdleTimeout now k s = .next (s.timed now fun d => d.setDom k (.goingOff d.hub false)) := by
  refine State.onUp_timed up hd ?_
  simp only [idle, unneeded, passed, Bool.not_false, and_self, if_true]

/-- A domain whose switching on ends works: what waited for it goes on (R114, R579). -/
theorem execDomainOnDone_of_goingOn {k : Fin 68} {t : Time} (going : d.dom k = .goingOn t) :
    execDomainOnDone now k s = .next (s.timed now fun d =>
      ((((d.setDom k (.on none)).gainDomain k).settleDomains).startPlanners).settleStarts) := by
  refine State.onUp_timed up hd ?_
  simp only [going]

/-- The patrol of a set that is on and not excluded scrubs its line and goes on to the next (R639). -/
theorem execPatrolScrub_of_on {k : Fin 4} {found reread : List BeatError} (on : d.domOn (setDomain k) = true)
    (included : (d.memSet k).excluded = false) :
    execPatrolScrub now k found reread s = .next (s.timed now fun d =>
      let e := d.scrubLine k (d.memSet k).patrol found reread
      e.setMemSet k { e.memSet k with patrol := (d.memSet k).patrol + 1 }) := by
  refine State.onUp_timed up hd (if_neg ?_)
  simp [on, included]

/-- A set that is on scrubs the oldest line that a demand read has corrected (R631). -/
theorem execDemandScrub_of_on {k : Fin 4} {found reread : List BeatError} {l : BitVec 27} {rest : List (BitVec 27)}
    (on : d.domOn (setDomain k) = true) (demand : (d.memSet k).demand = l :: rest) :
    execDemandScrub now k found reread s = .next (s.timed now fun d =>
      (d.setMemSet k { d.memSet k with demand := rest }).scrubLine k l found reread) := by
  refine State.onUp_timed up hd ?_
  simp only [demand, on, Bool.not_true, Bool.false_eq_true, if_false]

/-- A due record is that of the running state without what SERVICE_CLEAR has removed (R127, R752). -/
theorem execPersistRecord_of_due (due : d.bur.persistDue.isSome = true) :
    execPersistRecord now s = .next (s.timed now fun d =>
      { d with bur := { d.bur with nv := d.bur.nv.putPersist (d.records.without d.bur.cleared), persistDue := none } }) := by
  obtain ⟨t, due⟩ := Option.isSome_iff_exists.1 due
  refine State.onUp_timed up hd ?_
  simp only [due]

end Rows

/-- Settles O56: the domain's state, what needs it and a standing entry to standby lead each row of a domain to its one outcome;
a scrub's set is on, and the record is due. That the last domain off completes the entry to standby is the reading of log 37. -/
theorem domainAndScrubRowsComplete : Obligations.DomainAndScrubRowsComplete := by
  intro s now up d
  have hd : advance now s.dev = d := rfl
  refine ⟨fun k t idle unneeded passed => execDomainIdleTimeout_of_idle up hd idle unneeded passed, ?off,
    fun k t going => execDomainOnDone_of_goingOn up hd going,
    fun k found reread on included => execPatrolScrub_of_on up hd on included,
    fun k found reread l rest on demand => execDemandScrub_of_on up hd on demand,
    fun due => execPersistRecord_of_due up hd due⟩
  case off =>
    intro k t again going e
    have off : (d.setDom k .off).loseDomain k = e := rfl
    clear_value e
    refine ⟨fun running idle => ?_, fun running needed => ?_, fun n entering others => ?_, fun n entering all asleep => ?_⟩ <;>
      refine State.onUp_answers up hd (·.domainOff k) ?_
    · exact (Device.domainOff_of_running going off running).trans (if_neg (by simpa using idle))
    · exact (Device.domainOff_of_running going off running).trans (if_pos (by simpa using needed))
    · exact Device.domainOff_of_othersOn going off entering others
    · exact Device.domainOff_of_last going off entering all asleep

end Sys2Proof.Machine
end

section
/-!
PROOF. The machine as a whole (O1, O2, O4 to O11): what one step keeps of every state, how the safe state is left, and what a
module without power does.
-/

namespace Sys2Proof.Machine

/-! ### What each command keeps -/

/-- Every command but SAFE_RELEASE keeps the invariants, the fuses and a held safe state: each cites the lemma of its meaning. -/
theorem exec_keeps (s : State) : ∀ c, (∀ now n k, c ≠ Instr.safeRelease now n k) → StepKeeps s (exec c s)
  | .batteryTurnOn now f, _ => execBatteryTurnOn_keeps now f s
  | .resetNAssert now, _ => execResetNAssert_keeps now s
  | .resetNRelease now f, _ => execResetNRelease_keeps now f s
  | .brownOut now, _ => execBrownOut_keeps now s
  | .overVoltageTrip now, _ => execOverVoltageTrip_keeps now s
  | .wakeEdge now f, _ => execWakeEdge_keeps now f s
  | .recoveryPacket now p f, _ => execRecoveryPacket_keeps now p f s
  | .hostWindowWrite now transfer, _ => execHostWindowWrite_keeps now transfer s
  | .eventPop now value, _ => execEventPop_keeps now value s
  | .overflowClear now, _ => execOverflowClear_keeps now s
  | .ibiAck now, _ => execIbiAck_keeps now s
  | .ibiRetry now, _ => execIbiRetry_keeps now s
  | .commandHoldRelease now drawer, _ => execCommandHoldRelease_keeps now drawer s
  | .hello now drawer, _ => execHello_keeps now drawer s
  | .readMore now drawer, _ => execReadMore_keeps now drawer s
  | .planLoad now drawer, _ => execPlanLoad_keeps now drawer s
  | .planActivate now drawer, _ => execPlanActivate_keeps now drawer s
  | .partitionQuiesced now part, _ => execPartitionQuiesced_keeps now part s
  | .planUnload now drawer, _ => execPlanUnload_keeps now drawer s
  | .planList now drawer, _ => execPlanList_keeps now drawer s
  | .partitionSet now drawer, _ => execPartitionSet_keeps now drawer s
  | .outputsEnable now drawer, _ => execOutputsEnable_keeps now drawer s
  | .outputsDisable now drawer, _ => execOutputsDisable_keeps now drawer s
  | .jobStart now drawer, _ => execJobStart_keeps now drawer s
  | .jobStop now drawer, _ => execJobStop_keeps now drawer s
  | .modeChange now drawer, _ => execModeChange_keeps now drawer s
  | .streamBind now drawer, _ => execStreamBind_keeps now drawer s
  | .streamUnbind now drawer, _ => execStreamUnbind_keeps now drawer s
  | .outBind now drawer, _ => execOutBind_keeps now drawer s
  | .groupSet now drawer, _ => execGroupSet_keeps now drawer s
  | .kvOpen now drawer, _ => execKvOpen_keeps now drawer s
  | .kvClose now drawer, _ => execKvClose_keeps now drawer s
  | .kvRead now drawer, _ => execKvRead_keeps now drawer s
  | .kvPageRead now drawer, _ => execKvPageRead_keeps now drawer s
  | .slotSwapOut now drawer, _ => execSlotSwapOut_keeps now drawer s
  | .slotSwapIn now drawer, _ => execSlotSwapIn_keeps now drawer s
  | .slotWithdraw now drawer, _ => execSlotWithdraw_keeps now drawer s
  | .swapOutDone now found, _ => execSwapOutDone_keeps now found s
  | .swapInDone now slot uncorrectable, _ => execSwapInDone_keeps now slot uncorrectable s
  | .mapUpdate now drawer, _ => execMapUpdate_keeps now drawer s
  | .solverUpdate now drawer, _ => execSolverUpdate_keeps now drawer s
  | .solverInfo now drawer, _ => execSolverInfo_keeps now drawer s
  | .memWrite now drawer, _ => execMemWrite_keeps now drawer s
  | .timeSamples now drawer, _ => execTimeSamples_keeps now drawer s
  | .timeConvert now drawer, _ => execTimeConvert_keeps now drawer s
  | .calRead now drawer, _ => execCalRead_keeps now drawer s
  | .calWrite now drawer, _ => execCalWrite_keeps now drawer s
  | .selftestPolicy now drawer, _ => execSelftestPolicy_keeps now drawer s
  | .safeRequest now drawer, _ => execSafeRequest_keeps now drawer s
  | .safeRelease now drawer cause, others => absurd rfl (others now drawer cause)
  | .lecternLog now drawer, _ => execLecternLog_keeps now drawer s
  | .powerLimit now drawer, _ => execPowerLimit_keeps now drawer s
  | .telemetry now drawer, _ => execTelemetry_keeps now drawer s
  | .counters now drawer, _ => execCounters_keeps now drawer s
  | .memReport now drawer, _ => execMemReport_keeps now drawer s
  | .tileCensus now drawer, _ => execTileCensus_keeps now drawer s
  | .standbyEnter now drawer, _ => execStandbyEnter_keeps now drawer s
  | .standbyLeave now drawer f, _ => execStandbyLeave_keeps now drawer f s
  | .serviceClear now drawer, _ => execServiceClear_keeps now drawer s
  | .fwUpdate now drawer, _ => execFwUpdate_keeps now drawer s
  | .attest now drawer, _ => execAttest_keeps now drawer s
  | .identityRead now drawer, _ => execIdentityRead_keeps now drawer s
  | .keyRevoke now drawer, _ => execKeyRevoke_keeps now drawer s
  | .bulkPacket now p, _ => execBulkPacket_keeps now p s
  | .bulkTimeout now drawer, _ => execBulkTimeout_keeps now drawer s
  | .enec now target events, _ => execEnec_keeps now target events s
  | .disec now target events, _ => execDisec_keeps now target events s
  | .rstdaa now, _ => execRstdaa_keeps now s
  | .entdaa now assigned, _ => execEntdaa_keeps now assigned s
  | .setmwl now target len, _ => execSetmwl_keeps now target len s
  | .setmrl now target len, _ => execSetmrl_keeps now target len s
  | .enthdr0 now, _ => execEnthdr0_keeps now s
  | .setdasa now addr, _ => execSetdasa_keeps now addr s
  | .setnewda now target addr, _ => execSetnewda_keeps now target addr s
  | .getmwl now target, _ => execGetmwl_keeps now target s
  | .getmrl now target, _ => execGetmrl_keeps now target s
  | .getpid now target, _ => execGetpid_keeps now target s
  | .getbcr now target, _ => execGetbcr_keeps now target s
  | .getdcr now target, _ => execGetdcr_keeps now target s
  | .getstatus now target, _ => execGetstatus_keeps now target s
  | .getmxds now target, _ => execGetmxds_keeps now target s
  | .bridgePrivateWrite now bridge addr data, _ => execBridgePrivateWrite_keeps now bridge addr data s
  | .bridgeBroadcastCcc now bridge data, _ => execBridgeBroadcastCcc_keeps now bridge data s
  | .bridgeSetMode now bridge mode, _ => execBridgeSetMode_keeps now bridge mode s
  | .bridgeEntdaa now bridge first, _ => execBridgeEntdaa_keeps now bridge first s
  | .bridgeRstdaa now bridge, _ => execBridgeRstdaa_keeps now bridge s
  | .bridgePrivateRead now bridge addr len, _ => execBridgePrivateRead_keeps now bridge addr len s
  | .bridgeTransferDone now bridge result, _ => execBridgeTransferDone_keeps now bridge result s
  | .frameStart now p, _ => execFrameStart_keeps now p s
  | .frameEnd now p, _ => execFrameEnd_keeps now p s
  | .lineShortPacket now p, _ => execLineShortPacket_keeps now p s
  | .genericShortPacket now p, _ => execGenericShortPacket_keeps now p s
  | .imageLinePacket now p, _ => execImageLinePacket_keeps now p s
  | .embeddedDataPacket now p, _ => execEmbeddedDataPacket_keeps now p s
  | .jpegPacket now p, _ => execJpegPacket_keeps now p s
  | .pointPacket now p, _ => execPointPacket_keeps now p s
  | .feedbackPacket now p, _ => execFeedbackPacket_keeps now p s
  | .inertialPacket now p, _ => execInertialPacket_keeps now p s
  | .bodyLinkPacket now p, _ => execBodyLinkPacket_keeps now p s
  | .inputSkewCalibration now port lanes deskewed, _ => execInputSkewCalibration_keeps now port lanes deskewed s
  | .outputSkewCalibration now port, _ => execOutputSkewCalibration_keeps now port s
  | .decoderTake now dec, _ => execDecoderTake_keeps now dec s
  | .decodeDone now tag seq work, _ => execDecodeDone_keeps now tag seq work s
  | .workCapReached now tag seq, _ => execWorkCapReached_keeps now tag seq s
  | .recordPost now tag, _ => execRecordPost_keeps now tag s
  | .batchWindowExpiry now tag, _ => execBatchWindowExpiry_keeps now tag s
  | .groupWindowExpiry now group, _ => execGroupWindowExpiry_keeps now group s
  | .groupRecordPost now group, _ => execGroupRecordPost_keeps now group s
  | .testFrameCompare now tag crc, _ => execTestFrameCompare_keeps now tag crc s
  | .finisherFrame now job, _ => execFinisherFrame_keeps now job s
  | .correspondenceSample now captured, _ => execCorrespondenceSample_keeps now captured s
  | .measurementTake now, _ => execMeasurementTake_keeps now s
  | .fusionTick now, _ => execFusionTick_keeps now s
  | .fusionClose now, _ => execFusionClose_keeps now s
  | .fusionEmission now finished, _ => execFusionEmission_keeps now finished s
  | .shelfUpdateSignal now, _ => execShelfUpdateSignal_keeps now s
  | .shelfBatch now, _ => execShelfBatch_keeps now s
  | .candidateComplete now job cand, _ => execCandidateComplete_keeps now job cand s
  | .plannerBudgetEnd now job, _ => execPlannerBudgetEnd_keeps now job s
  | .solverUpdateSignal now job, _ => execSolverUpdateSignal_keeps now job s
  | .solverBatchApply now job, _ => execSolverBatchApply_keeps now job s
  | .applicationPoint now job, _ => execApplicationPoint_keeps now job s
  | .iterationComplete now job finding, _ => execIterationComplete_keeps now job finding s
  | .solveBudgetExpiry now job, _ => execSolveBudgetExpiry_keeps now job s
  | .slotPeriodStart now slot, _ => execSlotPeriodStart_keeps now slot s
  | .periodInEdge now pin, _ => execPeriodInEdge_keeps now pin s
  | .edgeWindowExpiry now user, _ => execEdgeWindowExpiry_keeps now user s
  | .inputLatch now slot upset, _ => execInputLatch_keeps now slot upset s
  | .loopCompare now slot, _ => execLoopCompare_keeps now slot s
  | .outputWrite now slot finding, _ => execOutputWrite_keeps now slot finding s
  | .testRow now half pass, _ => execTestRow_keeps now half pass s
  | .periodicPeriodStart now job, _ => execPeriodicPeriodStart_keeps now job s
  | .hookTriggeredStart now job, _ => execHookTriggeredStart_keeps now job s
  | .backgroundGrant now, _ => execBackgroundGrant_keeps now s
  | .deadlineExpiry now job, _ => execDeadlineExpiry_keeps now job s
  | .periodComplete now job, _ => execPeriodComplete_keeps now job s
  | .preemptSaveDone now found, _ => execPreemptSaveDone_keeps now found s
  | .resume now job, _ => execResume_keeps now job s
  | .tileStart now tile, _ => execTileStart_keeps now tile s
  | .loadW now tile se, _ => execLoadW_keeps now tile se s
  | .arrayPass now tile se, _ => execArrayPass_keeps now tile se s
  | .drain now tile, _ => execDrain_keeps now tile s
  | .checksumCompare now tile faults, _ => execChecksumCompare_keeps now tile faults s
  | .gateChain now tile fromDrain se, _ => execGateChain_keeps now tile fromDrain se s
  | .meshSend now tile se, _ => execMeshSend_keeps now tile se s
  | .sendAcknowledged now send, _ => execSendAcknowledged_keeps now send s
  | .dmaIn now tile found ce, _ => execDmaIn_keeps now tile found ce s
  | .dmaInLanded now tile, _ => execDmaInLanded_keeps now tile s
  | .dmaOut now tile se, _ => execDmaOut_keeps now tile se s
  | .dmaOutVisible now tile, _ => execDmaOutVisible_keeps now tile s
  | .hookWait now tile, _ => execHookWait_keeps now tile s
  | .hookWaitTry now tile, _ => execHookWaitTry_keeps now tile s
  | .hookSignal now tile, _ => execHookSignal_keeps now tile s
  | .hookWaitDone now tile, _ => execHookWaitDone_keeps now tile s
  | .loopBody now tile, _ => execLoopBody_keeps now tile s
  | .branchEpoch now tile, _ => execBranchEpoch_keeps now tile s
  | .endProgram now tile, _ => execEndProgram_keeps now tile s
  | .refillDone now found, _ => execRefillDone_keeps now found s
  | .tileStopped now tile, _ => execTileStopped_keeps now tile s
  | .tileScrub now tile word finding, _ => execTileScrub_keeps now tile word finding s
  | .hookArraySignal now index err, _ => execHookArraySignal_keeps now index err s
  | .hookArrayWait now index, _ => execHookArrayWait_keeps now index s
  | .hookTry now index, _ => execHookTry_keeps now index s
  | .hookArrayReset now hook, _ => execHookArrayReset_keeps now hook s
  | .waitRetry now hook index, _ => execWaitRetry_keeps now hook index s
  | .governorInterval now r, _ => execGovernorInterval_keeps now r s
  | .trimUpdate now measured, _ => execTrimUpdate_keeps now measured s
  | .junctionSensorRead now readings, _ => execJunctionSensorRead_keeps now readings s
  | .thermalHoldExpiry now, _ => execThermalHoldExpiry_keeps now s
  | .thermalRecovery now die, _ => execThermalRecovery_keeps now die s
  | .powerOverrunPreempt now, _ => execPowerOverrunPreempt_keeps now s
  | .powerLimitEvent now, _ => execPowerLimitEvent_keeps now s
  | .droopDetect now die, _ => execDroopDetect_keeps now die s
  | .domainIdleTimeout now dom, _ => execDomainIdleTimeout_keeps now dom s
  | .domainOffDone now dom, _ => execDomainOffDone_keeps now dom s
  | .domainOnDone now dom, _ => execDomainOnDone_keeps now dom s
  | .patrolScrub now set found reread, _ => execPatrolScrub_keeps now set found reread s
  | .demandScrub now set found reread, _ => execDemandScrub_keeps now set found reread s
  | .persistRecord now, _ => execPersistRecord_keeps now s
  | .lockstepMismatch now bootOk, _ => execLockstepMismatch_keeps now bootOk s
  | .lecternLinkFault now, _ => execLecternLinkFault_keeps now s
  | .clockCheck now ppm, _ => execClockCheck_keeps now ppm s
  | .railOutOfRange now, _ => execRailOutOfRange_keeps now s
  | .safePinReadback now levelA levelB, _ => execSafePinReadback_keeps now levelA levelB s
  | .lecternStoreScrub now finding, _ => execLecternStoreScrub_keeps now finding s
  | .watchdogKick now seq, _ => execWatchdogKick_keeps now seq s
  | .watchdogExpiry now, _ => execWatchdogExpiry_keeps now s
  | .startToken now, _ => execStartToken_keeps now s
  | .resultToken now, _ => execResultToken_keeps now s
  | .checkPointExpiry now entry, _ => execCheckPointExpiry_keeps now entry s
  | .notification now, _ => execNotification_keeps now s
  | .bucketLeak now, _ => execBucketLeak_keeps now s
  | .selftestSchedule now unit, _ => execSelftestSchedule_keeps now unit s
  | .sliceComplete now unit pass, _ => execSliceComplete_keeps now unit pass s
  | .testOverdue now unit, _ => execTestOverdue_keeps now unit s
  | .searchFails now job, _ => execSearchFails_keeps now job s
  | .saveBegin now job, _ => execSaveBegin_keeps now job s
  | .outputPortFree now port portTime, _ => execOutputPortFree_keeps now port portTime s

/-- Every command keeps the invariants and the fuses. -/
theorem exec_weakKeeps (c : Instr) (s : State) : StepWeak s (exec c s) := by
  by_cases release : ∃ now n k, c = .safeRelease now n k
  · obtain ⟨now, n, k, rfl⟩ := release
    exact execSafeRelease_keeps now n k s
  · exact (exec_keeps s c fun now n k h => release ⟨now, n, k, h⟩).weaken

/-! ### What each step keeps -/

theorem step_nil {s : State} (empty : s.pending = []) : step s = .next s := by
  rw [step, empty]

theorem step_cons {s : State} {c : Instr} {rest : List Instr} (front : s.pending = c :: rest) :
    step s = exec c { s with pending := rest } := by
  rw [step, front]

/-- A step takes the front of the queue and answers a device that keeps the invariants and the fuses. -/
theorem step_weakKeeps (s : State) : ∃ d, step s = .next ⟨s.pending.tail, d⟩ ∧ WeakKeeps s.dev d := by
  cases front : s.pending with
  | nil => exact ⟨s.dev, by rw [step_nil front, List.tail_nil, ← front], .refl _⟩
  | cons c rest =>
    rw [step_cons front]
    exact exec_weakKeeps c { s with pending := rest }

/-- The step that answers `t` keeps what `WeakKeeps` says. -/
theorem WeakKeeps.of_step {s t : State} (stepped : step s = .next t) : WeakKeeps s.dev t.dev := by
  obtain ⟨d, next, kept⟩ := step_weakKeeps s
  rw [next, Host.Outcome.next.injEq] at stepped
  exact stepped ▸ kept

/-- Settles O1: the queue's rest is the queue that the state had. -/
theorem stepRunsTheFrontCommand : Obligations.StepRunsTheFrontCommand :=
  fun _ _ => step_cons rfl

/-- Settles O2: each command answers a next state with the queue that it is given. That an empty queue idles is log 2. -/
theorem everyStepAnswers : Obligations.EveryStepAnswers := fun s =>
  have ⟨d, next, _⟩ := step_weakKeeps s
  ⟨⟨s.pending.tail, d⟩, next, rfl⟩

/-- Settles O5: by what each step keeps. -/
theorem stepKeepsTheSafeStateRules : Obligations.StepKeepsTheSafeStateRules :=
  ⟨fun _ _ held stepped => (WeakKeeps.of_step stepped).pins held, fun _ _ held stepped => (WeakKeeps.of_step stepped).causes held⟩

/-- Settles O6: by what each step keeps. -/
theorem stepKeepsQueueBounds : Obligations.StepKeepsQueueBounds :=
  ⟨fun _ _ bound stepped => (WeakKeeps.of_step stepped).events bound, fun _ _ bound stepped => (WeakKeeps.of_step stepped).log bound⟩

/-- Settles O7: by what each step keeps. -/
theorem stepKeepsMemoryCanonical : Obligations.StepKeepsMemoryCanonical :=
  fun _ _ canonical stepped => (WeakKeeps.of_step stepped).main canonical

/-- Settles O8: by what each step keeps. -/
theorem stepKeepsBankSizes : Obligations.StepKeepsBankSizes :=
  fun _ _ shaped stepped => (WeakKeeps.of_step stepped).shape shaped

/-- Settles O9: by what each step keeps. -/
theorem stepNeverUndoesFuses : Obligations.StepNeverUndoesFuses := fun _ _ stepped =>
  have ⟨_, revoked, fuse⟩ := (WeakKeeps.of_step stepped).fuses
  ⟨revoked, fuse⟩

/-! ### The state after reset -/

theorem Device.drawer_reset (n : Fin 64) : Device.reset.drawer n = Drawer.reset := by
  have bank : (List.replicate 64 Drawer.reset)[n.val]? = some Drawer.reset := List.getElem?_replicate_of_lt n.isLt
  rw [Device.drawer, nth, show Device.reset.bur.drawers = List.replicate 64 Drawer.reset from rfl, bank, Option.getD_some]

/-- Settles O3: the reset values are closed terms, read off one by one. -/
theorem resetHoldsTheManualsValues : Obligations.ResetHoldsTheManualsValues := by
  refine ⟨by decide +kernel, rfl, rfl, rfl, rfl, rfl, rfl, rfl, rfl, rfl, rfl, rfl, rfl, ?drawers, rfl, rfl, ?logs⟩
  case drawers =>
    intro n
    rw [show State.reset.dev = Device.reset from rfl, Device.drawer_reset]
    exact ⟨rfl, rfl, rfl⟩
  case logs =>
    intro m set e entry
    rw [List.eq_of_mem_replicate set] at entry
    rw [List.eq_of_mem_replicate entry]
    rfl

/-- Settles O4: at reset both pins are low with the safe state held, the queues and main memory are empty and each bank has its
size. -/
theorem resetMeetsTheInvariants : Obligations.ResetMeetsTheInvariants :=
  ⟨fun _ => ⟨rfl, rfl⟩, fun released => (nomatch released), Nat.zero_le _, Nat.zero_le _, rfl,
    rfl, rfl, rfl, rfl, rfl, rfl, rfl⟩

/-! ### The release of the safe state -/

/-- A Drawer's row leaves the device, ends its command with the status of a failed check, holds it or carries it out. -/
theorem Device.command_cases (d : Device) (n : Fin 64) (op : Nat) (eff : Device → Device) :
    d.command n op eff = d ∨ (∃ st, d.command n op eff = (d.taken n).fail n st)
      ∨ d.command n op eff = (d.taken n).hold n ∨ d.command n op eff = eff (d.taken n) := by
  by_cases next : d.bur.queue.head? = some n ∧ (d.drawer n).state = .busy ∧ d.cmdOpcode n = op
  · rw [Device.command_taken d n op eff next]
    cases (d.taken n).checkCommand n with
    | some st => exact .inr (.inl ⟨st, rfl⟩)
    | none => cases (d.taken n).heldBefore n (d.taken n).bur.holds with
      | true => exact .inr (.inr (.inl rfl))
      | false => exact .inr (.inr (.inr rfl))
  · exact .inl (if_neg next)

@[simp] theorem Device.taken_lect (d : Device) (n : Fin 64) : (d.taken n).lect = d.lect := rfl
@[simp] theorem Device.reply_lect (d : Device) (n : Fin 64) (st : Status) (bs : Bytes) : (d.reply n st bs).lect = d.lect := rfl
@[simp] theorem Device.fail_lect (d : Device) (n : Fin 64) (st : Status) : (d.fail n st).lect = d.lect := rfl

@[simp] theorem Device.hold_lect (d : Device) (n : Fin 64) : (d.hold n).lect = d.lect := by
  unfold Device.hold
  dsimp only
  split <;> rfl

section Release

variable {d : Device} (n : Fin 64)

/-- While the safe state is not held a SAFE_RELEASE only replies (R689). -/
theorem Device.safeRelease_of_released (free : d.lect.safe = false) (cause : Option SafeCause) :
    d.safeRelease n cause = d.reply n stOk [] := by
  simp only [Device.safeRelease, free, Bool.not_false, if_true]

/-- A cause that stands or that comes in the cycle refuses the release (R689). -/
theorem Device.safeRelease_of_blocked (held : d.lect.safe = true) {cause : Option SafeCause}
    (blocked : d.blocking ≠ 0 ∨ cause.isSome = true) : d.safeRelease n cause = d.fail n stSafeCause := by
  simp only [Device.safeRelease, held, Bool.not_true, Bool.false_eq_true, if_false, blocked, if_true]

/-- The Lectern after an accepted release: both pins high, no cause, and nothing behind one (R689). -/
def Lectern.released (l : Lectern) (hub : Time) : Lectern :=
  { l with safe := false, pinA := true, pinB := true, causes := 0, firstStatus := 0, firstSource := 0, events := []
           changed := hub }

/-- With no cause standing or coming a SAFE_RELEASE leaves the safe state (R689). -/
theorem Device.safeRelease_of_clear (held : d.lect.safe = true) (clear : d.blocking = 0) :
    d.safeRelease n none = (d.watchStatus fun d => d.lectern fun l => l.released d.hub).reply n stOk [] := by
  simp only [Device.safeRelease, held, clear, Bool.not_true, Bool.false_eq_true, if_false, ne_eq, not_true, Option.isSome_none,
    or_self]
  rfl

/-- What leaves the safe state is a release that nothing blocks (R689). -/
theorem Device.safeRelease_leaves {cause : Option SafeCause} (held : d.lect.safe = true)
    (left : (d.safeRelease n cause).lect.safe = false) :
    cause = none ∧ d.blocking = 0 ∧ (d.safeRelease n cause).lect = d.lect.released d.hub := by
  by_cases blocked : d.blocking ≠ 0 ∨ cause.isSome = true
  · rw [Device.safeRelease_of_blocked n held blocked, Device.fail_lect, held] at left
    contradiction
  · obtain ⟨clear, alone⟩ := not_or.mp blocked
    obtain rfl : cause = none := by simpa using alone
    refine ⟨rfl, not_not.mp clear, ?_⟩
    rw [Device.safeRelease_of_clear n held (not_not.mp clear), Device.reply_lect, Device.watchStatus_lect]
    rfl

end Release

/-- A SAFE_RELEASE that leaves the safe state is the Bureau's next command and finds no cause standing or coming (R689). -/
theorem execSafeRelease_leaves {now : Time} {n : Fin 64} {cause : Option SafeCause} {s t : State} (held : s.dev.lect.safe = true)
    (run : execSafeRelease now n cause s = .next t) (left : t.dev.lect.safe = false) :
    cause = none ∧ ((advance now s.dev).taken n).blocking = 0
      ∧ t.dev.lect = s.dev.lect.released (advance now s.dev).hub := by
  have held : (advance now s.dev).lect.safe = true := by rwa [advance_lect]
  by_cases awake : s.isAwake
  · rw [execSafeRelease, State.drawerCommand, State.onAlive_awake awake, Host.Outcome.next.injEq] at run
    subst run
    obtain same | ⟨st, same⟩ | same | same :=
        (advance now s.dev).command_cases n 0x0605 fun d => d.safeRelease n cause <;>
      simp only [same, Device.fail_lect, Device.hold_lect, Device.taken_lect, held, Bool.true_eq_false] at left ⊢
    have leaves := Device.safeRelease_leaves n (d := (advance now s.dev).taken n) held left
    rwa [Device.taken_lect, advance_lect] at leaves
  · rw [execSafeRelease, State.drawerCommand, State.onAlive_asleep awake, Host.Outcome.next.injEq] at run
    subst run
    rw [held] at left
    contradiction

/-- Settles O10: every other command keeps a held safe state. -/
theorem safeStateLeftOnlyByRelease : Obligations.SafeStateLeftOnlyByRelease := by
  intro s t held stepped left
  cases front : s.pending with
  | nil =>
    rw [step_nil front, Host.Outcome.next.injEq] at stepped
    rw [← stepped, held] at left
    contradiction
  | cons c rest =>
    rw [step_cons front] at stepped
    by_cases release : ∃ now n k, c = .safeRelease now n k
    · obtain ⟨now, n, cause, rfl⟩ := release
      obtain ⟨rfl, clear, lectern⟩ := execSafeRelease_leaves (s := { s with pending := rest }) held stepped left
      rw [lectern]
      exact ⟨now, n, rfl, clear, rfl, rfl, rfl⟩
    · obtain ⟨d, next, kept⟩ := exec_keeps { s with pending := rest } c fun now n k h => release ⟨now, n, k, h⟩
      rw [next, Host.Outcome.next.injEq] at stepped
      rw [← stepped, kept.safe held] at left
      contradiction

/-! ### A module without power -/

section Off

variable {s : State} (off : s.dev.pow.phase = .off) (now : Time)
include off

/-- Without power no time passes (R724). -/
theorem advance_off : advance now s.dev = s.dev := if_pos off

/-- A command whose effect leaves the unpowered device leaves the module. -/
theorem State.act_off {f : Device → Device} (still : f s.dev = s.dev) : s.act now f = .next s := by
  rw [State.act, advance_off off, still]

theorem State.onUp_off (f : Device → Device) : s.onUp now f = .next s := State.act_off off now (by simp [off])
theorem State.onAlive_off (f : Device → Device) : s.onAlive now f = .next s := State.act_off off now (by simp [off])
theorem State.onTile_off (t : Fin 4160) (f : Device → TileState → Device) : s.onTile now t f = .next s := State.onUp_off off now _
theorem State.drawerCommand_off (n : Fin 64) (op : Nat) (f : Device → Device) : s.drawerCommand now n op f = .next s :=
  State.onAlive_off off now _
theorem State.onI3c_off (f : Device → Device) : s.onI3c now f = .next s := State.act_off off now (if_pos off)
theorem State.onBridge_off (b : Fin 4) (f : Device → Device) : s.onBridge now b f = .next s :=
  State.act_off off now (by rw [off])

end Off

/-- Settles O11: every command but BATTERY_TURN_ON acts through a shell that asks for power, or asks for it itself. That time
stands still meanwhile is log 14. -/
theorem nothingHappensWithoutPower : Obligations.NothingHappensWithoutPower := by
  intro s c off others
  cases c with
  | batteryTurnOn now f => exact absurd rfl (others now f)
  | resetNAssert now => rw [exec]; exact State.act_off off now (if_pos off)
  | resetNRelease now f => rw [exec]; exact State.act_off off now (by simp [off])
  | brownOut now => rw [exec]; exact State.act_off off now (if_pos off)
  | wakeEdge now f => rw [exec]; exact State.act_off off now (by simp [off])
  | recoveryPacket now p f => rw [exec]; exact State.act_off off now (by simp [off])
  | hostWindowWrite now transfer => rw [exec]; exact State.act_off off now (by simp [off])
  | commandHoldRelease | partitionQuiesced | swapOutDone | swapInDone | bulkPacket | bulkTimeout | frameStart | frameEnd
  | lineShortPacket | genericShortPacket | imageLinePacket | embeddedDataPacket | jpegPacket | pointPacket | feedbackPacket
  | inertialPacket | bodyLinkPacket | inputSkewCalibration | outputSkewCalibration | decoderTake | decodeDone
  | workCapReached | recordPost | batchWindowExpiry | groupWindowExpiry | groupRecordPost | testFrameCompare
  | finisherFrame | correspondenceSample | measurementTake | fusionTick | fusionClose | fusionEmission | shelfUpdateSignal
  | shelfBatch | candidateComplete | plannerBudgetEnd | solverUpdateSignal | solverBatchApply | applicationPoint
  | iterationComplete | solveBudgetExpiry | slotPeriodStart | periodInEdge | edgeWindowExpiry | inputLatch | loopCompare
  | outputWrite | testRow | periodicPeriodStart | hookTriggeredStart | backgroundGrant | deadlineExpiry | periodComplete
  | preemptSaveDone | resume | tileStart | sendAcknowledged | dmaOutVisible | refillDone | tileStopped | tileScrub
  | hookArraySignal | hookArrayWait | hookTry | hookArrayReset | waitRetry | governorInterval | trimUpdate
  | junctionSensorRead | thermalHoldExpiry | thermalRecovery | powerOverrunPreempt | powerLimitEvent | droopDetect
  | domainIdleTimeout | domainOffDone | domainOnDone | patrolScrub | demandScrub | persistRecord | bucketLeak
  | selftestSchedule | sliceComplete | testOverdue | searchFails | saveBegin | outputPortFree => rw [exec]; exact State.onUp_off off _ _
  | loadW | arrayPass | drain | checksumCompare | gateChain | meshSend | dmaIn | dmaInLanded | dmaOut | hookWait
  | hookWaitTry | hookSignal | hookWaitDone | loopBody | branchEpoch | endProgram => rw [exec]; exact State.onTile_off off _ _ _
  | overVoltageTrip | eventPop | overflowClear | ibiAck | ibiRetry | outputsEnable | outputsDisable | standbyEnter
  | standbyLeave | lockstepMismatch | lecternLinkFault | clockCheck | railOutOfRange | safePinReadback | lecternStoreScrub
  | watchdogKick | watchdogExpiry | startToken | resultToken | checkPointExpiry | notification => rw [exec]; exact State.onAlive_off off _ _
  | hello | readMore | planLoad | planActivate | planUnload | planList | partitionSet | jobStart | jobStop | modeChange
  | streamBind | streamUnbind | outBind | groupSet | kvOpen | kvClose | kvRead | kvPageRead | slotSwapOut | slotSwapIn
  | slotWithdraw | mapUpdate | solverUpdate | solverInfo | memWrite | timeSamples | timeConvert | calRead | calWrite
  | selftestPolicy | safeRequest | safeRelease | lecternLog | powerLimit | telemetry | counters | memReport | tileCensus
  | serviceClear | fwUpdate | attest | identityRead | keyRevoke => rw [exec]; exact State.drawerCommand_off off _ _ _ _
  | enec | disec | rstdaa | entdaa | setmwl | setmrl | enthdr0 | setdasa | setnewda | getmwl | getmrl | getpid | getbcr
  | getdcr | getstatus | getmxds | bridgeTransferDone => rw [exec]; exact State.onI3c_off off _ _
  | bridgePrivateWrite | bridgeBroadcastCcc | bridgeSetMode | bridgeEntdaa | bridgeRstdaa | bridgePrivateRead => rw [exec]; exact State.onBridge_off off _ _ _

end Sys2Proof.Machine
end

section
/-!
PROOF. Drawers, events and views (O12, O13, O16, O17): in which order the Bureau takes commands, what ends one, what an event
leaves alone, and where the bytes of a write through a view land.
-/

namespace Sys2Proof.Machine

/-! ### The Bureau's order (R702, R704, R707, R578) -/

theorem State.onAlive_congr {s : State} {now : Time} {f g : Device → Device} (same : f (advance now s.dev) = g (advance now s.dev)) :
    s.onAlive now f = s.onAlive now g := by
  simp only [State.onAlive, State.act, same]

section Parameter

variable {s : State} {n : Fin 64} (now : Time)

/-! OUTPUTS and STANDBY have a row for each value of their parameter's bit 0 (R713). -/

section Set

variable (bit : bitAt (imageAt (s.dev.drawer n).copy 16 8) 0 = true)
include bit

theorem execOutputsEnable_of_bit : execOutputsEnable now n s = s.drawerCommand now n 0x0106 fun d => d.outputs n :=
  State.onAlive_congr (if_pos (by rwa [advance_drawer]))

theorem execStandbyEnter_of_bit :
    execStandbyEnter now n s = s.drawerCommand now n 0x0706 fun d =>
      if d.pow.phase = .up then d.enterStandby n else d.reply n stOk [] :=
  State.onAlive_congr (if_pos (by rwa [advance_drawer]))

end Set

section Clear

variable (bit : bitAt (imageAt (s.dev.drawer n).copy 16 8) 0 = false)
include bit

theorem execOutputsDisable_of_bit : execOutputsDisable now n s = s.drawerCommand now n 0x0106 fun d => d.outputs n :=
  State.onAlive_congr (if_neg (by rw [advance_drawer, bit]; exact Bool.false_ne_true))

theorem execStandbyLeave_of_bit (f : BootFindings) :
    execStandbyLeave now n f s = s.drawerCommand now n 0x0706 fun d =>
      if d.pow.phase = .standby then d.leaveStandby (some n) f else d.reply n stOk [] :=
  State.onAlive_congr (if_neg (by rw [advance_drawer, bit]; exact Bool.false_ne_true))

end Clear

end Parameter

/-- A row that stands for a Drawer command answers as the shell of its Drawer and opcode does. -/
theorem exec_of_rowOf {s : State} {c : Instr} {now : Time} {n : Fin 64} {op : Nat} (row : s.rowOf c = some (now, n, op)) :
    ∃ eff, exec c s = s.drawerCommand now n op eff := by
  cases c with
  | hello | readMore | planLoad | planActivate | planUnload | planList | partitionSet | jobStart | jobStop | modeChange
  | streamBind | streamUnbind | outBind | groupSet | kvOpen | kvClose | kvRead | kvPageRead | slotSwapOut | slotSwapIn
  | slotWithdraw | mapUpdate | solverUpdate | solverInfo | memWrite | timeSamples | timeConvert | calRead | calWrite
  | selftestPolicy | safeRequest | safeRelease | lecternLog | powerLimit | telemetry | counters | memReport | tileCensus
  | serviceClear | fwUpdate | attest | identityRead | keyRevoke =>
    obtain ⟨rfl, rfl, rfl⟩ := by simpa only [State.rowOf, Option.some.injEq, Prod.mk.injEq] using row
    exact ⟨_, rfl⟩
  | outputsEnable =>
    obtain ⟨bit, rfl, rfl, rfl⟩ := by simpa [State.rowOf] using row
    exact ⟨_, execOutputsEnable_of_bit _ bit⟩
  | standbyEnter =>
    obtain ⟨bit, rfl, rfl, rfl⟩ := by simpa [State.rowOf] using row
    exact ⟨_, execStandbyEnter_of_bit _ bit⟩
  | outputsDisable =>
    obtain ⟨bit, rfl, rfl, rfl⟩ := by simpa [State.rowOf] using row
    exact ⟨_, execOutputsDisable_of_bit _ bit⟩
  | standbyLeave =>
    obtain ⟨bit, rfl, rfl, rfl⟩ := by simpa [State.rowOf] using row
    exact ⟨_, execStandbyLeave_of_bit _ bit _⟩
  | _ => cases row

/-- A row that is not the Bureau's next command only lets time pass. -/
theorem State.drawerCommand_notNext {s : State} {now : Time} {n : Fin 64} {op : Nat} (later : ¬ s.isNext n op)
    (eff : Device → Device) : s.drawerCommand now n op eff = .next { s with dev := advance now s.dev } := by
  by_cases awake : s.isAwake
  · have later : ¬ ((advance now s.dev).bur.queue.head? = some n ∧ ((advance now s.dev).drawer n).state = .busy
        ∧ (advance now s.dev).cmdOpcode n = op) := by
      simpa using fun front busy opcode => later ⟨awake, front, busy, opcode⟩
    rw [State.drawerCommand, State.onAlive_awake awake, Device.command, if_neg later]
  · exact State.onAlive_asleep awake ..

/-- The next command waits while an earlier one is held for something that it acts on (R578). -/
theorem State.drawerCommand_held {s : State} {now : Time} {n : Fin 64} {op : Nat} (next : s.isNext n op)
    (passes : ((advance now s.dev).taken n).checkCommand n = none)
    (behind : ((advance now s.dev).taken n).heldBefore n s.dev.bur.holds = true) (eff : Device → Device) :
    s.drawerCommand now n op eff = .next { s with dev := ((advance now s.dev).taken n).hold n } := by
  obtain ⟨awake, front, busy, opcode⟩ := next
  have holds : ((advance now s.dev).taken n).bur.holds = s.dev.bur.holds := by
    rw [← advance_bur now s.dev]
    rfl
  rw [State.drawerCommand, State.onAlive_awake awake, Device.command_taken _ _ _ _ (by simp [front, busy, opcode]), passes, holds,
    behind]
  rfl

/-- Settles O12: each Drawer row is the shell of its command, whose three answers are those of the statement. Which commands wait
for a held one is the reading of log 21, and that a row out of turn changes nothing but time that of log 1. -/
theorem commandsAreTakenInTurn : Obligations.CommandsAreTakenInTurn := by
  refine ⟨fun s c now n op st row next failed => ?_, fun s c now n op row later => ?_,
    fun s c now n op row next passes behind => ?_⟩ <;> obtain ⟨eff, shell⟩ := exec_of_rowOf row <;> rw [shell]
  · exact State.drawerCommand_failed next failed eff
  · exact State.drawerCommand_notNext later eff
  · exact State.drawerCommand_held next passes behind eff

/-! ### The end of a command (R701, R702, R706, R711) -/

theorem Window.mem_setIbi (w : Window) (v : BitVec 8) : v ∈ (w.setIbi v).ibi := by
  unfold Window.setIbi
  split
  · simpa using ‹w.ibi.contains v = true›
  · simp

theorem Window.setIbi_eq (w : Window) (v : BitVec 8) : w.setIbi v = { w with ibi := (w.setIbi v).ibi } := by
  unfold Window.setIbi
  split <;> rfl

/-- Settles O13: the Drawer reads as it was written, and the queues have lost it. -/
theorem replyEndsTheCommand : Obligations.ReplyEndsTheCommand := by
  intro d n st bs bank e
  have ended : e.drawer n = _ := (d.drawer_setDrawer bank n n _).trans (if_pos rfl)
  refine ⟨by rw [ended], by rw [ended], by rw [ended], by rw [ended], by rw [ended], Window.mem_setIbi .., ?queue, ?holds, ?others,
    rfl, rfl, Window.setIbi_eq ..⟩
  case queue => exact fun mem => by simpa using (List.mem_filter.mp mem).2
  case holds => exact fun mem => by simpa using (List.mem_filter.mp mem).2
  case others => exact fun m other => (d.drawer_setDrawer bank n m _).trans (if_neg other.symm)

/-! ### Events (R708, R709) -/

/-- The window after an event: with 256 queued it is lost, else it joins the tail, and the first one raises its IBI. -/
def Window.queued (w : Window) (e : Event) : Window :=
  if 256 ≤ w.events.length then { w with nextSeq := nextEvt w.nextSeq, overflow := true, lost := sat32 (w.lost + 1) }
  else
    let v := { w with nextSeq := nextEvt w.nextSeq, events := w.events ++ [e] }
    if w.events.isEmpty then v.setIbi 0x40 else v

theorem Window.queued_of_full {w : Window} (full : 256 ≤ w.events.length) (e : Event) :
    w.queued e = { w with nextSeq := nextEvt w.nextSeq, overflow := true, lost := sat32 (w.lost + 1) } := if_pos full

theorem Window.queued_of_room {w : Window} (room : w.events.length < 256) (e : Event) :
    ∃ ibi, w.queued e = { w with nextSeq := nextEvt w.nextSeq, events := w.events ++ [e], ibi } := by
  rw [Window.queued, if_neg (Nat.not_le.mpr room)]
  dsimp only
  split
  · exact ⟨_, Window.setIbi_eq ..⟩
  · exact ⟨_, rfl⟩

/-- An event changes the Bureau's window and the event log only. -/
theorem Device.postEvent_eq (d : Device) (st : Status) (sev : BitVec 2) (kind : BitVec 4) (src : BitVec 16)
    (detail : BitVec 112) :
    d.postEvent st sev kind src detail =
      let e : Event := { seq := d.bur.win.nextSeq, status := st, kind, severity := sev, source := src, time := d.hub, detail }
      { d with bur := { d.bur with win := d.bur.win.queued e
                                   nv := { d.bur.nv with eventLog := (e :: d.bur.nv.eventLog).take 2097152 } } } := by
  unfold Device.postEvent Window.queued
  dsimp only
  split <;> rfl

/-- Settles O17: the queue has room or it has not. -/
theorem eventsQueueOrAreLost : Obligations.EventsQueueOrAreLost := by
  intro d st sev kind src detail e ev
  have he : e = _ := d.postEvent_eq st sev kind src detail
  have win : e.bur.win = d.bur.win.queued ev := by rw [he]
  refine ⟨by rw [he]; rfl, ?_, fun room => ?_, fun full => ?_, by rw [he], by rw [he], by rw [he], by rw [he], by rw [he]⟩
  · rw [win]
    by_cases full : 256 ≤ d.bur.win.events.length
    · rw [Window.queued_of_full full]
    · obtain ⟨ibi, queued⟩ := Window.queued_of_room (Nat.not_le.mp full) ev
      rw [queued]
  · obtain ⟨ibi, queued⟩ := Window.queued_of_room room ev
    rw [win, queued]
    exact ⟨rfl, rfl⟩
  · rw [win, Window.queued_of_full full]
    exact ⟨rfl, rfl, rfl⟩

/-! ### Writes through a view (R614, R615) -/

theorem Device.viewPhys_writeViewBytes_one (d : Device) (p a : Nat) (b : Byte) (q z : Nat) :
    (d.writeViewBytes p a [b]).viewPhys q z = d.viewPhys q z := by
  simp only [Device.writeViewBytes]
  split <;> rfl

theorem Device.wf_writeViewBytes_one {d : Device} (canonical : d.mem.main.wf = true) (p a : Nat) (b : Byte) :
    (d.writeViewBytes p a [b]).mem.main.wf = true := by
  simp only [Device.writeViewBytes]
  split
  · exact Memory.setByte_wf canonical
  · exact canonical

/-- A byte written through a view changes the byte at its place, and none outside the view. -/
theorem Device.byte_writeViewBytes_one {d : Device} (canonical : d.mem.main.wf = true) (p a : Nat) (b : Byte) (x : Nat) :
    (d.writeViewBytes p a [b]).mem.main.byte x = if d.viewPhys p a = some x then b else d.mem.main.byte x := by
  simp only [Device.writeViewBytes]
  split
  next y place => simp only [Memory.byte_setByte canonical, place, Option.some.injEq, eq_comm]
  next outside => simp [outside]

theorem Device.writeViewBytes_cons (d : Device) (p a : Nat) (b : Byte) (bs : Bytes) :
    d.writeViewBytes p a (b :: bs) = (d.writeViewBytes p a [b]).writeViewBytes p (a + 1) bs := rfl

/-- A byte at which the view places none of the bytes written stays as it was. -/
theorem Device.byte_writeViewBytes_elsewhere (bs : Bytes) : ∀ {d : Device} (_ : d.mem.main.wf = true) {p a x : Nat},
    (∀ i < bs.length, d.viewPhys p (a + i) ≠ some x) → (d.writeViewBytes p a bs).mem.main.byte x = d.mem.main.byte x := by
  induction bs with
  | nil => exact fun _ _ _ _ _ => rfl
  | cons b bs ih =>
    intro d canonical p a x apart
    rw [Device.writeViewBytes_cons, ih (Device.wf_writeViewBytes_one canonical p a b),
      Device.byte_writeViewBytes_one canonical, if_neg (c := d.viewPhys p a = some x) (apart 0 (Nat.zero_lt_succ _))]
    intro i short
    rw [Device.viewPhys_writeViewBytes_one, Nat.add_right_comm]
    exact apart (i + 1) (Nat.succ_lt_succ short)

/-- A byte at which the view places one of the bytes written, and that one only, holds it afterwards. -/
theorem Device.byte_writeViewBytes_at (bs : Bytes) : ∀ {d : Device} (_ : d.mem.main.wf = true) {p a x i : Nat}
    (short : i < bs.length), d.viewPhys p (a + i) = some x →
    (∀ k < bs.length, k ≠ i → d.viewPhys p (a + k) ≠ some x) → (d.writeViewBytes p a bs).mem.main.byte x = bs[i] := by
  induction bs with
  | nil => exact fun _ _ _ _ _ short => absurd short (Nat.not_lt_zero _)
  | cons b bs ih =>
    intro d canonical p a x i short place alone
    have canonical' := Device.wf_writeViewBytes_one canonical p a b
    have rest : ∀ k < bs.length, k + 1 ≠ i → (d.writeViewBytes p a [b]).viewPhys p (a + 1 + k) ≠ some x := by
      intro k short other
      rw [Device.viewPhys_writeViewBytes_one, Nat.add_right_comm]
      exact alone (k + 1) (Nat.succ_lt_succ short) other
    rw [Device.writeViewBytes_cons]
    cases i with
    | zero =>
      rw [Device.byte_writeViewBytes_elsewhere bs canonical' fun k short => rest k short (Nat.succ_ne_zero k),
        Device.byte_writeViewBytes_one canonical, if_pos (c := d.viewPhys p a = some x) place, List.getElem_cons_zero]
    | succ j =>
      rw [ih canonical' (Nat.lt_of_succ_lt_succ short) ?place fun k short other => rest k short (Nat.succ_ne_succ_iff.mpr other),
        List.getElem_cons_succ]
      rw [Device.viewPhys_writeViewBytes_one, Nat.add_right_comm]
      exact place

/-- Settles O16: by induction on the bytes written. -/
theorem viewWritesLandInPlace : Obligations.ViewWritesLandInPlace := fun _ _ _ bs _ canonical =>
  ⟨Device.byte_writeViewBytes_elsewhere bs canonical, fun _ short => Device.byte_writeViewBytes_at bs canonical short⟩

end Sys2Proof.Machine
end

section
/-!
PROOF. The host window (O20 to O23, O60): what writes and reads of it do, the rows of events and In-Band Interrupts, the release
of a held command, and the two commands that the Bureau answers alone.
-/

namespace Sys2Proof.Machine

/-- A row that acts while the Bureau is awake answers as any effect that agrees with its own on the device at `now`. -/
theorem State.onAlive_timed {s : State} {now : Time} {d : Device} (awake : s.isAwake) (hd : advance now s.dev = d)
    {f g : Device → Device} (same : f d = g d) : s.onAlive now f = .next (s.timed now g) := by
  subst hd
  rw [State.onAlive_awake awake, same]
  rfl

/-! ### Private writes (R691, R694, R702, R703) -/

/-- While the Bureau is awake a transfer's bytes are written, which ends the read in progress, and then its read goes on. -/
theorem execHostWindowWrite_awake {s : State} {now : Time} (awake : s.isAwake) (bytes : Bytes) (read : HostRead) :
    execHostWindowWrite now ⟨bytes, read⟩ s = .next (s.timed now fun d =>
      (if bytes.isEmpty then d else d.endRead.privateWrite bytes).privateRead read) := by
  have awake : s.dev.pow.phase = .up ∨ s.dev.pow.phase = .standby ∨ s.dev.pow.phase = .shut := awake
  have runs : s.dev.pow.phase ≠ .recovery := by
    rintro recovery
    simp [recovery] at awake
  simp only [execHostWindowWrite, State.act, advance_pow, runs, awake, if_false, if_true, State.timed]

/-- A write that ends below the command areas reaches none of them. -/
theorem Device.writeAreas_below (d : Device) {a : Nat} {bs : Bytes} (below : a + bs.length ≤ 0x1000) : d.writeAreas a bs = d := by
  refine List.foldlRecOn (motive := fun e : Device => e = d) _ _ rfl fun e same n _ => ?_
  dsimp only
  rw [if_pos, same]
  rw [Bool.not_eq_true', List.any_eq_false]
  intro i covered
  have := List.mem_range.mp covered
  simp only [Bool.and_eq_true, decide_eq_true_eq]
  omega

/-- A write of one byte to DOORBELL only rings the Drawer that it names (R702). -/
theorem Device.privateWrite_doorbell (d : Device) (n : Fin 64) :
    d.privateWrite [0x40, 0x00, BitVec.ofNat 8 n.val] = d.doorbell n := by
  have number : (⟨(BitVec.ofNat 8 n.val).toNat % 64, Nat.mod_lt _ (by decide)⟩ : Fin 64) = n := by
    have := n.isLt
    ext
    simp only [BitVec.toNat_ofNat]
    omega
  simp only [Device.privateWrite]
  rw [Device.writeAreas_below d (by simp)]
  simp only [written]
  exact congrArg d.doorbell number

/-- The doorbell of a BUSY or HELD Drawer is counted (R703). -/
theorem Device.doorbell_of_busy {d : Device} {n : Fin 64} (busy : (d.drawer n).state = .busy ∨ (d.drawer n).state = .held) :
    d.doorbell n = d.hostError .doorbellBusy := by
  have busy : (d.drawer n).isBusy = true := by simpa [Drawer.isBusy] using busy
  simp only [Device.doorbell, busy, if_true]

/-- A Drawer whose doorbell has been rung: its command is copied and its reply discarded (R702). -/
def Drawer.rung (x : Drawer) (hub : Time) : Drawer :=
  { x with state := .busy, copy := x.area, status := 0, reply := [],
           long := if CmdHdr.opcode (imageAt x.area 0 16) = 2 then x.long else [],
           heldUs := 0, heldAt := none, accepted := hub, going := false }

/-- The doorbell of an IDLE or DONE Drawer with an opcode of R713 makes it BUSY and queues it (R702, R707). -/
theorem Device.doorbell_of_free {d : Device} {n : Fin 64} (bank : d.bur.drawers.length = 64)
    (free : (d.drawer n).state = .idle ∨ (d.drawer n).state = .done)
    (known : (cmdSpec (CmdHdr.opcode (imageAt (d.drawer n).area 0 16))).isSome = true) :
    d.doorbell n =
      let e := d.setDrawer n ((d.drawer n).rung d.hub)
      { e with bur := { e.bur with queue := e.bur.queue ++ [n] } } := by
  have idle : ¬ (d.drawer n).isBusy = true := by obtain h | h := free <;> simp [Drawer.isBusy, h]
  have opcode : (d.setDrawer n ((d.drawer n).rung d.hub)).cmdOpcode n = CmdHdr.opcode (imageAt (d.drawer n).area 0 16) := by
    rw [Device.cmdOpcode, Device.drawer_setDrawer bank, if_pos rfl]
    rfl
  have known : ¬ (cmdSpec ((d.setDrawer n ((d.drawer n).rung d.hub)).cmdOpcode n)).isNone = true := by
    rw [opcode, Option.isNone_iff_eq_none]
    exact Option.isSome_iff_ne_none.mp known
  simp only [Drawer.rung] at known
  simp only [Device.doorbell, if_neg idle, beq_iff_eq]
  exact if_neg known

/-- Settles O20: each write reaches one register. That a write ends the read in progress is the reading of log 65. -/
theorem hostWindowWriteCompletes : Obligations.HostWindowWriteCompletes := by
  intro s now awake
  have writes (lo : Byte) (rest : Bytes) : exec (.hostWindowWrite now ⟨lo :: rest, .none⟩) s =
      .next (s.timed now fun d => d.endRead.privateWrite (lo :: rest)) := execHostWindowWrite_awake awake _ _
  refine ⟨fun lo hi => writes .., fun bytes long => ?long, fun n free known bank => ?free, fun n busy => ?busy⟩
  case long =>
    match bytes, long with
    | lo :: hi :: data, long =>
      rw [writes, State.timed, Device.privateWrite, if_pos long]
      rfl
  case free =>
    rw [writes]
    simp only [State.timed, Device.privateWrite_doorbell]
    rw [Device.doorbell_of_free (d := (advance now s.dev).endRead)]
    · rfl
    · simpa [Device.endRead, Device.win] using bank
    · rw [← advance_drawer now s.dev n] at free
      exact free
    · rw [← advance_drawer now s.dev n] at known
      exact known
  case busy =>
    rw [writes]
    simp only [State.timed, Device.privateWrite_doorbell]
    rw [Device.doorbell_of_busy (d := (advance now s.dev).endRead)]
    · rfl
    · rw [← advance_drawer now s.dev n] at busy
      exact busy

/-! ### Events and In-Band Interrupts (R709, R710, R712) -/

theorem Device.popEvent_of_head {d : Device} {e : Event} {rest : List Event} (events : d.bur.win.events = e :: rest) :
    d.popEvent e.seq = d.win fun w => { w with events := rest } := by
  simp only [Device.popEvent, events, if_true]

theorem Device.popEvent_of_other {d : Device} {v : BitVec 32} (other : ∀ e, d.bur.win.events.head? = some e → e.seq ≠ v) :
    d.popEvent v = d.hostError .popMismatch := by
  unfold Device.popEvent
  split
  next e rest events => exact if_neg (other e (by rw [events, List.head?_cons]))
  next => rfl

/-- Settles O21: the number is the head's or it is not. -/
theorem eventPopRemovesTheHead : Obligations.EventPopRemovesTheHead := by
  intro s now v awake
  refine ⟨fun e rest events seq => ?_, fun other => ?_⟩
  · subst seq
    show execEventPop now e.seq s = _
    exact State.onAlive_timed awake rfl (Device.popEvent_of_head (by rw [advance_bur, events]))
  · show execEventPop now v s = _
    exact State.onAlive_timed awake rfl (Device.popEvent_of_other (by rwa [advance_bur]))

/-- A Drawer's command leaves HELD: HELD_US is the time it was held (R577). -/
def Device.unheld (d : Device) (n : Fin 64) : Device :=
  let us := match (d.drawer n).heldAt with
    | some t => min 16777215 (usBetween d.hub t)
    | none => 0
  let e := d.setDrawer n { d.drawer n with state := .busy, heldUs := us, heldAt := none }
  { e with bur := { e.bur with holds := e.bur.holds.filter (· != n) } }

/-- A held command that nothing stands before and that does not wait again is carried out (R577, R578). -/
theorem Device.releaseHold_of_free {d : Device} {n : Fin 64} (held : (d.drawer n).state = .held)
    (first : d.heldBefore n (d.bur.holds.takeWhile (· != n)) = false)
    (done : (((d.unheld n).resumeCommand n).drawer n).state ≠ .held) : d.releaseHold n = (d.unheld n).resumeCommand n := by
  have waits : ¬ ((d.drawer n).state ≠ .held ∨ d.heldBefore n (d.bur.holds.takeWhile (· != n)) = true) := by simp [held, first]
  unfold Device.releaseHold
  dsimp only
  rw [if_neg waits]
  exact if_neg done

/-- Settles O22: whether IBIs are enabled, and which of them is pending, decides the first rows; a held command is released where
nothing stands before it, as log 21 reads R578. -/
theorem ibiAndHoldRowsComplete : Obligations.IbiAndHoldRowsComplete := by
  refine ⟨fun s now awake => ⟨State.onAlive_timed awake rfl rfl, ?ack, ?disabled, ?retry⟩, fun s now n up held first => ?release⟩
  case ack =>
    intro enabled
    show execIbiAck now s = _
    exact State.onAlive_timed awake rfl (by simp [Device.win, enabled])
  case disabled =>
    intro disabled
    obtain ⟨d, hd⟩ : ∃ d, advance now s.dev = d := ⟨_, rfl⟩
    have disabled : d.bur.win.ibiEnabled = false := by rwa [← hd, advance_bur]
    constructor
    · show execIbiAck now s = _
      exact State.onAlive_timed (g := id) awake hd (by simp [Device.win, disabled])
    · show execIbiRetry now s = _
      exact State.onAlive_timed (g := id) awake hd (by simp [disabled])
  case retry =>
    intro enabled pending due
    show execIbiRetry now s = _
    refine State.onAlive_timed awake rfl ?_
    simp only [advance_bur, enabled, ne_eq, pending, not_false_eq_true, and_self, if_true]
    cases retry : s.dev.bur.win.ibiRetryAt with
    | none => rfl
    | some t => exact if_pos (due t retry)
  case release =>
    intro d us e e' done
    refine State.onUp_answers up rfl (·.releaseHold n) (Device.releaseHold_of_free ?_ ?_ done)
    · rw [advance_drawer, held]
    · rw [advance_bur, first]

/-! ### HELLO and READ_MORE (R697, R706) -/

/-- Settles O23: the checks of HELLO are decided by the conditions of its clause. -/
theorem helloAndReadMoreComplete : Obligations.HelloAndReadMoreComplete := by
  refine fun s now n => ⟨fun accepted => ?hello,
    fun accepted => State.drawerCommand_serves accepted rfl rfl⟩
  case hello =>
    intro d p lo hi alone major common
    refine State.drawerCommand_serves accepted rfl ?_
    have version : ¬ (fld p 7 0 ≠ 1 ∨ hi < lo) := by omega
    exact (if_neg version).trans (if_neg (Bool.eq_false_iff.mp alone))

/-! ### Private reads (R692, R693) -/

/-- One byte of a read that is not over comes from the group captured. -/
theorem Device.readByte_of_group {d : Device} {c : Nat × Bytes} (going : d.bur.win.readOver = false) (group : d.group = c) :
    d.readByte = d.win fun w => { w with
      capture := some c, sent := w.sent ++ [nth c.2 (d.bur.win.readAddr.toNat - c.1) 0], readAddr := d.bur.win.readAddr + 1
      readOver := d.bur.win.readAddr == 0xFFFF } := by
  subst group
  simp only [Device.readByte, going, Bool.false_eq_true, if_false]

/-- While the read address lies in the captured group, the bytes come from there. -/
theorem Device.group_of_captured {d : Device} {c : Nat × Bytes} (capture : d.bur.win.capture = some c)
    (least : c.1 ≤ d.bur.win.readAddr.toNat) (most : d.bur.win.readAddr.toNat < c.1 + c.2.length) : d.group = c := by
  simp only [Device.group, capture, least, most, and_self, if_true]

/-- A read that has ended sends nothing (R692). -/
theorem Device.readBytes_of_over {d : Device} (ended : d.bur.win.readOver = true) (n : Nat) : d.readBytes n = d := by
  induction n with
  | zero => rfl
  | succ n ih => rw [Device.readBytes, Device.readByte, if_pos ended, ih]

/-- Bytes of a captured group, up to the window's last one, come from the capture in their order. -/
theorem Device.readBytes_of_captured {c : Nat × Bytes} (n : Nat) : ∀ {d : Device} {a : BitVec 16}, d.bur.win.readAddr = a →
    d.bur.win.capture = some c → d.bur.win.readOver = false → c.1 ≤ a.toNat → a.toNat + n ≤ c.1 + c.2.length →
    a.toNat + n ≤ 65536 →
    (d.readBytes n).bur.win.sent = d.bur.win.sent ++ (List.range n).map (fun i => nth c.2 (a.toNat + i - c.1) 0)
      ∧ (d.readBytes n).bur.win.capture = some c ∧ (d.readBytes n).bur.win.readAddr = a + BitVec.ofNat 16 n
      ∧ (d.readBytes n).bur.win.readOver = decide (0 < n ∧ a.toNat + n = 65536) := by
  induction n with
  | zero =>
    exact fun addr capture going _ _ _ =>
      ⟨by simp [Device.readBytes], capture, by simp [Device.readBytes, addr], by simp [Device.readBytes, going]⟩
  | succ n ih =>
    intro d a addr capture going least most last
    have byte := Device.readByte_of_group going (Device.group_of_captured capture (by rwa [addr]) (by rw [addr]; omega))
    rw [addr] at byte
    have sent : d.readByte.bur.win.sent = d.bur.win.sent ++ [nth c.2 (a.toNat - c.1) 0] := by rw [byte]; rfl
    have addr' : d.readByte.bur.win.readAddr = a + 1 := by rw [byte]; rfl
    have capture' : d.readByte.bur.win.capture = some c := by rw [byte]; rfl
    have ended : d.readByte.bur.win.readOver = (a == 0xFFFF) := by rw [byte]; rfl
    rw [Device.readBytes]
    generalize d.readByte = e at sent addr' capture' ended
    by_cases final : a = 0xFFFF
    · subst final
      obtain rfl : n = 0 := by
        have : (0xFFFF : BitVec 16).toNat = 65535 := rfl
        omega
      exact ⟨by simpa [Device.readBytes] using sent, capture', addr', by simpa [Device.readBytes] using ended⟩
    · have next : (a + 1).toNat = a.toNat + 1 := by bv_omega
      obtain ⟨sent', capture'', addr'', ended'⟩ := ih addr' capture' (ended.trans (beq_eq_false_iff_ne.mpr final)) (by omega) (by omega) (by omega)
      refine ⟨?_, capture'', ?_, ?_⟩
      · rw [sent', sent, List.append_assoc, List.range_succ_eq_map, List.map_cons, List.map_map, next]
        simp only [List.singleton_append, Nat.add_zero, Function.comp_def, Nat.succ_eq_add_one, Nat.add_assoc, Nat.add_comm 1]
      · exact addr''.trans (by rw [BitVec.ofNat_add, BitVec.add_assoc, BitVec.add_comm 1]; rfl)
      · rw [ended', next, decide_eq_decide]
        bv_omega

/-- The device on which a read has begun whose first group is captured already. -/
def Device.captured (d : Device) (c : Nat × Bytes) : Device := d.beginRead.win fun w => { w with capture := some c }

/-- A read captures the group of its first byte as it stands then, so that it goes on as if the group had been captured before
(R693). -/
theorem Device.readBytes_beginRead (d : Device) (n : Nat) :
    d.beginRead.readBytes (n + 1) = (d.captured (d.captureAt d.bur.win.readAddr.toNat)).readBytes (n + 1) := by
  have first : d.beginRead.group = d.captureAt d.bur.win.readAddr.toNat := rfl
  have again : (d.captured (d.captureAt d.bur.win.readAddr.toNat)).group = d.captureAt d.bur.win.readAddr.toNat :=
    ite_self (d.captureAt d.bur.win.readAddr.toNat)
  rw [Device.readBytes, Device.readBytes, Device.readByte_of_group rfl first, Device.readByte_of_group rfl again]
  rfl

/-- A group of eight bytes begins at a multiple of eight. -/
theorem Device.readSpan_aligned {d : Device} {a : Nat} (span : d.readSpan a = (a, 8)) : a % 8 = 0 := by
  simp only [Device.readSpan] at span
  split at span
  · simp at span
  · split at span
    · simp at span
    · have := congrArg Prod.fst span
      dsimp only at this
      omega

/-- Settles O60: the first byte of a read captures its group, and what is captured is sent. That HOST_WINDOW_WRITE brings the
read is the form of log 65. -/
theorem privateReadsCaptureGroups : Obligations.PrivateReadsCaptureGroups := by
  refine ⟨fun s now n awake => ⟨execHostWindowWrite_awake awake .., execHostWindowWrite_awake awake ..⟩,
    fun d a addr span => ?group, fun d a c addr going capture least most => ?captured,
    fun d n ended => Device.readBytes_of_over ended n⟩
  case group =>
    have aligned := Device.readSpan_aligned span
    have below := a.isLt
    intro e
    obtain ⟨c, hc⟩ : ∃ c, c = (a.toNat, (List.range 8).map fun i => d.windowByte (a.toNat + i)) := ⟨_, rfl⟩
    have he : e = (d.captured c).readBytes 8 := by
      rw [hc, show e = d.beginRead.readBytes 8 from rfl, d.readBytes_beginRead, addr, Device.captureAt, span]
    obtain ⟨sent, -, next, ended⟩ := Device.readBytes_of_captured (d := d.captured c) (c := c) 8 addr rfl rfl (by rw [hc])
      (by simp [hc]) (by omega)
    rw [he]
    refine ⟨?_, next, ended.trans ?_⟩
    · rw [sent, hc, show (d.captured _).bur.win.sent = [] from rfl, List.nil_append]
      refine List.map_congr_left fun i short => ?_
      have short : i < 8 := List.mem_range.mp short
      simp [nth, short]
    · rw [Bool.eq_iff_iff, decide_eq_true_eq, beq_iff_eq]
      bv_omega
  case captured =>
    have below := a.isLt
    obtain ⟨sent, kept, next, ended⟩ := Device.readBytes_of_captured 1 addr capture going least most (by omega)
    refine ⟨by simpa using sent, kept, next, ended.trans ?_⟩
    rw [Bool.eq_iff_iff, decide_eq_true_eq, beq_iff_eq]
    bv_omega

end Sys2Proof.Machine
end

section
/-!
PROOF. The Lectern (O34, O57, O58): the entry to the safe state, its commands, the Lectern's own checks, the watchdog, the
monitored results and the notifications.
-/

namespace Sys2Proof.Machine

/-- A row that acts while the Bureau is awake answers what its effect makes of the device that time has brought to `now`. -/
theorem State.onAlive_answers {s : State} {now : Time} {d e : Device} (awake : s.isAwake) (hd : advance now s.dev = d)
    (f : Device → Device) (hf : f d = e) : s.onAlive now f = .next (s.withDev e) := by
  subst hd hf
  exact State.onAlive_awake awake now f

/-! ### The entry to the safe state (R685, R687) -/

/-- The Lectern once the safe state is entered: both pins low, the cause set, the first cause kept. -/
def Lectern.entered (l : Lectern) (hub : Time) (c : SafeCause) (st : Status) (src : BitVec 16) : Lectern :=
  { l with safe := true, pinA := false, pinB := false, changed := if l.safe then l.changed else hub
           causes := l.causes ||| causeMask c
           firstStatus := if !l.safe then st else l.firstStatus
           firstSource := if !l.safe then src else l.firstSource }

/-- The watch over STATUS changes the window beside the change itself. -/
theorem Device.watchStatus_eq (d : Device) (f : Device → Device) :
    ∃ w, d.watchStatus f = { f d with bur := { (f d).bur with win := w } } := by
  unfold Device.watchStatus
  dsimp only
  split
  · exact ⟨(f d).bur.win, rfl⟩
  · exact ⟨_, rfl⟩

/-- The entry changes the Lectern and the window only. -/
theorem Device.enterSafe_eq (d : Device) (c : SafeCause) (st : Status) (src : BitVec 16) :
    ∃ w, d.enterSafe c st src =
      { d with lect := d.lect.entered d.hub c st src, bur := { d.bur with win := w } } :=
  d.watchStatus_eq _

/-- A cause that the Lectern finds enters the safe state and posts its event. -/
theorem Device.lecternCause_eq (d : Device) (c : SafeCause) (st : Status) :
    ∃ b, d.lecternCause c st = { d with lect := d.lect.entered d.hub c st 0, bur := b } := by
  obtain ⟨w, entered⟩ := d.enterSafe_eq c st 0
  rw [Device.lecternCause, Device.event, Device.postEvent_eq, entered]
  exact ⟨_, rfl⟩

/-- A cause without a status of its own enters the safe state, with an event where it was not held. -/
theorem Device.enterQuiet_eq (d : Device) (c : SafeCause) :
    ∃ b, d.enterQuiet c = { d with lect := d.lect.entered d.hub c stOk 0, bur := b } := by
  obtain ⟨w, entered⟩ := d.enterSafe_eq c stOk 0
  unfold Device.enterQuiet
  dsimp only
  split
  · rw [entered]
    exact ⟨_, rfl⟩
  · rw [Device.postEvent_eq, entered]
    exact ⟨_, rfl⟩

/-! ### The commands on the safe state (R685, R689) -/

/-- Settles O34: a request enters the safe state whatever holds it, and a release answers by the cases of `Device.safeRelease`. -/
theorem safeCommandsComplete : Obligations.SafeCommandsComplete := by
  intro s now n d
  have hd : (advance now s.dev).taken n = d := rfl
  have jobs : d.jobs = s.dev.jobs := advance_jobs now s.dev
  have tiles : d.tiles = s.dev.tiles := advance_tiles now s.dev
  have mem : d.mem = s.dev.mem := advance_mem now s.dev
  have ce : d.ce = s.dev.ce := advance_ce now s.dev
  have lect : d.lect = s.dev.lect := advance_lect now s.dev
  have hub : d.hub = (advance now s.dev).hub := rfl
  clear_value d
  refine ⟨fun accepted => ?request, fun accepted held clear => ?clear, fun c accepted free => ?free,
    fun c accepted held blocked => ?blocked⟩
  case request =>
    obtain ⟨b, quiet⟩ := d.enterQuiet_eq .hostRequest
    have answer := State.drawerCommand_accepted accepted fun d => (d.enterQuiet .hostRequest).reply n stOk []
    rw [hd, quiet] at answer
    exact ⟨_, answer, rfl, rfl, rfl, rfl, by rw [← lect]; rfl, by rw [← lect]; rfl, jobs, tiles, mem, ce⟩
  case clear =>
    have answer := State.drawerCommand_accepted accepted fun d => d.safeRelease n none
    rw [hd, Device.safeRelease_of_clear n (by rw [lect, held]) clear] at answer
    obtain ⟨w, watched⟩ := d.watchStatus_eq fun d => d.lectern fun l => l.released d.hub
    rw [watched] at answer
    exact ⟨_, answer, rfl, rfl, rfl, rfl, rfl, rfl, rfl, hub, jobs, tiles, mem, ce, by rw [← lect]; rfl⟩
  case free => exact State.drawerCommand_serves accepted hd (Device.safeRelease_of_released n (by rw [lect, free]) c)
  case blocked => exact State.drawerCommand_serves accepted hd (Device.safeRelease_of_blocked n (by rw [lect, held]) blocked)

/-! ### The Lectern's own checks (R627, R649 to R652, R686) -/

/-- Lockstep cores that differ enter the safe state and boot again; a boot that fails is shown in the window (R649, R653). -/
theorem execLockstepMismatch_awake {s : State} (awake : s.isAwake) (now : Time) (ok : Bool) :
    execLockstepMismatch now ok s = .next (s.timed now fun d =>
      let e := (d.lecternCause .lecternFault stLecternFault).lectern fun l => { l with bootOk := ok }
      if ok then e else e.watchStatus fun d => d.win fun w => { w with lecternFault := true }) :=
  State.onAlive_awake awake ..

/-- One bad copy of the Lectern's store is mended, two are a cause (R643). -/
theorem execLecternStoreScrub_awake {s : State} (awake : s.isAwake) (now : Time) (finding : MirrorFinding) :
    execLecternStoreScrub now finding s = .next (s.timed now fun d =>
      if finding = .bothCopies then d.lecternCause .lecternFault stLecternFault else d) := by
  cases finding <;> exact State.onAlive_timed awake rfl rfl

/-- Settles O57: a check's finding is its clause, and its cause is an entry to the safe state. -/
theorem lecternCheckRowsComplete : Obligations.LecternCheckRowsComplete := by
  intro s now awake
  have hd : advance now s.dev = advance now s.dev := rfl
  refine ⟨fun d c st => ?cause, ?bootOk, ?bootFails, ?link, fun ppm => ⟨fun far => ?clockFar, fun near => ?clockNear⟩, ?rail,
    fun a b => ⟨fun differs => ?pinsDiffer, fun same same' => ?pinsAgree⟩, ?storeLost, ?storeMended, ?storeClean⟩
  case cause =>
    intro e
    obtain ⟨b, entered⟩ := d.lecternCause_eq c st
    rw [show e = _ from entered]
    exact ⟨rfl, rfl, rfl, rfl, rfl, rfl, rfl, rfl⟩
  case bootOk => exact execLockstepMismatch_awake awake now true
  case bootFails => exact execLockstepMismatch_awake awake now false
  case link =>
    show execLecternLinkFault now s = _
    exact State.onAlive_timed awake hd rfl
  case clockFar =>
    show execClockCheck now ppm s = _
    exact State.onAlive_timed awake hd (if_pos far)
  case clockNear =>
    show execClockCheck now ppm s = _
    exact State.onAlive_timed (g := id) awake hd (if_neg (Nat.not_lt.mpr near))
  case rail =>
    show execRailOutOfRange now s = _
    exact State.onAlive_timed awake hd rfl
  case pinsDiffer =>
    show execSafePinReadback now a b s = _
    exact State.onAlive_timed awake hd (if_pos (by rwa [advance_lect]))
  case pinsAgree =>
    show execSafePinReadback now a b s = _
    exact State.onAlive_timed (g := id) awake hd (if_neg (by simp [advance_lect, same, same']))
  case storeLost => exact execLecternStoreScrub_awake awake now .bothCopies
  case storeMended => exact execLecternStoreScrub_awake awake now .oneCopy
  case storeClean => exact execLecternStoreScrub_awake awake now .clean

/-! ### The watchdog (R680) -/

/-- A kick is noted, and an early or a wrong one is a cause. -/
theorem Device.kick_eq {d : Device} {seq : BitVec 16} {fault : Prop} [Decidable fault]
    (bad : fault ↔ (∃ t, d.lect.wdLast = some t ∧ timeDiff d.hub t < d.lect.policy.window / 4)
      ∨ d.lect.wdLast.isSome = true ∧ seq ≠ d.lect.wdSeq + 1) :
    d.kick seq =
      let e := d.lectern fun l => { l with wdSeq := seq, wdLast := some d.hub }
      if fault then e.lecternCause .watchdog stWatchdog else e := by
  unfold Device.kick
  dsimp only
  simp only [Bool.or_eq_true, Option.any_eq_true, Bool.and_eq_true, decide_eq_true_eq, bne_iff_ne, bad, Device.lectern]

/-! ### Monitored results (R682 to R684) -/

/-- An entry reads as it was written. -/
theorem Device.monEntryOf_setMon {d : Device} {k : MonKey} {m n : MonEntry} (entry : d.monEntryOf k = some m) (key : n.key = k) :
    (d.setMon n).monEntryOf k = some n := by
  subst key
  simp only [Device.monEntryOf, Device.setMon, Device.lectern] at entry ⊢
  generalize d.lect.table = table at entry
  induction table with
  | nil => simp at entry
  | cons e rest ih =>
    by_cases same : (e.key == n.key) = true
    · simp [show e.key = n.key by simpa using same]
    · simp only [List.find?_cons, same, List.map_cons] at entry ⊢
      simpa [same] using ih entry

theorem Device.monEntryOf_key {d : Device} {k : MonKey} {m : MonEntry} (entry : d.monEntryOf k = some m) : m.key = k := by
  simpa using List.find?_some entry

/-- A job's check point that passes without a result is a miss; an entry behind already stays so (R684). -/
theorem Device.lapse_of_behind {d : Device} {j : BitVec 16} {m : MonEntry} {c : Time} {rest : List (Time × Bool)}
    (entry : d.monEntryOf (.job j) = some m) (checks : m.checks = (c, false) :: rest) {t : Time} (passed : reached t c = true)
    (unawaited : m.startBy = none) (behind : m.behind = true) :
    d.lapse (.job j) t = d.setMon { m with checks := rest, misses := m.misses + 1, presents := 0 } := by
  have missed : d.missing { m with checks := rest } = d.setMon { m with checks := rest, misses := m.misses + 1, presents := 0 } :=
    if_neg (by simp [behind])
  have again := Device.monEntryOf_setMon (n := { m with checks := rest, misses := m.misses + 1, presents := 0 }) entry
    (show m.key = _ from Device.monEntryOf_key entry)
  simp only [Device.lapse, entry, checks, passed, Bool.not_true, Bool.false_eq_true, if_false, missed, again]
  simp only [unawaited]

/-- A START token of a running entry sets its check point, and the wait for the next one of a PERIODIC job (R683). -/
theorem Device.startSeen_of_running {e : Device} {k : MonKey} {m : MonEntry} (entry : e.monEntryOf k = some m)
    (running : e.monStarted k = true) :
    e.startSeen k =
      e.setMon { m with
        checks := if m.deadline = 0 then m.checks
          else m.checks ++ [(addT e.hub (ceilDiv (m.deadline * 120024) 100 + monMargin), false)]
        startBy := if m.trigger = 0 ∧ m.period ≠ 0 then some (addT e.hub (m.longest + monMargin)) else none } := by
  simp only [Device.startSeen, entry, running, Bool.not_true, Bool.false_eq_true, if_false]

/-- A result of a job that a check point waits for is present (R683, R684). -/
theorem Device.resultSeen_of_awaited {e : Device} {j : BitVec 16} {st : Status} {m : MonEntry} (present : notPresent st = false)
    (entry : (e.lapse (.job j) (e.hub - 1)).monEntryOf (.job j) = some m)
    (awaited : m.deadline = 0 ∨ m.checks.any (fun c => !c.2) = true) :
    e.resultSeen (.job j) st = (e.lapse (.job j) (e.hub - 1)).present { m with checks := meetCheck true m.checks } := by
  have intime : ¬ (m.deadline ≠ 0 ∧ m.checks.all (·.2) = true) := by
    rintro ⟨deadline, met⟩
    obtain none | awaited := awaited
    · exact deadline none
    · simp only [List.any_eq_true, List.all_eq_true] at awaited met
      obtain ⟨c, mem, unmet⟩ := awaited
      simp [met c mem] at unmet
  simp only [Device.resultSeen, entry, present, Bool.not_false, if_true]
  exact if_neg intime

/-! ### Notifications (R655, R657, R685) -/

section Note

variable {d : Device} {n : Note} (other : n.status ≠ stThermal)
include other

/-- A notification that is no cause is logged and posted with its own severity. -/
theorem Device.takeNote_of_noCause (noCause : (d.lectLog n.status n.kind n.source).noteCause n = none) :
    d.takeNote n =
      let e := d.lectLog n.status n.kind n.source
      e.postEvent n.status (e.severity n.status) n.kind n.source 0 := by
  unfold Device.takeNote
  simp only [noCause]
  exact if_neg other

/-- One that is a cause enters the safe state and is posted with severity 3. -/
theorem Device.takeNote_of_cause {c : SafeCause} (cause : (d.lectLog n.status n.kind n.source).noteCause n = some c) :
    d.takeNote n =
      let e := d.lectLog n.status n.kind n.source
      ((e.enterSafe c n.status n.source).noteBehind n c).postEvent n.status 3 n.kind n.source 0 := by
  unfold Device.takeNote
  simp only [cause]
  exact if_neg other

end Note

/-- Settles O58: the watchdog's time and number, the token, the entry and the notification decide each row. Check points in hub
time and entries with DEADLINE 0 are the readings of log 25. -/
theorem lecternMonitorRowsComplete : Obligations.LecternMonitorRowsComplete := by
  intro s now awake d
  have hd : advance now s.dev = d := rfl
  clear_value d
  refine ⟨?kick, fun t last passed => ?expiry, fun k t e m token entry running => ?start,
    fun j q ep st t e m token present entry awaited => ?result, fun j m c rest entry checks passed unawaited behind => ?checkPoint,
    ?note⟩
  case kick =>
    intro seq early wrong
    show (_ → _ → execWatchdogKick now seq s = _) ∧ (_ → execWatchdogKick now seq s = _)
    classical
    have kick := Device.kick_eq (d := d) (seq := seq) (fault := early ∨ wrong) Iff.rfl
    refine ⟨fun inTime right => State.onAlive_timed awake hd (kick.trans (if_neg (not_or.mpr ⟨inTime, right⟩))),
      fun bad => State.onAlive_timed awake hd (kick.trans (if_pos bad))⟩
  case expiry =>
    show execWatchdogExpiry now s = _
    exact State.onAlive_timed awake hd (by simp only [last, passed, if_true])
  case start =>
    show execStartToken now s = _
    exact State.onAlive_answers awake hd _ (by rw [token]; exact Device.startSeen_of_running entry running)
  case result =>
    show execResultToken now s = _
    exact State.onAlive_answers awake hd _ (by rw [token]; exact Device.resultSeen_of_awaited present entry awaited)
  case checkPoint =>
    show execCheckPointExpiry now (.job j) s = _
    exact State.onAlive_timed (f := fun d => d.lapse (.job j) d.hub) awake hd (Device.lapse_of_behind entry checks passed unawaited behind)
  case note =>
    intro n rest inbox other e
    show (_ → execNotification now s = _) ∧ ∀ c, _ → execNotification now s = _
    refine ⟨fun noCause => State.onAlive_answers awake hd _ ?_, fun c cause => State.onAlive_answers awake hd _ ?_⟩ <;> rw [inbox]
    · exact Device.takeNote_of_noCause other noCause
    · exact Device.takeNote_of_cause other cause

end Sys2Proof.Machine
end

section
/-!
PROOF. The periodic self-test (O59): slices, their results, overdue tests and the Control Engine's test row.
-/

namespace Sys2Proof.Machine

/-! ### Slices (R675 to R679) -/

/-- A due unit in service, free and within the limits, is given a slice (R675, R676). -/
theorem execSelftestSchedule_of_due {s : State} {now : Time} {d : Device} (up : s.isUp) (hd : advance now s.dev = d) {u : TestUnit}
    (free : (d.test u).slice = none) (sound : (d.test u).failed = false)
    (due : 0 < (d.test u).passed ∨ reached d.hub (addT (d.test u).lastSched (usHub (250000 * d.dtiS u))) = true)
    (testable : d.testable u = true) (fits : d.sliceFits u = true) :
    execSelftestSchedule now u s = .next (s.timed now fun d =>
      d.setTest { d.test u with slice := some d.hub
                                lastSched := if (d.test u).passed = 0 then d.hub else (d.test u).lastSched }) := by
  have due : (decide (0 < (d.test u).passed) || reached d.hub (addT (d.test u).lastSched (usHub (250000 * d.dtiS u)))) = true := by
    simpa using due
  exact State.onUp_timed up hd (if_pos ⟨by rw [free]; rfl, by rw [sound]; rfl, due, testable, fits⟩)

section Slice

variable {d : Device}

/-- A passed slice that is not the last is counted (R677). -/
theorem Device.sliceComplete_of_more {e : EngineUnit} {t : Time} (slice : (d.test (.engine e)).slice = some t)
    (more : (d.test (.engine e)).passed + 1 < slicesOf (.engine e)) :
    d.sliceComplete (.engine e) true =
      d.setTest { d.test (.engine e) with slice := none, passed := (d.test (.engine e)).passed + 1 } := by
  have part : ¬ slicesOf (.engine e) ≤ (d.test (.engine e)).passed + 1 := Nat.not_le.mpr more
  simp only [Device.sliceComplete, slice, Option.isNone_some, Bool.false_eq_true, if_false, if_true, part, false_and]

variable {t : Fin 4160} {b : Time} (slice : (d.test (.tile t)).slice = some b)
include slice

/-- The last slice of a tile ends its test (R677). -/
theorem Device.sliceComplete_of_last (last : slicesOf (.tile t) ≤ (d.test (.tile t)).passed + 1)
    (inTime : (d.test (.tile t)).overdue = false) :
    d.sliceComplete (.tile t) true =
      (d.afterSlice t).setTest { d.test (.tile t) with slice := none, passed := 0, lastPass := d.hub, overdue := false } := by
  simp only [Device.sliceComplete, slice, Option.isNone_some, Bool.false_eq_true, if_false, if_true, last, inTime, and_false]
  rfl

/-- A failed slice fences its tile (R679). -/
theorem Device.sliceComplete_of_failed :
    d.sliceComplete (.tile t) false =
      ((d.afterSlice t).setTest { d.test (.tile t) with slice := none, passed := 0 }).fenceTile t := by
  simp only [Device.sliceComplete, slice, Option.isNone_some, Bool.false_eq_true, if_false]

end Slice

/-- A unit in service without a whole pass in its interval is told once (R678). -/
theorem execTestOverdue_of_engine {s : State} {now : Time} {d : Device} (up : s.isUp) (hd : advance now s.dev = d) {e : EngineUnit}
    (sound : (d.test (.engine e)).failed = false) (untold : (d.test (.engine e)).overdue = false)
    (passed : reached d.hub (addT (d.test (.engine e)).lastPass (usHub (1000000 * d.dtiS (.engine e)))) = true) :
    execTestOverdue now (.engine e) s = .next (s.timed now fun d =>
      (d.setTest { d.test (.engine e) with overdue := true }).notify stTestOverdue (unitSource (.engine e)).1
        (unitSource (.engine e)).2) := by
  refine State.onUp_timed up hd ?_
  simp only [sound, untold, Bool.or_false, Bool.not_false, passed, and_self, if_true]

/-- Settles O59: the unit's test stands where its clause says. That the sender chooses among the due tests is log 25. -/
theorem selfTestRowsComplete : Obligations.SelfTestRowsComplete := by
  intro s now up d
  have hd : advance now s.dev = d := rfl
  clear_value d
  refine ⟨?leak, fun u free sound due testable fits => execSelftestSchedule_of_due up hd free sound due testable fits,
    fun e t slice more => ?more, fun t b slice => ⟨fun last inTime => ?last, ?failed⟩,
    fun e sound untold passed => execTestOverdue_of_engine up hd sound untold passed, fun h => ⟨?passes, fun on fresh => ?fails⟩⟩
  case leak =>
    intro due passed
    show execBucketLeak now s = _
    exact State.onUp_timed up hd (if_pos passed)
  case more =>
    show execSliceComplete now _ true s = _
    exact State.onUp_timed up hd (by rw [Device.sliceComplete_of_more slice more])
  case last =>
    show execSliceComplete now _ true s = _
    exact State.onUp_timed up hd (by rw [Device.sliceComplete_of_last slice last inTime])
  case failed =>
    show execSliceComplete now _ false s = _
    exact State.onUp_timed up hd (by rw [Device.sliceComplete_of_failed slice])
  case passes =>
    show execTestRow now h true s = _
    exact State.onUp_answers up hd _ (if_pos (.inl rfl))
  case fails =>
    show execTestRow now h false s = _
    exact State.onUp_timed up hd (if_neg (by simp only [on, fresh, Bool.not_true, Bool.false_eq_true, or_self, not_false_eq_true]))

end Sys2Proof.Machine
end

section
/-!
PROOF. The Drawer commands that report, that write settings, that load Plans and that switch the outputs (O24, O26, O32, O33).
-/

namespace Sys2Proof.Machine

/-! ### Reports (R713) -/

section Reports

variable {d : Device} {n : Fin 64} {p : Image} (hp : d.params n = p)
include hp

theorem Device.timeSamples_of_domain (domain : isDomain (fld p 7 0) = true) (least : 1 ≤ fld p 18 8) (most : fld p 18 8 ≤ 1024) :
    d.timeSamples n = d.reply n stOk
      (((d.samples (fld p 7 0)).take (fld p 18 8)).flatMap fun s => natLE s.1.toNat 6 ++ natLE s.2.toNat 6) := by
  subst hp
  refine if_neg ?_
  rintro (none | none | many)
  · simp [domain] at none
  all_goals omega

theorem Device.timeConvert_of_domains (source : isDomain (fld p 7 0) = true) (target : isDomain (fld p 15 8) = true) :
    d.timeConvert n = match d.convertTime (fld p 7 0) (fld p 15 8) (BitVec.ofNat 48 (fld p 111 64)) with
      | some t => d.reply n stOk (natLE t.toNat 8)
      | none => d.fail n stTimeRange := by
  subst hp
  exact if_neg (by simp [source, target])

theorem Device.calRead_of_range (sec : fld p 3 0 ≤ 5) (least : 1 ≤ fld p 47 32)
    (fits : fld p 31 16 + fld p 47 32 ≤ calLimit (fld p 3 0)) :
    d.calRead n = d.reply n stOk ((List.range (fld p 47 32)).flatMap fun i =>
      let b := (d.calRec (fld p 3 0) (fld p 31 16 + i)).getD (List.replicate (calSize (fld p 3 0)) 0)
      if fld p 3 0 = 4 then d.runningWeight b else b) := by
  subst hp
  exact if_neg (by omega)

theorem Device.lecternLog_of_range (least : 1 ≤ fld p 23 12) (most : fld p 23 12 ≤ 2048) :
    d.lecternLog n = d.reply n stOk (((d.lect.log.drop (fld p 11 0)).take (fld p 23 12)).flatMap LogRec.bytes) := by
  subst hp
  exact if_neg (by omega)

theorem Device.memReport_of_set (set : fld p 3 0 < 4) :
    d.memReport n = (if bitAt p 4 then d.setMemSet (fld p 3 0) (d.memSet (fld p 3 0)).cleared else d).reply n stOk
      (d.memSet (fld p 3 0)).report := by
  subst hp
  exact (if_neg (by omega)).trans (if_neg (by omega))

theorem Device.memReport_of_chip (chip : fld p 3 0 = 4) :
    d.memReport n =
      (if bitAt p 4 then { d with mem := { d.mem with onChip := d.mem.onChip.map fun _ => (0, 0) } } else d).reply n stOk
        (d.mem.onChip.flatMap fun c => natLE c.1 4 ++ natLE c.2 4) := by
  subst hp
  exact (if_neg (by omega)).trans (if_pos chip)

theorem Device.tileCensus_of_range (least : 1 ≤ fld p 25 13) (fits : fld p 12 0 + fld p 25 13 ≤ 4160) :
    d.tileCensus n = d.reply n stOk (((List.range (fld p 25 13)).map (fld p 12 0 + ·)).flatMap d.censusRecord) := by
  subst hp
  exact if_neg (by omega)

theorem Device.counters_of_set (set : fld p 3 0 ≤ 3) :
    d.counters n = (if bitAt p 4 then d.countersClear (fld p 3 0) else d).reply n stOk (d.countersReply (fld p 3 0)) := by
  subst hp
  exact if_neg (Nat.not_lt.mpr set)

end Reports

/-- The host's use of time is noted and makes Fusion needed; nothing else changes (R356). -/
theorem Device.useTime_eq (d : Device) : ∃ w, d.useTime = { d with clk := { d.clk with hostUse := true }, pow := w } := by
  unfold Device.useTime Device.needDom
  split <;> exact ⟨_, rfl⟩

@[simp] theorem Device.useTime_params (d : Device) (n : Fin 64) : d.useTime.params n = d.params n := by
  obtain ⟨w, used⟩ := d.useTime_eq
  rw [used]
  rfl

@[simp] theorem Device.useTime_samples (d : Device) (k : Nat) : d.useTime.samples k = d.samples k := by
  obtain ⟨w, used⟩ := d.useTime_eq
  rw [used]
  rfl

@[simp] theorem Device.useTime_convertTime (d : Device) (a b : Nat) (t : Time) :
    d.useTime.convertTime a b t = d.convertTime a b t := by
  simp only [Device.convertTime, Device.toHub, Device.useTime_samples]
  refine congrArg _ (funext fun u => ?_)
  simp only [Device.fromHub, Device.useTime_samples]

/-- Settles O32: each report's range holds by its clause. That TIME_SAMPLES and TIME_CONVERT make Fusion needed is log 16. -/
theorem reportsComplete : Obligations.ReportsComplete := by
  intro s now n d p
  have hd : (advance now s.dev).taken n = d := rfl
  have hp : d.params n = p := rfl
  have used : d.useTime.params n = p := d.useTime_params n
  clear_value p d
  refine ⟨fun accepted domain least most => ?samples, fun accepted source target => ?convert,
    fun r desc x y accepted solver => ?solver, fun accepted sec least fits => ?calibration, fun accepted least most => ?log,
    fun accepted set => ?memory, fun accepted chip => ?chip, fun accepted least fits => ?census, fun accepted set => ?counters,
    fun accepted => State.drawerCommand_serves accepted hd rfl, fun accepted settled => ?attest⟩
  case samples =>
    refine State.drawerCommand_serves accepted hd ((Device.timeSamples_of_domain used domain least most).trans ?_)
    rw [Device.useTime_samples]
  case convert =>
    refine State.drawerCommand_serves accepted hd ((Device.timeConvert_of_domains used source target).trans ?_)
    rw [Device.useTime_convertTime]
    rfl
  case solver => exact State.drawerCommand_serves accepted hd (by subst hp; simp only [Device.solverInfo, solver])
  case calibration => exact State.drawerCommand_serves accepted hd (Device.calRead_of_range hp sec least fits)
  case log => exact State.drawerCommand_serves accepted hd (Device.lecternLog_of_range hp least most)
  case memory => exact State.drawerCommand_serves accepted hd (Device.memReport_of_set hp set)
  case chip => exact State.drawerCommand_serves accepted hd (Device.memReport_of_chip hp chip)
  case census => exact State.drawerCommand_serves accepted hd (Device.tileCensus_of_range hp least fits)
  case counters => exact State.drawerCommand_serves accepted hd (Device.counters_of_set hp set)
  case attest =>
    exact State.drawerCommand_serves accepted hd (by subst hp; exact if_neg (Bool.eq_false_iff.mp settled))

/-! ### Settings -/

section Settings

variable {d : Device} {n : Fin 64} {p : Image} (hp : d.params n = p)
include hp

/-- Records of a CAL_WRITE that pass the checks of their section are written into the older copy (R645, R744). -/
theorem Device.putCal_of_sound {bs : Bytes} {recs : List Bytes} {imgs : List (Nat × Image)}
    (hrecs : ((List.range (fld p 47 32)).map fun i => slice bs (calSize (fld p 3 0) * i) (calSize (fld p 3 0))) = recs)
    (himgs : (recs.zipIdx.map fun r => (fld p 31 16 + r.2, leNat r.1)) = imgs)
    (sound : ∀ x ∈ imgs, rsvdZero x.2 (calRsvd (fld p 3 0)) = true ∧ calRangeOk (fld p 3 0) x.1 x.2 = true)
    (tags : fld p 3 0 = 0 → d.tagClash imgs = false) :
    d.putCal n bs = ({ d with bur := { d.bur with nv := d.bur.nv.writeCal (fld p 3 0) (fld p 31 16) recs } }).reply n stOk [] := by
  subst hp hrecs himgs
  refine (if_neg ?_).trans (if_neg ?_)
  · rw [Bool.not_eq_true, List.any_eq_false]
    exact fun x mem => by simp [(sound x mem).1]
  · simp only [Bool.or_eq_true, Bool.and_eq_true, beq_iff_eq, not_or, not_and, Bool.not_eq_true, List.any_eq_false]
    exact ⟨fun x mem => by simp [(sound x mem).2], tags⟩

section CalWrite

variable (sec : fld p 3 0 ≤ 5) (least : 1 ≤ fld p 47 32) (fits : fld p 31 16 + fld p 47 32 ≤ calLimit (fld p 3 0))
include sec least fits

theorem Device.calWrite_of_inline (inline : bitAt p 4 = true) (short : fld p 47 32 * calSize (fld p 3 0) ≤ 200) :
    d.calWrite n = d.putCal n (slice (d.paramBytes n) 40 (fld p 47 32 * calSize (fld p 3 0))) := by
  subst hp
  exact (if_neg (by omega)).trans ((if_pos inline).trans (if_neg (Nat.not_lt.mpr short)))

theorem Device.calWrite_of_bulk (bulk : bitAt p 4 = false)
    (length : BulkRef.length (fld p 319 64) = fld p 47 32 * calSize (fld p 3 0)) :
    d.calWrite n = d.armBulk n (fld p 319 64) 4194304 none := by
  subst hp
  exact (if_neg (by omega)).trans ((if_neg (Bool.eq_false_iff.mp bulk)).trans (if_neg (not_not.mpr length)))

end CalWrite

/-- A policy in range that leaves the guarded fields, or finds no SAFETY job started, is accepted (R656, R658). -/
theorem Device.selftestPolicy_of_ok {q : Policy} (hq : PolRec.policy (p % 2 ^ 256) = q) (ok : q.ok = true)
    (free : q.guarded = d.lect.policy.guarded ∨ ∀ r ∈ d.startedJobs, r.cls ≠ 0) :
    d.selftestPolicy n = (d.setPolicy q).reply n stOk [] := by
  subst hp hq
  refine (if_neg (by rw [ok]; exact Bool.false_ne_true)).trans (if_neg ?_)
  rintro ⟨changed, started⟩
  obtain same | none := free
  · exact changed same
  · obtain ⟨r, mem, safety⟩ := List.any_eq_true.mp started
    exact none r mem (by simpa using safety)

/-- A slot that is revoked already stays so (R765). -/
theorem Device.keyRevoke_of_revoked (revoked : nth d.bur.nv.revoked (fld p 1 0) 0 ≠ 0) : d.keyRevoke n = d.reply n stOk [] := by
  subst hp
  exact if_pos revoked

/-- A slot that the running image does not need is revoked (R765). -/
theorem Device.keyRevoke_of_usable (valid : nth d.bur.nv.revoked (fld p 1 0) 0 = 0)
    (other : FwHdr.keySlot (fwHdr d.bur.fwImage) ≠ fld p 1 0)
    (left : ∃ i < 4, d.bur.nv.usable d.bur.fwImage i ≠ (i == fld p 1 0)) :
    d.keyRevoke n =
      ({ d with bur := { d.bur with nv := { d.bur.nv with revoked := setAt d.bur.nv.revoked (fld p 1 0) 3 } } }).reply n stOk [] := by
  subst hp
  refine (if_neg (not_not.mpr valid)).trans ((if_neg other).trans (if_neg ?_))
  obtain ⟨i, short, differs⟩ := left
  exact fun all => differs (by simpa using List.all_eq_true.mp all i (List.mem_range.mpr short))

end Settings

/-- What an accepted policy changes at once: the leak timer where its interval changes (R664), and the fences of tiles whose bucket
has passed a lower limit (R665). -/
theorem Device.setPolicy_eq (d : Device) (q : Policy) :
    d.setPolicy q =
      let e := { d with lect := { d.lect with policy := q }
                        leakAt := if q.leakS ≠ d.lect.policy.leakS then d.hub else d.leakAt }
      if q.bucketLimit < d.lect.policy.bucketLimit then
        (e.tiles.filterMap fun x => if q.bucketLimit ≤ x.2.t.bucket then finTile x.1 else none).foldl Device.fenceTile e
      else e := by
  by_cases leak : q.leakS ≠ d.lect.policy.leakS
  · simp only [Device.setPolicy, if_pos leak]
    rfl
  · simp only [Device.setPolicy, if_neg leak]
    rfl

/-- Settles O33: each command's checks are decided by the conditions of its clause, and what is left is the setting. -/
theorem settingRowsComplete : Obligations.SettingRowsComplete := by
  intro s now n d p
  have hd : (advance now s.dev).taken n = d := rfl
  have hp : d.params n = p := rfl
  clear_value p d
  refine ⟨?inline, ?bulk, ?policy, ?limit, ?telemetry, ?service, ?revoked, ?usable⟩
  case inline =>
    intro accepted sec least fits inline short recs imgs sound tags
    exact State.drawerCommand_serves accepted hd
      ((Device.calWrite_of_inline hp sec least fits inline short).trans (Device.putCal_of_sound hp rfl rfl sound tags))
  case bulk =>
    intro accepted sec least fits bulk length free
    exact State.drawerCommand_serves accepted hd
      ((Device.calWrite_of_bulk hp sec least fits bulk length).trans (Device.armBulk_of_fits free n none))
  case policy =>
    intro accepted q ok free
    refine State.drawerCommand_serves accepted hd ((Device.selftestPolicy_of_ok hp rfl ok free).trans ?_)
    rw [Device.setPolicy_eq]
  case limit =>
    intro accepted ok
    exact State.drawerCommand_serves accepted hd (by subst hp; exact if_neg (by rw [ok]; exact Bool.false_ne_true))
  case telemetry => exact fun accepted => State.drawerCommand_serves accepted hd rfl
  case service =>
    intro c accepted current
    exact State.drawerCommand_serves accepted hd (by subst hp; simp only [current]; rfl)
  case revoked =>
    exact fun accepted revoked => State.drawerCommand_serves accepted hd (Device.keyRevoke_of_revoked hp revoked)
  case usable =>
    exact fun accepted valid other left => State.drawerCommand_serves accepted hd (Device.keyRevoke_of_usable hp valid other left)

/-! ### Plans (R736, R737, R743) -/

@[simp] theorem Device.needDom_bur (d : Device) (k : Nat) : (d.needDom k).bur = d.bur := by
  unfold Device.needDom
  split <;> rfl

/-- A Drawer whose transfer is armed is BUSY (R719). -/
theorem Device.drawer_armed {d : Device} (bank : d.bur.drawers.length = 64) (n : Fin 64) (ref : Image)
    (dest : Option (Fin 8 × Nat × Nat)) : ((d.armed n ref dest).drawer n).state = .busy := by
  rw [Device.armed, Device.drawer, Device.needDom_bur, ← Device.drawer, Device.drawer_setDrawer, if_pos rfl]
  exact bank

section Plans

variable {d : Device} {n : Fin 64} {p : Image} (hp : d.params n = p)
include hp

/-- A checked Plan of the store is loaded under the next handle (R736, R743). -/
theorem Device.loadPlan_of_stored {b : Bytes} (room : d.jobs.plans.length < 16) (sound : d.planCheck b b.length = none)
    (stored : bitAt p 1 = true) (read : bitAt p 0 = false) :
    d.loadPlan n b =
      let e := d.addPlan b (some (BitVec.ofNat 32 (fld p 63 32)))
      e.1.reply n stOk (natLE (mkImage [(0, 16, e.2.handle.toNat), (16, 8, PlanHdr.partMask (planHdr b)),
        (64, 64, leNat (e.2.digest.take 8))]) 16) := by
  subst hp
  simp only [Device.loadPlan, Nat.not_le.mpr room, sound, stored, read, Bool.false_eq_true, false_and, if_false, Bool.or_true,
    if_true]

end Plans

/-- Settles O24: whether the Plan comes from the store, what its checks find, and whether it is in use, decide each clause. That
entries have 32 bytes without a count is R713; log 53 is about the rest of the list. -/
theorem planTableRowsComplete : Obligations.PlanTableRowsComplete := by
  intro s now n d p
  have hd : (advance now s.dev).taken n = d := rfl
  have hp : d.params n = p := rfl
  have bank : d.bur.drawers.length = s.dev.bur.drawers.length := (setAt_length ..).trans (by rw [advance_bur])
  clear_value p d
  refine ⟨fun accepted room banked => ⟨fun host fits => ?armed, fun x stored read found sound => ?stored⟩,
    fun accepted pl plan idle => ?unload, fun accepted => State.drawerCommand_serves accepted hd rfl⟩
  case armed =>
    have busy := Device.drawer_armed (bank.trans banked) n (fld p 383 128) none
    refine State.drawerCommand_serves accepted hd ?_
    subst hp
    refine (if_neg (Nat.not_le.mpr room)).trans ((if_neg (Bool.eq_false_iff.mp host)).trans ?_)
    simp only [Device.armBulk_of_fits fits, busy]
    rfl
  case stored =>
    refine State.drawerCommand_serves accepted hd ?_
    subst hp
    refine (if_neg (Nat.not_le.mpr room)).trans ((if_pos stored).trans ?_)
    simp only [found]
    exact Device.loadPlan_of_stored rfl room sound stored read
  case unload =>
    refine State.drawerCommand_serves accepted hd ?_
    subst hp
    simp only [plan, idle]
    rfl

/-! ### The outputs (R730, R731) -/

/-- An ENABLE without a fault bit, a command on Plans or a stopping job sets OUTPUTS_ENABLED (R730). -/
theorem Device.enableOutputs_of_sound {d : Device} {n : Fin 64} (plan : d.bur.win.planFault = false)
    (sig : d.bur.win.sigFault = false) (checker : d.bur.win.checkerFault = false) (lectern : d.bur.win.lecternFault = false)
    (alone : d.inProgress n [0x0101, 0x0102, 0x0105] = false) (still : d.ceStopping = false) :
    d.enableOutputs n =
      ((d.watchStatus fun d => d.win fun w => { w with outputsEnabled := true }).autoStart (List.range 8)).settleReady.reply
        n stOk [] := by
  simp only [Device.enableOutputs, plan, sig, checker, lectern, Bool.or_self, Bool.false_eq_true, if_false, alone, still]

/-- Settles O26: an ENABLE finds no fault, no command on Plans and no job that stops, and a DISABLE always acts. That entering
the safe state posts its event with ST_OK is log 25. -/
theorem outputRowsComplete : Obligations.OutputRowsComplete := by
  intro s now n d
  have hd : (advance now s.dev).taken n = d := rfl
  have hw : s.dev.bur.win = d.bur.win := congrArg (·.win) (advance_bur now s.dev).symm
  clear_value d
  refine ⟨fun accepted row enable plan sig checker lectern alone still => ?enable, fun accepted row disable => ?disable⟩
  case enable =>
    rw [hw] at plan sig checker lectern
    show execOutputsEnable now n s = _
    exact (execOutputsEnable_of_bit now row).trans (State.drawerCommand_serves accepted hd
      ((if_pos enable).trans (Device.enableOutputs_of_sound plan sig checker lectern alone still)))
  case disable =>
    show execOutputsDisable now n s = _
    exact (execOutputsDisable_of_bit now row).trans (State.drawerCommand_serves accepted hd
      (if_neg (Bool.eq_false_iff.mp disable)))

end Sys2Proof.Machine
end

section
/-!
PROOF. The I3C target port (O35, O36): the common command codes and the bridges.
-/

namespace Sys2Proof.Machine

/-! ### Common command codes (R790 to R792) -/

section I3c

variable {s : State} {now : Time} {d : Device} (powered : s.dev.pow.phase ≠ .off) (hd : advance now s.dev = d)
include powered hd

theorem State.onI3c_timed {f g : Device → Device} (same : f d = g d) : s.onI3c now f = .next (s.timed now g) := by
  subst hd
  have awake : (advance now s.dev).pow.phase ≠ .off := by rwa [advance_pow]
  simp only [State.onI3c, State.act, if_neg awake, same]
  rfl

/-- A GET CCC returns its bytes where the target has a dynamic address. -/
theorem State.onI3c_answers {t : Fin 5} {bs : Bytes} {f : Device → Device} (same : f d = d.answer t bs) :
    s.onI3c now f = .next (s.timed now fun d => d.i3c fun x =>
      { x with answer := if s.dev.bur.i3c.reaches (some t) then bs else [] }) := by
  refine State.onI3c_timed powered hd (same.trans ?_)
  rw [← advance_bur now s.dev, hd]
  rfl

end I3c

/-- Settles O35: each code is the shell of the target port, which answers from step 1 on, while RESET_N is held and in recovery too
(R725, log 66); the two bytes of GETMXDS are log 30. -/
theorem i3cRowsComplete : Obligations.I3cRowsComplete := by
  refine ⟨fun s now powered => ?set, fun s now t powered => ?get⟩
  all_goals
    have hb : (advance now s.dev).bur = s.dev.bur := advance_bur now s.dev
    generalize hd : advance now s.dev = d at hb
  case set =>
    refine ⟨fun t ev event target reached => ?events, ?rstdaa, fun l => ?entdaa, fun a => ?setdasa, fun t a => ?setnewda,
      fun t l => ?lengths, ?enthdr0⟩
    case events =>
      have acts : ev.getLsbD 0 = true ∧ (t = none ∨ t = some 0) ∧ d.bur.i3c.reaches t = true := ⟨event, target, hb ▸ reached⟩
      show execEnec now t ev s = _ ∧ execDisec now t ev s = _
      exact ⟨State.onI3c_timed powered hd (if_pos acts), State.onI3c_timed powered hd (if_pos acts)⟩
    case rstdaa =>
      have none_all (x : I3c) : (setAddrs x fun _ _ => none) = { x with addrs := x.addrs.map fun _ => none } := by
        simp [setAddrs, List.map_const']
      show execRstdaa now s = _
      exact State.onI3c_timed powered hd (congrArg d.i3c (funext none_all))
    case entdaa =>
      show execEntdaa now l s = _
      exact State.onI3c_timed powered hd rfl
    case setdasa =>
      show execSetdasa now a s = _
      exact State.onI3c_timed powered hd rfl
    case setnewda =>
      show execSetnewda now t a s = _
      exact State.onI3c_timed powered hd rfl
    case lengths =>
      subst hd
      show execSetmwl now t l s = _ ∧ execSetmrl now t l s = _
      exact ⟨State.onI3c_timed powered rfl (g := id) rfl, State.onI3c_timed powered rfl (g := id) rfl⟩
    case enthdr0 =>
      show execEnthdr0 now s = _
      exact State.onI3c_timed powered hd rfl
  case get =>
    show execGetmwl now t s = _ ∧ execGetmrl now t s = _ ∧ execGetpid now t s = _ ∧ execGetbcr now t s = _
      ∧ execGetdcr now t s = _ ∧ execGetstatus now t s = _ ∧ execGetmxds now t s = _
    refine ⟨State.onI3c_answers powered hd rfl, State.onI3c_answers powered hd rfl, State.onI3c_answers powered hd rfl,
      State.onI3c_answers powered hd rfl, State.onI3c_answers powered hd rfl, State.onI3c_answers powered hd ?_,
      State.onI3c_answers powered hd rfl⟩
    rw [hb]
    rfl

/-! ### Bridges (R793 to R795) -/

/-- A bridge that is not BUSY takes a write. -/
theorem State.onBridge_free {s : State} {now : Time} {d : Device} (hd : advance now s.dev = d) {b : Fin 4}
    (awake : s.isAwake) (free : (bridgeAt s.dev b).state ≠ .busy) {f g : Device → Device} (same : f (d.setNack false) = g d) : s.onBridge now b f = .next (s.timed now g) := by
  subst hd
  have free : (bridgeAt (advance now s.dev) b).state ≠ .busy := by rwa [bridgeAt, advance_bur]
  obtain phase | phase | phase := awake <;> simp only [State.onBridge, State.act, advance_pow, phase, if_neg free, same] <;> rfl

/-- Before step 3, and while it is BUSY, a bridge answers with NACK. -/
theorem State.onBridge_busy {s : State} {now : Time} {b : Fin 4}
    (busy : s.dev.pow.phase = .held ∨ (s.isAwake ∧ (bridgeAt s.dev b).state = .busy)) (f : Device → Device) : s.onBridge now b f = .next (s.timed now fun d => d.setNack true) := by
  obtain held | ⟨phase | phase | phase, busy⟩ := busy
  · simp only [State.onBridge, State.act, advance_pow, held]
    rfl
  all_goals
    have busy : (bridgeAt (advance now s.dev) b).state = .busy := by rwa [bridgeAt, advance_bur]
    simp only [State.onBridge, State.act, advance_pow, phase, if_pos busy]
    rfl

/-- A row that stands for a write to a bridge is the shell of its bridge. -/
theorem exec_of_bridgeWrite {s : State} {now : Time} {b : Fin 4} {a : BitVec 7} {f l m : Byte} {data : Bytes} {c : Instr}
    (row : c ∈ [Instr.bridgePrivateWrite now b a data, .bridgeBroadcastCcc now b data, .bridgeSetMode now b m, .bridgeEntdaa now b f,
      .bridgeRstdaa now b, .bridgePrivateRead now b a l]) : ∃ eff, exec c s = s.onBridge now b eff := by
  simp only [List.mem_cons, List.not_mem_nil, or_false] at row
  obtain rfl | rfl | rfl | rfl | rfl | rfl := row
  · exact ⟨_, execBridgePrivateWrite.eq_def ..⟩
  · exact ⟨_, execBridgeBroadcastCcc.eq_def ..⟩
  · exact ⟨_, execBridgeSetMode.eq_def ..⟩
  · exact ⟨_, execBridgeEntdaa.eq_def ..⟩
  · exact ⟨_, execBridgeRstdaa.eq_def ..⟩
  · exact ⟨_, execBridgePrivateRead.eq_def ..⟩

/-- Settles O36: a bridge's state decides between the write and NACK, and the end of a transfer finds it BUSY. -/
theorem bridgeRowsComplete : Obligations.BridgeRowsComplete := by
  refine ⟨fun s now b a data awake free addr some short => ?write, fun s now b data awake free some => ?ccc,
    fun s now b m awake free mode => ?mode, fun s now b a awake free => ?entdaa, fun s now b awake free => ?rstdaa,
    fun s now b a l awake free addr some => ?read, fun s now b a f l m data busy c mem => ?nack,
    fun s now b data powered busy => ?done, fun s now b powered busy => ?ended⟩
  case write =>
    show execBridgePrivateWrite now b a data s = _
    exact State.onBridge_free rfl awake free (if_pos ⟨addr, some, short⟩)
  case ccc =>
    show execBridgeBroadcastCcc now b data s = _
    exact State.onBridge_free rfl awake free (if_pos some)
  case mode =>
    show execBridgeSetMode now b m s = _
    exact State.onBridge_free rfl awake free (if_neg (Nat.not_lt.mpr mode))
  case entdaa =>
    show execBridgeEntdaa now b a s = _
    exact State.onBridge_free rfl awake free rfl
  case rstdaa =>
    show execBridgeRstdaa now b s = _
    exact State.onBridge_free rfl awake free rfl
  case read =>
    show execBridgePrivateRead now b a l s = _
    exact State.onBridge_free rfl awake free (if_pos ⟨addr, some⟩)
  case nack =>
    obtain ⟨eff, shell⟩ := exec_of_bridgeWrite (s := s) mem
    rw [shell]
    exact State.onBridge_busy busy eff
  all_goals
    have same : bridgeAt (advance now s.dev) b = bridgeAt s.dev b := by rw [bridgeAt, advance_bur, ← bridgeAt]
    generalize hd : advance now s.dev = d at same
    have busy : ¬ (bridgeAt d b).state ≠ .busy := by rw [same]; exact not_not.mpr busy
  case done =>
    rw [← same]
    show execBridgeTransferDone now b (.done data) s = _
    exact State.onI3c_timed powered hd (if_neg busy)
  case ended =>
    show execBridgeTransferDone now b .nacked s = _ ∧ execBridgeTransferDone now b .busError s = _
    exact ⟨State.onI3c_timed powered hd (if_neg busy), State.onI3c_timed powered hd (if_neg busy)⟩

end Sys2Proof.Machine
end

section
/-!
PROOF. Reset, the supply and standby (O19).
-/

namespace Sys2Proof.Machine

/-! ### The restarts (R728, R801) -/

/-- A cause writes its event into the event log and leaves the rest of the non-volatile store (R687, R709). -/
theorem Device.lecternCause_nv (d : Device) (c : SafeCause) (st : Status) :
    ∃ log, (d.lecternCause c st).bur.nv = { d.bur.nv with eventLog := log } := by
  obtain ⟨w, entered⟩ := d.enterSafe_eq c st 0
  rw [Device.lecternCause, Device.event, Device.postEvent_eq, entered]
  exact ⟨_, rfl⟩

theorem Power.reset_doms (k : Nat) : nth Power.reset.doms k DomState.off = .off := by
  simp only [nth, Power.reset, List.getElem?_replicate]
  split <;> rfl

theorem State.act_timed {s : State} {now : Time} {f g : Device → Device} (same : f (advance now s.dev) = g (advance now s.dev)) :
    s.act now f = .next (s.timed now g) := by
  rw [State.act, same]
  rfl

theorem advance_phase (now : Time) (d : Device) : (advance now d).pow.phase = d.pow.phase := by rw [advance_pow]

section Powered

variable {s : State} (now : Time) (powered : s.dev.pow.phase ≠ .off)
include powered

theorem execResetNAssert_of_powered : execResetNAssert now s = .next (s.timed now Device.holdReset) :=
  State.act_timed (if_neg (by rwa [advance_phase]))

theorem execBrownOut_of_powered :
    execBrownOut now s = .next (s.timed now fun d =>
      let d := d.lecternCause .supplyFault stSupplyFault
      { Device.reset with clk := { Device.reset.clk with nonce := d.clk.nonce }, bur := { Device.reset.bur with nv := d.bur.nv } }) :=
  State.act_timed (if_neg (by rwa [advance_phase]))

end Powered

/-! ### Over-voltage, standby and the wake pin (R609, R753, R797, R802) -/

/-- An over-voltage of a module that is not shut shuts it (R802). -/
theorem execOverVoltageTrip_of_open {s : State} (now : Time) (awake : s.isAwake) (opened : s.dev.pow.phase ≠ .shut) :
    execOverVoltageTrip now s = .next (s.timed now fun d => (d.lecternCause .supplyFault stSupplyFault).shutdown) := by
  refine State.onAlive_timed awake rfl (if_neg ?_)
  obtain ⟨b, caused⟩ := (advance now s.dev).lecternCause_eq .supplyFault stSupplyFault
  rwa [caused, advance_pow]

section Wake

variable {s : State} (now : Time) (f : BootFindings)

theorem execWakeEdge_of_standby (standby : s.dev.pow.phase = .standby) :
    execWakeEdge now f s = .next (s.timed now fun d => d.leaveStandby none f) :=
  State.act_timed (if_pos ((advance_phase ..).trans standby))

theorem execWakeEdge_of_entering (up : s.isUp) (entering : s.dev.enteringStandby.isSome = true) :
    execWakeEdge now f s = .next (s.timed now fun d => { d with pow := { d.pow with wake := some f } }) := by
  have up : (advance now s.dev).pow.phase = .up := (advance_phase ..).trans up
  have entering : (advance now s.dev).enteringStandby.isSome = true := by
    simpa only [Device.enteringStandby, Device.cmdOpcode, advance_drawer] using entering
  exact State.act_timed ((if_neg (by rw [up]; exact nofun)).trans (if_pos ⟨up, entering⟩))

end Wake

theorem Window.setIbi_standby (w : Window) (v : BitVec 8) : (w.setIbi v).standby = w.standby := by rw [Window.setIbi_eq]

theorem Device.reply_standby (d : Device) (n : Fin 64) (st : Status) (bs : Bytes) :
    (d.reply n st bs).bur.win.standby = d.bur.win.standby :=
  Window.setIbi_standby ..

theorem Device.watchStatus_standby (d : Device) (f : Device → Device) :
    (d.watchStatus f).bur.win.standby = (f d).bur.win.standby := by
  unfold Device.watchStatus
  dsimp only
  split
  · rfl
  · exact Window.setIbi_standby ..

/-- The end of an entry sets the phase and STANDBY, and leaves the Lectern and the memory (R609). -/
theorem Device.inStandby_leaves (d : Device) (n : Fin 64) :
    (d.inStandby n).pow.phase = .standby ∧ (d.inStandby n).bur.win.standby = true ∧ (d.inStandby n).lect = d.lect
      ∧ (d.inStandby n).mem = d.mem := by
  have standby : (d.inStandby n).bur.win.standby = true :=
    (Device.reply_standby ..).trans (Device.watchStatus_standby d fun d => d.win fun w => { w with standby := true })
  obtain ⟨w, watched⟩ := d.watchStatus_eq fun d => d.win fun w => { w with standby := true }
  refine ⟨rfl, standby, ?_, ?_⟩ <;> rw [Device.inStandby, watched] <;> rfl

/-- Settles O19: a powered module restarts, one that is not shut shuts, and the phase decides what STANDBY and the wake pin do. What
a reset keeps, what over-voltage leaves and that an edge during the entry is remembered is log 37. -/
theorem supplyAndStandbyComplete : Obligations.SupplyAndStandbyComplete := by
  refine ⟨fun s now => ⟨fun powered => ?reset, fun powered => ?brownOut, fun awake opened => ?overVoltage⟩,
    fun s now n f => ⟨fun accepted enter up => ?enter, fun accepted leave standby => ?leave, fun standby => ?wake,
      fun up entering => ?early, fun d _ => d.inStandby_leaves n⟩⟩
  case reset =>
    refine ⟨_, execResetNAssert_of_powered now powered, rfl, rfl, rfl, rfl, rfl, rfl, ?_, ?_, rfl, Power.reset_doms, rfl, rfl⟩
    · rw [← advance_lect now s.dev]
      rfl
    · rw [← advance_bur now s.dev]
      rfl
  case brownOut =>
    obtain ⟨log, store⟩ := (advance now s.dev).lecternCause_nv .supplyFault stSupplyFault
    refine ⟨_, execBrownOut_of_powered now powered, rfl, rfl, rfl, rfl, rfl, rfl, ?_, ?_⟩
    · exact (congrArg NonVolatile.keyHash store).trans (by rw [advance_bur])
    · exact (congrArg NonVolatile.plans store).trans (by rw [advance_bur])
  case overVoltage => exact execOverVoltageTrip_of_open now awake opened
  case enter =>
    show execStandbyEnter now n s = _
    rw [execStandbyEnter_of_bit now enter]
    exact State.drawerCommand_serves accepted rfl (if_pos ((advance_phase ..).trans up))
  case leave =>
    show execStandbyLeave now n f s = _
    rw [execStandbyLeave_of_bit now leave]
    exact State.drawerCommand_serves accepted rfl (if_pos ((advance_phase ..).trans standby))
  case wake => exact execWakeEdge_of_standby now f standby
  case early => exact execWakeEdge_of_entering now f up entering

end Sys2Proof.Machine
end

section
/-!
PROOF. The mark of the bank that starts first (R751): no operation of steps 4 to 7 of the start-up writes it, so that a start
from the other bank is told apart at the end as it was at the beginning (O18).
-/

namespace Sys2Proof.Machine

@[simp] theorem Device.foldl_marked {α : Type} {f : Device → α → Device} (l : List α)
    (h : ∀ d x, (f d x).bur.nv.marked = d.bur.nv.marked) (d : Device) : (l.foldl f d).bur.nv.marked = d.bur.nv.marked := by
  induction l generalizing d with
  | nil => rfl
  | cons x l ih => exact (ih _).trans (h d x)

theorem Device.foldl_fst_marked {α β : Type} {f : Device × β → α → Device × β} (l : List α)
    (h : ∀ p x, (f p x).1.bur.nv.marked = p.1.bur.nv.marked) (p : Device × β) : (l.foldl f p).1.bur.nv.marked = p.1.bur.nv.marked := by
  induction l generalizing p with
  | nil => rfl
  | cons x l ih => exact (ih _).trans (h p x)

@[simp] theorem Device.ite_marked {p : Prop} [Decidable p] (d e : Device) :
    (if p then d else e).bur.nv.marked = if p then d.bur.nv.marked else e.bur.nv.marked := by split <;> rfl

@[simp] theorem Device.ite_fst_marked {p : Prop} [Decidable p] {β : Type} (d e : Device × β) :
    (if p then d else e).1.bur.nv.marked = if p then d.1.bur.nv.marked else e.1.bur.nv.marked := by split <;> rfl

theorem Device.foldl_option_marked {α : Type} {m : Bool} {f : Option Device → α → Option Device} (l : List α)
    (h : ∀ o x, (∀ e ∈ o, e.bur.nv.marked = m) → ∀ e ∈ f o x, e.bur.nv.marked = m) :
    ∀ {o : Option Device}, (∀ e ∈ o, e.bur.nv.marked = m) → ∀ e ∈ l.foldl f o, e.bur.nv.marked = m := by
  induction l with
  | nil => exact id
  | cons x l ih => exact fun kept => ih (h _ x kept)

theorem Device.marked_of_fst {α : Type} {p : Device × α} {e : Device} {x : α} {m : Bool} (eq : p = (e, x))
    (kept : p.1.bur.nv.marked = m) : e.bur.nv.marked = m := by rwa [eq] at kept

/-! ### Machine/Ops -/

@[simp] theorem Device.bump_marked (d : Device) : d.bump.bur.nv.marked = d.bur.nv.marked := rfl

@[simp] theorem Device.setCounter_marked (d : Device) (dom : Nat) (t : Time) :
    (d.setCounter dom t).bur.nv.marked = d.bur.nv.marked := rfl

@[simp] theorem Device.writeViewBytes_marked (d : Device) (p a : Nat) (bs : Bytes) :
    (d.writeViewBytes p a bs).bur.nv.marked = d.bur.nv.marked := by
  induction bs generalizing d a with
  | nil => rfl
  | cons b bs ih =>
    rw [Device.writeViewBytes, ih]
    split <;> rfl

@[simp] theorem Device.cacheTouch_marked (d : Device) (p a n pol : Nat) (write : Bool) :
    (d.cacheTouch p a n pol write).bur.nv.marked = d.bur.nv.marked := by
  unfold Device.cacheTouch
  split <;> simp

@[simp] theorem Device.setMemSet_marked (d : Device) (k : Nat) (m : MemSet) :
    (d.setMemSet k m).bur.nv.marked = d.bur.nv.marked := rfl

@[simp] theorem Device.wroteLine_marked (d : Device) (x : Nat) : (d.wroteLine x).bur.nv.marked = d.bur.nv.marked := rfl

@[simp] theorem Device.writeLines_marked (d : Device) (p a : Nat) (bs : Bytes) :
    (d.writeLines p a bs).bur.nv.marked = d.bur.nv.marked := by
  simp only [Device.writeLines, Device.cacheTouch_marked]
  rw [Device.foldl_marked, Device.writeViewBytes_marked]
  intro d i
  split <;> simp

@[simp] theorem Device.win_marked (d : Device) (f : Window → Window) : (d.win f).bur.nv.marked = d.bur.nv.marked := rfl

@[simp] theorem Device.watchStatus_marked (d : Device) (f : Device → Device) :
    (d.watchStatus f).bur.nv.marked = (f d).bur.nv.marked := by
  obtain ⟨w, watched⟩ := d.watchStatus_eq f
  rw [watched]

@[simp] theorem Device.postEvent_marked (d : Device) (st : Status) (sev : BitVec 2) (kind : BitVec 4) (src : BitVec 16)
    (detail : BitVec 112) :
    (d.postEvent st sev kind src detail).bur.nv.marked = d.bur.nv.marked := by
  simp [Device.postEvent]

@[simp] theorem Device.event_marked (d : Device) (st : Status) (kind : BitVec 4) (src : BitVec 16) (detail : BitVec 112) :
    (d.event st kind src detail).bur.nv.marked = d.bur.nv.marked := by
  simp [Device.event]

@[simp] theorem Device.notify_marked (d : Device) (st : Status) (kind : BitVec 4) (src : BitVec 16) :
    (d.notify st kind src).bur.nv.marked = d.bur.nv.marked := rfl

@[simp] theorem Device.clearCause_marked (d : Device) (c : SafeCause) : (d.clearCause c).bur.nv.marked = d.bur.nv.marked := rfl

@[simp] theorem Device.token_marked (d : Device) (t : Token) : (d.token t).bur.nv.marked = d.bur.nv.marked := rfl

@[simp] theorem Device.monitorStopped_marked (d : Device) (k : MonKey) : (d.monitorStopped k).bur.nv.marked = d.bur.nv.marked := by
  simp [Device.monitorStopped]

@[simp] theorem Device.setHook_marked (d : Device) (h : Nat) (x : Hook) : (d.setHook h x).bur.nv.marked = d.bur.nv.marked := rfl

@[simp] theorem Device.setTile_marked (d : Device) (t : Nat) (x : TileState) :
    (d.setTile t x).bur.nv.marked = d.bur.nv.marked := rfl

@[simp] theorem Device.setRun_marked (d : Device) (j : BitVec 16) (r : JobRun) :
    (d.setRun j r).bur.nv.marked = d.bur.nv.marked := rfl

@[simp] theorem Device.cancelTile_marked (d : Device) (t : Fin 4160) : (d.cancelTile t).bur.nv.marked = d.bur.nv.marked := by
  simp [Device.cancelTile]

@[simp] theorem Device.cancelPeriod_marked (d : Device) (j : BitVec 16) (st : Status) :
    (d.cancelPeriod j st).bur.nv.marked = d.bur.nv.marked := by
  unfold Device.cancelPeriod
  dsimp only
  (repeat' split) <;> simp

@[simp] theorem Device.withholdStop_marked (d : Device) (j : BitVec 16) (st : Status) :
    (d.withholdStop j st).bur.nv.marked = d.bur.nv.marked := by
  unfold Device.withholdStop
  dsimp only
  split <;> simp

@[simp] theorem Device.resumeWaiter_marked (d : Device) (h : Nat) (w : Waiter) :
    (d.resumeWaiter h w).bur.nv.marked = d.bur.nv.marked := by
  unfold Device.resumeWaiter
  split <;> simp

@[simp] theorem Device.signalHook_marked (d : Device) (who : Requester) (h n : Nat) :
    (d.signalHook who h n).bur.nv.marked = d.bur.nv.marked := by
  unfold Device.signalHook
  (repeat' split) <;> simp

@[simp] theorem Device.forgetWaits_marked (d : Device) (who : Requester) :
    (d.forgetWaits who).bur.nv.marked = d.bur.nv.marked := rfl

@[simp] theorem Device.initHook_marked (d : Device) (h n : Nat) : (d.initHook h n).bur.nv.marked = d.bur.nv.marked := rfl

@[simp] theorem Device.setOut_marked (d : Device) (p : Nat) (o : OutPort) : (d.setOut p o).bur.nv.marked = d.bur.nv.marked := rfl

@[simp] theorem Device.sendRecord_marked (d : Device) (r : OutRecord) : (d.sendRecord r).bur.nv.marked = d.bur.nv.marked := by
  unfold Device.sendRecord
  split <;> simp

@[simp] theorem Device.setDrawer_marked (d : Device) (n : Fin 64) (x : Drawer) :
    (d.setDrawer n x).bur.nv.marked = d.bur.nv.marked := rfl

@[simp] theorem Device.reply_marked (d : Device) (n : Fin 64) (st : Status) (bs : Bytes) :
    (d.reply n st bs).bur.nv.marked = d.bur.nv.marked := rfl

@[simp] theorem Device.fail_marked (d : Device) (n : Fin 64) (st : Status) : (d.fail n st).bur.nv.marked = d.bur.nv.marked := rfl

@[simp] theorem Device.count_marked (d : Device) (client k n : Nat) : (d.count client k n).bur.nv.marked = d.bur.nv.marked := rfl

@[simp] theorem Device.setDom_marked (d : Device) (k : Nat) (x : DomState) : (d.setDom k x).bur.nv.marked = d.bur.nv.marked := rfl

@[simp] theorem Device.needDom_marked (d : Device) (k : Nat) : (d.needDom k).bur.nv.marked = d.bur.nv.marked := by
  unfold Device.needDom
  split <;> simp

@[simp] theorem Device.persist_marked (d : Device) : d.persist.bur.nv.marked = d.bur.nv.marked := rfl

/-! ### Machine/Control -/

@[simp] theorem Device.setSlot_marked (d : Device) (s : Nat) (x : CeSlot) : (d.setSlot s x).bur.nv.marked = d.bur.nv.marked := rfl

@[simp] theorem Device.startSlot_marked (d : Device) (c : Image) : (d.startSlot c).bur.nv.marked = d.bur.nv.marked := by
  simp [Device.startSlot]

@[simp] theorem Device.finishModes_marked (d : Device) : d.finishModes.bur.nv.marked = d.bur.nv.marked := by
  unfold Device.finishModes
  rw [Device.foldl_marked]
  intro d n
  dsimp only
  (repeat' split) <;> simp

/-! ### Machine/Periods -/

@[simp] theorem Device.setTest_marked (d : Device) (t : UnitTest) : (d.setTest t).bur.nv.marked = d.bur.nv.marked := rfl

@[simp] theorem Device.modPeriod_marked (d : Device) (j : BitVec 16) (f : Period → Period) :
    (d.modPeriod j f).bur.nv.marked = d.bur.nv.marked := by
  unfold Device.modPeriod
  split <;> simp

@[simp] theorem Device.markDone_marked (d : Device) (j : BitVec 16) (st : Status) :
    (d.markDone j st).bur.nv.marked = d.bur.nv.marked := by
  simp [Device.markDone]

@[simp] theorem Device.engineSignal_marked (d : Device) (j : BitVec 16) (h n : Nat) :
    (d.engineSignal j h n).bur.nv.marked = d.bur.nv.marked := by
  simp [Device.engineSignal]

@[simp] theorem Device.writeCompletion_marked (d : Device) (r : JobRef) (p : Period) (st : Status) (t : Time) :
    (d.writeCompletion r p st t).bur.nv.marked = d.bur.nv.marked := by
  simp [Device.writeCompletion]

/-! ### Machine/Domains -/

@[simp] theorem Device.settleStandby_marked (d : Device) : d.settleStandby.bur.nv.marked = d.bur.nv.marked := by
  simp [Device.settleStandby]

@[simp] theorem Device.settleDomains_marked (d : Device) : d.settleDomains.bur.nv.marked = d.bur.nv.marked := by
  unfold Device.settleDomains
  split
  · rfl
  · refine Device.foldl_marked _ (fun d k => ?_) d
    (repeat' split) <;> simp

/-! ### Machine/MemErr -/

@[simp] theorem Device.checkErasure_marked (d : Device) (k : Nat) : (d.checkErasure k).bur.nv.marked = d.bur.nv.marked := by
  unfold Device.checkErasure
  dsimp only
  split <;> simp

@[simp] theorem Device.demandRead_marked (d : Device) (x : Nat) (errs : List BeatError) :
    (d.demandRead x errs).1.bur.nv.marked = d.bur.nv.marked := by
  unfold Device.demandRead
  dsimp only
  (repeat' split) <;> simp

@[simp] theorem Device.hubRead_marked (d : Device) (p a n : Nat) : (d.hubRead p a n).1.bur.nv.marked = d.bur.nv.marked := by
  unfold Device.hubRead
  split
  · rfl
  · dsimp only
    rw [Device.foldl_marked, Device.cacheTouch_marked]
    intro d i
    split <;> simp

/-! ### Machine/Seq -/

@[simp] theorem Device.seqState_marked (d : Device) (f : SeqState → SeqState) :
    (d.seqState f).bur.nv.marked = d.bur.nv.marked := rfl

@[simp] theorem Device.dropPages_marked (d : Device) (x : KvStream) : (d.dropPages x).bur.nv.marked = d.bur.nv.marked := rfl

@[simp] theorem Device.closeStream_marked (d : Device) (k : Nat) : (d.closeStream k).bur.nv.marked = d.bur.nv.marked := by
  unfold Device.closeStream
  split <;> simp

@[simp] theorem Device.closePartStreams_marked (d : Device) (p : Nat) :
    (d.closePartStreams p).bur.nv.marked = d.bur.nv.marked := by
  simp [Device.closePartStreams]

@[simp] theorem Device.settleCloses_marked (d : Device) : d.settleCloses.bur.nv.marked = d.bur.nv.marked := by
  simp [Device.settleCloses]

theorem Device.allocPage_marked {d e : Device} {r : JobRef} {pool : Image} {entry layer : Nat}
    (done : e ∈ d.allocPage r pool entry layer) : e.bur.nv.marked = d.bur.nv.marked := by
  unfold Device.allocPage at done
  split at done
  · cases done
  · cases done
    simp

theorem Device.ensurePages_marked {d e : Device} {r : JobRef} {pool : Image} {x : KvStream} {tokens : Nat}
    (done : e ∈ d.ensurePages r pool x tokens) : e.bur.nv.marked = d.bur.nv.marked := by
  unfold Device.ensurePages at done
  dsimp only at done
  split at done
  · cases done
  · refine Device.foldl_option_marked _ (fun o l kept => Device.foldl_option_marked _ (fun q p kept e done => ?_) kept) ?_ e done
    · split at done
      · cases done
      · split at done
        · exact kept e done
        · exact (Device.allocPage_marked done).trans (kept _ rfl)
    · rintro e ⟨⟩
      rfl

/-- Taking an entry of a step record (R219). -/
theorem StepBuild.take_marked (b : StepBuild) (r : JobRef) (pool e : Image) :
    (b.take r pool e).dev.bur.nv.marked = b.dev.bur.nv.marked := by
  unfold StepBuild.take
  dsimp only
  split
  · rfl
  · split
    · rfl
    · split
      · rfl
      · split
        · rfl
        · split
          · rfl
          next done => exact Device.ensurePages_marked done

theorem StepBuild.foldl_marked {f : StepBuild → Image → StepBuild} (l : List Image)
    (h : ∀ b e, (f b e).dev.bur.nv.marked = b.dev.bur.nv.marked) (b : StepBuild) :
    (l.foldl f b).dev.bur.nv.marked = b.dev.bur.nv.marked := by
  induction l generalizing b with
  | nil => rfl
  | cons e l ih => exact (ih _).trans (h b e)

@[simp] theorem Device.buildStep_marked (d : Device) (r : JobRef) (pool : Image) (seq : BitVec 32) :
    (d.buildStep r pool seq).bur.nv.marked = d.bur.nv.marked := by
  unfold Device.buildStep
  dsimp only
  rw [Device.seqState_marked, StepBuild.foldl_marked, Device.hubRead_marked]
  intro b e
  split
  · rfl
  · exact b.take_marked ..

@[simp] theorem Device.endStep_marked (d : Device) (j : BitVec 16) (completed : Bool) :
    (d.endStep j completed).bur.nv.marked = d.bur.nv.marked := by
  unfold Device.endStep
  split
  · rfl
  · simp only [Device.settleCloses_marked, Device.seqState_marked, Device.ite_marked]
    rw [Device.foldl_marked, ite_self]
    intro d w
    split <;> simp

@[simp] theorem Device.setStSlot_marked (d : Device) (k : Nat) (x : StateSlot) :
    (d.setStSlot k x).bur.nv.marked = d.bur.nv.marked := rfl

@[simp] theorem Device.pumpSlot_marked (d : Device) (k fuel : Nat) : (d.pumpSlot k fuel).bur.nv.marked = d.bur.nv.marked := by
  induction fuel generalizing d with
  | zero => rfl
  | succ fuel ih =>
    rw [Device.pumpSlot]
    (repeat' split) <;> simp only [ih, Device.reply_marked, Device.setStSlot_marked]

@[simp] theorem Device.runSlot_marked (d : Device) (k : Nat) : (d.runSlot k).bur.nv.marked = d.bur.nv.marked := by
  simp [Device.runSlot]

@[simp] theorem Device.endChunks_marked (d : Device) (r : JobRef) (seq : BitVec 32) :
    (d.endChunks r seq).bur.nv.marked = d.bur.nv.marked := by
  simp [Device.endChunks]

/-! ### Machine/Finisher -/

@[simp] theorem Device.setFin_marked (d : Device) (j : BitVec 16) (x : FinisherJob) :
    (d.setFin j x).bur.nv.marked = d.bur.nv.marked := rfl

/-! ### Machine/Shelf -/

@[simp] theorem Device.shelf_marked (d : Device) (f : ShelfState → ShelfState) : (d.shelf f).bur.nv.marked = d.bur.nv.marked := rfl

@[simp] theorem Device.answerMap_marked (d : Device) (b : Batch32) (st : Status) (v : BitVec 32) :
    (d.answerMap b st v).bur.nv.marked = d.bur.nv.marked := by
  unfold Device.answerMap
  dsimp only
  (repeat' split) <;> simp

@[simp] theorem Device.installShelf_marked (d : Device) (desc : Option Image) (part : Nat) :
    (d.installShelf desc part).bur.nv.marked = d.bur.nv.marked := by
  simp [Device.installShelf]

@[simp] theorem Device.pin_marked (d : Device) (inst : Fin 2) : (d.pin inst).bur.nv.marked = d.bur.nv.marked := rfl

@[simp] theorem Device.unpin_marked (d : Device) (inst : Fin 2) : (d.unpin inst).bur.nv.marked = d.bur.nv.marked := rfl

/-! ### Machine/Cleanup -/

@[simp] theorem Device.ackStream_marked (d : Device) (tag : BitVec 12) : (d.ackStream tag).bur.nv.marked = d.bur.nv.marked := rfl

@[simp] theorem Device.failMember_marked (d : Device) (tag : BitVec 12) (seq : BitVec 32) :
    (d.failMember tag seq).bur.nv.marked = d.bur.nv.marked := rfl

@[simp] theorem Device.restartStream_marked (d : Device) (tag : Nat) (x : Stream) (dest : Image) :
    (d.restartStream tag x dest).bur.nv.marked = d.bur.nv.marked := by
  simp [Device.restartStream]

@[simp] theorem Device.restartStreams_marked (d : Device) (r : JobRef) : (d.restartStreams r).bur.nv.marked = d.bur.nv.marked := by
  refine Device.foldl_marked _ (fun d e => ?_) d
  (repeat' split) <;> simp

@[simp] theorem Device.resetJobHooks_marked (d : Device) (j : BitVec 16) :
    (d.resetJobHooks j).bur.nv.marked = d.bur.nv.marked := by
  simp [Device.resetJobHooks]

@[simp] theorem Device.dropEngineWork_marked (d : Device) (r : JobRef) : (d.dropEngineWork r).bur.nv.marked = d.bur.nv.marked := by
  unfold Device.dropEngineWork
  dsimp only
  (repeat' split) <;> simp

@[simp] theorem Device.ackJob_marked (d : Device) (j : BitVec 16) : (d.ackJob j).bur.nv.marked = d.bur.nv.marked := rfl

@[simp] theorem Device.freeTiles_marked (d : Device) (j : BitVec 16) : (d.freeTiles j).bur.nv.marked = d.bur.nv.marked := rfl

@[simp] theorem Device.jobStopped_marked (d : Device) (j : BitVec 16) : (d.jobStopped j).bur.nv.marked = d.bur.nv.marked := by
  unfold Device.jobStopped
  dsimp only
  (repeat' split) <;> simp

@[simp] theorem Device.settleStop_marked (d : Device) (j : BitVec 16) : (d.settleStop j).bur.nv.marked = d.bur.nv.marked := by
  unfold Device.settleStop
  split <;> simp

@[simp] theorem Device.cleanUp_marked (d : Device) (j : BitVec 16) : (d.cleanUp j).bur.nv.marked = d.bur.nv.marked := by
  unfold Device.cleanUp
  dsimp only
  (repeat' split) <;> simp

@[simp] theorem Device.endWith_marked (d : Device) (j : BitVec 16) (st : Status) :
    (d.endWith j st).bur.nv.marked = d.bur.nv.marked := by
  simp [Device.endWith]

/-! ### Machine/Fusion -/

@[simp] theorem Device.fus_marked (d : Device) (f : FusionState → FusionState) : (d.fus f).bur.nv.marked = d.bur.nv.marked := rfl

@[simp] theorem Device.recordCycle_marked (d : Device) (r : JobRef) (c : FusionCycle) (st : Status) :
    (d.recordCycle r c st).bur.nv.marked = d.bur.nv.marked := by
  unfold Device.recordCycle
  dsimp only
  (repeat' split) <;> simp

@[simp] theorem Device.startFusion_marked (d : Device) : d.startFusion.bur.nv.marked = d.bur.nv.marked := rfl

@[simp] theorem Device.stopFusion_marked (d : Device) : d.stopFusion.bur.nv.marked = d.bur.nv.marked := by
  unfold Device.stopFusion
  split <;> simp

@[simp] theorem Device.installFusion_marked (d : Device) (job : Option (BitVec 16)) (desc : Option Image) :
    (d.installFusion job desc).bur.nv.marked = d.bur.nv.marked := by
  unfold Device.installFusion
  dsimp only
  (repeat' split) <;> simp

/-! ### Machine/Planner -/

@[simp] theorem Device.setPlanJob_marked (d : Device) (j : BitVec 16) (x : PlannerJob) :
    (d.setPlanJob j x).bur.nv.marked = d.bur.nv.marked := rfl

@[simp] theorem Device.takeQueries_marked (d : Device) (r : JobRef) (desc : Image) :
    (d.takeQueries r desc).1.bur.nv.marked = d.bur.nv.marked := by
  simp [Device.takeQueries]

@[simp] theorem Device.writeTraj_marked (d : Device) (r : JobRef) (desc : Image) (p : Period) (u : PlanRun) (o : TrajOutcome) :
    (d.writeTraj r desc p u o).bur.nv.marked = d.bur.nv.marked := by
  simp [Device.writeTraj]

@[simp] theorem Device.failSearch_marked (d : Device) (r : JobRef) (desc : Image) (p : Period) (u : PlanRun) :
    (d.failSearch r desc p u).bur.nv.marked = d.bur.nv.marked := by
  simp [Device.failSearch]

@[simp] theorem Device.readGuess_marked (d : Device) (r : JobRef) (dof : Nat) (q : Image) :
    (d.readGuess r dof q).1.bur.nv.marked = d.bur.nv.marked := by
  simp [Device.readGuess]

@[simp] theorem Device.firstGuess_marked (d : Device) (r : JobRef) (desc q : Image) (start goal : List F32) (rest : Option
    (List Waypoint)) :
    (d.firstGuess r desc q start goal rest).1.bur.nv.marked = d.bur.nv.marked := by
  simp [Device.firstGuess]

@[simp] theorem Device.startPlanner_marked (d : Device) (r : JobRef) (desc : Image) (p : Period) (i : Fin 2) :
    (d.startPlanner r desc p i).bur.nv.marked = d.bur.nv.marked := by
  unfold Device.startPlanner
  dsimp only
  split
  next e _ st run =>
    have taken := Device.marked_of_fst run (d.takeQueries_marked ..)
    simpa using taken
  next e new run =>
    have taken := Device.marked_of_fst run (d.takeQueries_marked ..)
    rw [← taken]
    split
    · simp
    · simp
    · split
      next f _ st _ guess =>
        simpa using Device.marked_of_fst guess (Device.firstGuess_marked ..)
      next f _ guess =>
        have kept := Device.marked_of_fst guess (Device.firstGuess_marked ..)
        split <;> simpa using kept

@[simp] theorem Device.startPlanners_marked (d : Device) : d.startPlanners.bur.nv.marked = d.bur.nv.marked := by
  unfold Device.startPlanners
  rw [Device.foldl_marked]
  intro d e
  obtain ⟨r, p⟩ := e
  dsimp only
  split
  · rfl
  · split
    · simp
    · split
      · simp
      · split
        · rfl
        · split
          · rfl
          · split <;> simp

/-! ### Machine/Solver -/

@[simp] theorem Device.setSolv_marked (d : Device) (j : BitVec 16) (x : SolverJob) :
    (d.setSolv j x).bur.nv.marked = d.bur.nv.marked := rfl

/-! ### Machine/Dispatcher -/

@[simp] theorem Device.fillBuffer_marked (d : Device) (s : Nat) (c : Option CodeImage) :
    (d.fillBuffer s c).bur.nv.marked = d.bur.nv.marked := rfl

@[simp] theorem Device.setHalos_marked (d : Device) (r : JobRef) : (d.setHalos r).bur.nv.marked = d.bur.nv.marked := by
  simp [Device.setHalos]

@[simp] theorem Device.needJob_marked (d : Device) (r : JobRef) : (d.needJob r).bur.nv.marked = d.bur.nv.marked := by
  unfold Device.needJob
  dsimp only
  (repeat' split) <;> simp

@[simp] theorem Device.sendStarts_marked (d : Device) (r : JobRef) (x : JobRun) (p : Period) :
    (d.sendStarts r x p).bur.nv.marked = d.bur.nv.marked := by
  simp [Device.sendStarts]

@[simp] theorem Device.beginSave_marked (d : Device) (j : BitVec 16) : (d.beginSave j).bur.nv.marked = d.bur.nv.marked := by
  unfold Device.beginSave
  split <;> simp

@[simp] theorem Device.dropSaved_marked (d : Device) (j : BitVec 16) : (d.dropSaved j).bur.nv.marked = d.bur.nv.marked := rfl

@[simp] theorem Device.preemptFor_marked (d : Device) (ts : List (Fin 4160)) :
    (d.preemptFor ts).bur.nv.marked = d.bur.nv.marked := by
  refine Device.foldl_marked _ (fun d j => ?_) d
  split <;> simp

@[simp] theorem Device.takeStep_marked (d : Device) (r : JobRef) (p : Period) :
    (d.takeStep r p).bur.nv.marked = d.bur.nv.marked := by
  unfold Device.takeStep
  dsimp only
  (repeat' split) <;> simp

@[simp] theorem Device.settleStart_marked (d : Device) (r : JobRef) : (d.settleStart r).bur.nv.marked = d.bur.nv.marked := by
  unfold Device.settleStart
  dsimp only
  (repeat' split) <;> simp

@[simp] theorem Device.settleStarts_marked (d : Device) : d.settleStarts.bur.nv.marked = d.bur.nv.marked := by
  simp [Device.settleStarts]

@[simp] theorem Device.seedTiles_marked (d : Device) (r : JobRef) : (d.seedTiles r).bur.nv.marked = d.bur.nv.marked := by
  simp [Device.seedTiles]

@[simp] theorem Device.startJob_marked (d : Device) (r : JobRef) : (d.startJob r).bur.nv.marked = d.bur.nv.marked := by
  unfold Device.startJob
  split <;> simp

/-! ### Machine/Fence -/

@[simp] theorem Device.setPart_marked (d : Device) (p : Nat) (x : Partition) :
    (d.setPart p x).bur.nv.marked = d.bur.nv.marked := rfl

@[simp] theorem Device.initTile_marked (d : Device) (s id : Nat) : (d.initTile s id).bur.nv.marked = d.bur.nv.marked := rfl

@[simp] theorem Device.loadTile_marked (d : Device) (s id : Nat) : (d.loadTile s id).bur.nv.marked = d.bur.nv.marked := rfl

@[simp] theorem Device.mapSpare_marked (d : Device) (id : Nat) : (d.mapSpare id).bur.nv.marked = d.bur.nv.marked := by
  unfold Device.mapSpare
  dsimp only
  (repeat' split) <;> simp

/-! ### Machine/Plans -/

@[simp] theorem Device.installTable_marked (d : Device) : d.installTable.bur.nv.marked = d.bur.nv.marked := rfl

@[simp] theorem Device.withPlan_marked (d : Device) (ps : List Nat) (h : BitVec 16) :
    (d.withPlan ps h).bur.nv.marked = d.bur.nv.marked := by
  unfold Device.withPlan
  split <;> simp

@[simp] theorem Device.addPlan_marked (d : Device) (b : Bytes) (id : Option (BitVec 32)) :
    (d.addPlan b id).1.bur.nv.marked = d.bur.nv.marked := rfl

@[simp] theorem Device.retireJobs_marked (d e : Device) (ps : List Nat) : (d.retireJobs e ps).bur.nv.marked = d.bur.nv.marked := by
  unfold Device.retireJobs
  rw [Device.foldl_marked]
  intro d r
  extract_lets kept counted stopped jobs ended cleared
  have same : ended.bur.nv.marked = d.bur.nv.marked := by
    refine (Device.jobStopped_marked ..).trans ((Device.dropSaved_marked ..).trans ?_)
    subst counted
    split
    · split <;> simp
    · rfl
  have emptied : cleared.bur.nv.marked = ended.bur.nv.marked := by
    subst cleared
    split
    · rw [Device.foldl_marked, Device.setSolv_marked]
      intro d b
      split <;> simp
    · rfl
  split
  · rfl
  · split
    · exact same
    · split
      · exact emptied.trans same
      all_goals exact same

@[simp] theorem Device.installViews_marked (d e : Device) (ps : List Nat) :
    (d.installViews e ps).bur.nv.marked = d.bur.nv.marked := by
  simp [Device.installViews]

@[simp] theorem Device.installHooks_marked (d : Device) (ps : List Nat) : (d.installHooks ps).bur.nv.marked = d.bur.nv.marked := by
  simp [Device.installHooks]

@[simp] theorem Device.installImages_marked (d : Device) (ps : List Nat) :
    (d.installImages ps).bur.nv.marked = d.bur.nv.marked := by
  refine Device.foldl_marked _ (fun d r => Device.foldl_marked _ (fun d v => ?_) d) d
  split
  · rfl
  · exact Device.foldl_fst_marked _ (by simp) _

@[simp] theorem Device.installTiles_marked (d : Device) (ps : List Nat) : (d.installTiles ps).bur.nv.marked = d.bur.nv.marked := by
  refine Device.foldl_marked _ (fun d id => ?_) d
  split <;> simp

@[simp] theorem Device.installSolver_marked (d : Device) (r : JobRef) : (d.installSolver r).bur.nv.marked = d.bur.nv.marked := by
  unfold Device.installSolver
  dsimp only
  (repeat' split) <;> simp

@[simp] theorem Device.placeFusion_marked (d : Device) : d.placeFusion.bur.nv.marked = d.bur.nv.marked := by
  simp [Device.placeFusion]

@[simp] theorem Device.installEngines_marked (d : Device) (ps : List Nat) :
    (d.installEngines ps).bur.nv.marked = d.bur.nv.marked := by
  unfold Device.installEngines
  dsimp only
  split
  all_goals
    rw [Device.installShelf_marked, Device.placeFusion_marked, Device.foldl_marked]
    intro d r
    split <;> simp

@[simp] theorem Device.installSlots_marked (d : Device) : d.installSlots.bur.nv.marked = d.bur.nv.marked := by
  unfold Device.installSlots
  refine Device.foldl_marked _ (fun d e => Device.foldl_marked _ (fun d q => ?_) d) d
  split <;> simp

@[simp] theorem Device.installCe_marked (d : Device) (old : List Image) : (d.installCe old).bur.nv.marked = d.bur.nv.marked := by
  unfold Device.installCe
  rw [Device.foldl_marked, Device.foldl_marked]
  · exact fun _ _ => rfl
  · intro d c
    split <;> simp

@[simp] theorem Device.installStreams_marked (d : Device) (ps : List Nat) :
    (d.installStreams ps).bur.nv.marked = d.bur.nv.marked := by
  simp [Device.installStreams]

@[simp] theorem Device.autoStart_marked (d : Device) (ps : List Nat) : (d.autoStart ps).bur.nv.marked = d.bur.nv.marked := by
  simp [Device.autoStart]

@[simp] theorem Device.installPlan_marked (d : Device) (ps : List Nat) (h : BitVec 16) :
    (d.installPlan ps h).bur.nv.marked = d.bur.nv.marked := by
  simp [Device.installPlan]

/-! ### Machine/SelfTest -/

@[simp] theorem Device.stopWith_marked (d : Device) (r : JobRef) (st : Status) :
    (d.stopWith r st).bur.nv.marked = d.bur.nv.marked := by
  unfold Device.stopWith
  dsimp only
  split <;> simp

@[simp] theorem Device.engineFailed_marked (d : Device) (e : EngineUnit) : (d.engineFailed e).bur.nv.marked = d.bur.nv.marked := by
  unfold Device.engineFailed
  split <;> simp

/-! ### Machine/Boot -/

@[simp] theorem Device.settleReady_marked (d : Device) : d.settleReady.bur.nv.marked = d.bur.nv.marked := by
  simp [Device.settleReady]

@[simp] theorem Device.fenceAt_marked (d : Device) (c : CensusState) (ts : List (Fin 4160)) :
    (d.fenceAt c ts).bur.nv.marked = d.bur.nv.marked := by
  simp [Device.fenceAt]

@[simp] theorem Device.lbist_marked (d : Device) (f : BootFindings) : (d.lbist f).bur.nv.marked = d.bur.nv.marked := by
  simp [Device.lbist]

@[simp] theorem Device.startStored_marked (d : Device) (p : StoredPlan) : (d.startStored p).bur.nv.marked = d.bur.nv.marked := by
  unfold Device.startStored
  dsimp only
  (repeat' split) <;> simp

@[simp] theorem Device.startStoredPlans_marked (d : Device) : d.startStoredPlans.bur.nv.marked = d.bur.nv.marked := by
  simp [Device.startStoredPlans]

@[simp] theorem Device.powerAll_marked (d : Device) : d.powerAll.bur.nv.marked = d.bur.nv.marked := by
  unfold Device.powerAll
  rw [Device.foldl_marked]
  intro d k
  dsimp only
  split <;> simp

@[simp] theorem Device.strapPorts_marked (d : Device) : d.strapPorts.bur.nv.marked = d.bur.nv.marked := rfl

@[simp] theorem Device.reachReady_marked (d : Device) : d.reachReady.bur.nv.marked = d.bur.nv.marked := by
  simp [Device.reachReady]

theorem Device.commitSvn_marked (d : Device) : d.commitSvn.bur.nv.marked = d.bur.nv.marked := by
  unfold Device.commitSvn
  dsimp only
  split <;> rfl

end Sys2Proof.Machine
end

section
/-!
PROOF. Start-up and recovery (O18): what step 2 finds, the recovery port, the start from a bank, and the packets of an image.
-/

namespace Sys2Proof.Machine

/-! ### The start (R724 to R728, R751, R764) -/

/-- The Lectern's part of step 2: its own check, which enters the safe state where it fails (R727). -/
def Device.checkLectern (d : Device) (f : BootFindings) : Device :=
  let d := { d with lect := { d.lect with bootOk := f.lecternOk } }
  if f.lecternOk then d
  else (d.enterSafe .lecternFault stLecternFault 0).win fun w => { w with lecternFault := true }

/-- The Lectern's check changes the Lectern and the window only. -/
theorem Device.checkLectern_eq (d : Device) (f : BootFindings) :
    ∃ l w, d.checkLectern f = { d with lect := l, bur := { d.bur with win := w } } ∧
      (d.pinsSafe → d.lect.safe = true → l.safe = true ∧ l.pinA = false ∧ l.pinB = false) := by
  unfold Device.checkLectern
  dsimp only
  split
  · exact ⟨_, _, rfl, fun low safe => ⟨safe, low safe⟩⟩
  · obtain ⟨w, entered⟩ := Device.enterSafe_eq { d with lect := { d.lect with bootOk := f.lecternOk } } .lecternFault stLecternFault 0
    rw [entered]
    exact ⟨_, _, rfl, fun _ _ => ⟨rfl, rfl, rfl⟩⟩

/-- Steps 2 to 5 with the image of bank `b` (R751): the Bureau runs, and the main memory is initialised (R641). -/
def Device.bootMemory (d : Device) (f : BootFindings) (b : Bool) : Device :=
  let d := { d with pow := { d.pow with phase := .up }, bur := { d.bur with fwBank := some b, fwImage := d.bur.nv.bank b } }
  let d := if d.bur.nv.calCurrent.isNone then d.win fun w => { w with calFault := true } else d
  (d.calibrate f).initMemory f

/-- Steps 6 and 7, from the fences of the store to the fuse (R667, R743, R761). -/
def Device.bootUnits (d : Device) (f : BootFindings) (fences : List (Fin 4160)) : Device :=
  (((((d.fenceAt .fenced fences).lbist f).strapPorts).powerAll).startStoredPlans).reachReady.commitSvn

theorem Device.bootUnits_marked (d : Device) (f : BootFindings) (fences : List (Fin 4160)) :
    (d.bootUnits f fences).bur.nv.marked = d.bur.nv.marked := by
  simp [Device.bootUnits, Device.commitSvn_marked]

/-- The tiles that the store has as fenced (R645). -/
def NonVolatile.fences (v : NonVolatile) : List (Fin 4160) := (v.persistCurrent.map (·.fences)).getD []

/-- Calibration changes counters, the governor and the window. -/
theorem Device.calibrate_eq (d : Device) (f : BootFindings) :
    ∃ c g w, d.calibrate f = { d with clk := c, pow := { d.pow with gov := g }, bur := { d.bur with win := w } } := by
  unfold Device.calibrate
  dsimp only
  split <;> exact ⟨_, _, _, rfl⟩

/-- What the start has set when step 6 begins (R641, R642). -/
theorem Device.bootMemory_sets (d : Device) (f : BootFindings) (b : Bool) :
    let e := d.bootMemory f b
    (e.pow.phase = .up ∧ e.bur.fwBank = some b ∧ e.bur.fwImage = d.bur.nv.bank b ∧ e.bur.nv = d.bur.nv)
      ∧ e.bur.win.memFault = (f.setFail != 0) ∧ e.bur.win.checkerFault = !f.checkerOk
      ∧ e.mem.main = { cells := [], undef := [], poison := [] }
      ∧ e.mem.sets.map (·.excluded) = (List.range 4).map fun k => f.setFail.getLsbD k := by
  unfold Device.bootMemory
  extract_lets pow bur u c e
  obtain ⟨k, g, w, calibrated⟩ := c.calibrate_eq f
  have begun : (c.pow.phase = .up ∧ c.bur.fwBank = some b ∧ c.bur.fwImage = d.bur.nv.bank b ∧ c.bur.nv = d.bur.nv) := by
    subst c
    split <;> exact ⟨rfl, rfl, rfl, rfl⟩
  refine ⟨?_, rfl, rfl, rfl, ?_⟩
  · subst e
    rw [calibrated]
    exact begun
  · exact List.map_map

/-- Without an image that starts, input 0 waits for one (R764, R777). -/
def Device.enterRecovery (d : Device) : Device :=
  let d := d.recoveryPort
  { d with pow := { d.pow with phase := .recovery }
           bur := { d.bur with fwBank := none, fwImage := [], recovery := []
                               win := { d.bur.win with step := 3, sigFault := true } } }

/-- A start from the bank that is not marked is told (R751). -/
def Device.startImage (d : Device) (f : BootFindings) (b : Bool) : Device :=
  let e := d.bootMemory f b
  let r := e.bootUnits f e.bur.nv.fences
  if b = r.bur.nv.marked then r else r.event stFwFallback srcNone 0 0

theorem Device.enterRecovery_sets (d : Device) :
    let e := d.enterRecovery
    e.pow.phase = .recovery ∧ e.bur.win.step = 3 ∧ e.bur.win.sigFault = true ∧ e.bur.fwBank = none ∧ e.lect = d.lect
      ∧ e.mem = d.mem :=
  ⟨rfl, rfl, rfl, rfl, rfl, rfl⟩

theorem Device.bootFrom2_eq (d : Device) (f : BootFindings) :
    d.bootFrom2 f = match (d.checkLectern f).bur.nv.startBank f with
      | none => (d.checkLectern f).enterRecovery
      | some b => (d.checkLectern f).startImage f b := rfl

section Start

variable {d : Device} {f : BootFindings}

theorem Device.bootFrom2_of_none (none : d.bur.nv.startBank f = none) : d.bootFrom2 f = (d.checkLectern f).enterRecovery := by
  obtain ⟨l, w, checked, -⟩ := d.checkLectern_eq f
  have none : (d.checkLectern f).bur.nv.startBank f = .none := by rwa [checked]
  rw [Device.bootFrom2_eq, none]

theorem Device.bootFrom2_of_bank {b : Bool} (start : d.bur.nv.startBank f = some b) :
    d.bootFrom2 f = (d.checkLectern f).startImage f b := by
  obtain ⟨l, w, checked, -⟩ := d.checkLectern_eq f
  have start : (d.checkLectern f).bur.nv.startBank f = some b := by rwa [checked]
  rw [Device.bootFrom2_eq, start]

end Start

theorem Device.startImage_eq (d : Device) (f : BootFindings) (b : Bool) :
    d.startImage f b =
      let r := (d.bootMemory f b).bootUnits f d.bur.nv.fences
      if b = d.bur.nv.marked then r else r.event stFwFallback srcNone 0 0 := by
  obtain ⟨⟨-, -, -, kept⟩, -⟩ := d.bootMemory_sets f b
  simp only [Device.startImage, Device.bootUnits_marked, kept]

/-! ### The packets of an image (R764) -/

/-- A packet of the stream that carries an image: input 0, channel 0, its data type and its header's tag, kind and number. -/
structure CarriesImage (p : Pkt) : Prop where
  port : p.port.val = 0
  vc : p.vc = 0
  dt : p.dt = 0x37
  ecc : p.ecc ≠ .bad
  crc : p.crcOk = true
  header : 16 ≤ p.payload.length
  tag : StrHdr.tag (imageAt p.payload 0 16) = 0xFFF
  kind : StrHdr.kind (imageAt p.payload 0 16) = 0x50
  seq : StrHdr.seq (imageAt p.payload 0 16) = 0

/-- The packet continues an image of which `n` bytes have come. -/
structure ContinuesImage (p : Pkt) (n : Nat) : Prop where
  rsvd : rsvdZero (imageAt p.payload 0 16) StrHdr.rsvd = true
  body : fld (imageAt p.payload 16 16) 127 48 = 0
  offset : fld (imageAt p.payload 16 16) 47 0 = n
  some : p.payload.drop 32 ≠ []

theorem ContinuesImage.not_broken {p : Pkt} {n : Nat} (continues : ContinuesImage p n) :
    ¬ ((!rsvdZero (imageAt p.payload 0 16) StrHdr.rsvd) = true ∨ fld (imageAt p.payload 16 16) 127 48 ≠ 0
      ∨ fld (imageAt p.payload 16 16) 47 0 ≠ n ∨ (p.payload.drop 32).isEmpty = true) := by
  obtain ⟨rsvd, body, offset, some⟩ := continues
  simpa [rsvd, body, offset] using some

section Packets

variable {d : Device} {p : Pkt} (carries : CarriesImage p) (f : BootFindings)
include carries

theorem CarriesImage.not_other :
    ¬ (p.port.val ≠ 0 ∨ p.vc ≠ 0 ∨ p.dt ≠ 0x37 ∨ p.ecc = .bad ∨ (!p.crcOk) = true ∨ p.payload.length < 16
      ∨ StrHdr.tag (imageAt p.payload 0 16) ≠ 0xFFF ∨ StrHdr.kind (imageAt p.payload 0 16) ≠ 0x50
      ∨ StrHdr.seq (imageAt p.payload 0 16) ≠ 0) := by
  obtain ⟨port, vc, dt, ecc, crc, header, tag, kind, seq⟩ := carries
  simp [port, vc, dt, ecc, crc, header, tag, kind, seq]

/-- A packet that does not continue the image discards it. -/
theorem Device.recoveryPacket_of_gap (gap : fld (imageAt p.payload 16 16) 47 0 ≠ d.bur.recovery.length) :
    d.recoveryPacket p f = { d with bur := { d.bur with recovery := [] } } :=
  (if_neg carries.not_other).trans (if_pos (.inr (.inr (.inl gap))))

section Continued

variable (continues : ContinuesImage p d.bur.recovery.length)
include continues

/-- A packet of an image that is not yet whole is kept. -/
theorem Device.recoveryPacket_of_part {got : Bytes} (hgot : d.bur.recovery ++ p.payload.drop 32 = got)
    (part : StrHdr.isPartial (imageAt p.payload 0 16) = true)
    (short : got.length < 24 ∨ got.length < FwHdr.totalLen (imageAt got 0 128)) :
    d.recoveryPacket p f = { d with bur := { d.bur with recovery := got } } := by
  subst hgot
  refine (if_neg carries.not_other).trans ((if_neg continues.not_broken).trans ((if_pos part).trans (if_neg ?_)))
  rw [decide_eq_true_eq]
  omega

/-- The last packet of an image that passes its checks starts the module from it. -/
theorem Device.recoveryPacket_of_whole {got : Bytes} (hgot : d.bur.recovery ++ p.payload.drop 32 = got)
    (last : StrHdr.isPartial (imageAt p.payload 0 16) = false) (known : 24 ≤ got.length)
    (whole : got.length = FwHdr.totalLen (imageAt got 0 128)) (sound : d.bur.nv.fwCheck got = none) :
    d.recoveryPacket p f =
      let e := d.holdReset
      ({ e with bur := { e.bur with nv := { e.bur.nv with fwA := got, marked := false } } }).bootFrom2 f := by
  subst hgot
  refine (if_neg carries.not_other).trans ((if_neg continues.not_broken).trans
    ((if_neg (Bool.eq_false_iff.mp last)).trans ((if_neg ?_).trans ?_)))
  · simp only [known, decide_true, Bool.not_true, Bool.false_eq_true, whole.symm, ne_eq, not_true_eq_false, or_self,
      not_false_eq_true]
  · simp only [sound]

end Continued

end Packets

/-- Settles O18: the store decides between recovery and a start, and the headers what a packet does. That the steps of R724 are one
command is log 37; the shape of step 7 and what it clears are logs 36 and 39. -/
theorem startUpAndRecoveryComplete : Obligations.StartUpAndRecoveryComplete := by
  refine ⟨fun s now f => ⟨fun off => ?power, fun held => ?release, fun d low safe none => ?recovery, fun d b start => ?start⟩,
    fun s now p f phase port vc dt ecc crc header => ?packets⟩
  case power =>
    show execBatteryTurnOn now f s = _
    rw [execBatteryTurnOn, State.act, advance_off off, if_pos off]
  case release =>
    show execResetNRelease now f s = _
    exact State.act_timed (if_pos ((advance_phase ..).trans held))
  case recovery =>
    obtain ⟨l, w, checked, entered⟩ := d.checkLectern_eq f
    obtain ⟨held, lowA, lowB⟩ := entered low safe
    have lect : (d.checkLectern f).lect = l := by rw [checked]
    have mem : (d.checkLectern f).mem = d.mem := by rw [checked]
    obtain ⟨phase, step, fault, bank, lect', mem'⟩ := (d.checkLectern f).enterRecovery_sets
    rw [Device.bootFrom2_of_none none]
    refine ⟨phase, step, fault, ?_, ?_, ?_, bank, mem'.trans mem⟩ <;> rw [lect', lect] <;> assumption
  case start =>
    obtain ⟨l, w, checked, -⟩ := d.checkLectern_eq f
    have store : (d.checkLectern f).bur.nv = d.bur.nv := by rw [checked]
    obtain ⟨⟨phase, bank, image, -⟩, fault, checker, main, sets⟩ := (d.checkLectern f).bootMemory_sets f b
    have told := (d.checkLectern f).startImage_eq f b
    rw [store] at image told
    exact ⟨(d.checkLectern f).bootMemory f b, phase, bank, image, fault, checker, ⟨main, sets⟩,
      (Device.bootFrom2_of_bank start).trans told⟩
  case packets =>
    rw [← advance_bur now s.dev]
    intro h b got tag kind seq
    have carries : CarriesImage p := ⟨port, vc, dt, ecc, crc, header, tag, kind, seq⟩
    have recovery : (advance now s.dev).pow.phase = .recovery := (advance_phase ..).trans phase
    show (_ → execRecoveryPacket now p f s = _) ∧ (_ → execRecoveryPacket now p f s = _) ∧ (_ → execRecoveryPacket now p f s = _)
    refine ⟨?part, fun gap => ?gap, ?whole⟩
    case part =>
      rintro ⟨rsvd, body, offset, some, part, short⟩
      exact State.act_timed ((if_pos recovery).trans
        (Device.recoveryPacket_of_part carries f ⟨rsvd, body, offset, some⟩ rfl part short))
    case gap => exact State.act_timed ((if_pos recovery).trans (Device.recoveryPacket_of_gap carries f gap))
    case whole =>
      rintro ⟨rsvd, body, offset, some, last, known, whole, sound⟩
      exact State.act_timed ((if_pos recovery).trans
        (Device.recoveryPacket_of_whole carries f ⟨rsvd, body, offset, some⟩ rfl last known whole sound))

end Sys2Proof.Machine
end
